-- ==== Sys2Proof/Word.lean ====
section
/-! DEFINITION. The word types of the GM1 and the names of its units (00_scope.md R3 to R16). -/
namespace Sys2Proof

/-- A 32-bit word, the unit of parity and of FIFO entries (R21, R369). -/
abbrev Word := BitVec 32

/-- A byte; multi-byte data is little-endian (R4). -/
abbrev Byte := BitVec 8

/-- A 128 B line of memory, byte `i` in bits `[8i+7:8i]` (R4, R190). -/
abbrev LineData := BitVec 1024

/-- One bit per byte of a line. -/
abbrev LineMask := BitVec 128

/-- One bit per 32-bit word of a line: the poison tags of R371. -/
abbrev LinePoison := BitVec 32

/-- Global core id: floe [19:13], cluster [12:6], core [5:0] (R16). -/
abbrev CoreId := BitVec 20

/-- Cluster pointer: bits [19:6] of the core ids of the cluster (R199). -/
abbrev Clu := BitVec 14

/-- Floe number, 0 to 127 (R29). -/
abbrev Floe := BitVec 7

/-- Amdon port number, 0 to 31 (R31). -/
abbrev PortId := BitVec 5

/-- Queue id (R302). -/
abbrev QId := BitVec 16

/-- Address-space id (R338). -/
abbrev Asid := BitVec 16

/-- Reduction-descriptor id (R230). -/
abbrev DescId := BitVec 16

/-- Module id (R13, R262). -/
abbrev ModId := BitVec 15

/-- An error code of R20 and R335. -/
abbrev Code := BitVec 16

end Sys2Proof
end

