-- ==== Sys2Proof/Syntax.lean ====
section
/-! DEFINITION. The commands of the GM1: one constructor of `Instr` for each row of spec/opcode_table.json, with the row's
operands as the formats of R139 and the chapters' packets, messages and events give them. -/
namespace Sys2Proof

/-- The group of one core that an instruction of the Tongamin set issues from (R38, R39). -/
structure GroupAt where
  core : CoreId
  grp : BitVec 4
  deriving DecidableEq, Repr

/-- Operand and conversion types (R138). -/
inductive Ty where
  | i32 | u32 | i64 | u64 | f32 | f64 | bf16 | fp16 | e4m3 | e5m2
  deriving DecidableEq, Repr

/-- Rounding modes (R67, R138). -/
inductive Rm where
  | rn | rz | ru | rd
  deriving DecidableEq, Repr

/-- A 9-bit operand field (R136). -/
inductive Opnd where
  | v (n : BitVec 8)
  | s (n : BitVec 6)
  | lane
  | zero
  | none
  deriving DecidableEq, Repr

/-- The second source of a vector instruction: a register operand in format V, IMM24 in format VI (R139, R140). -/
inductive VSrc where
  | op (o : Opnd)
  | imm (i : BitVec 24)
  deriving DecidableEq, Repr

/-- Fields of formats V and VI (R139). -/
structure VF where
  ty : Ty
  rm : Rm
  src0 : Opnd
  src1 : VSrc
  src2 : Opnd
  dst : Opnd
  md : BitVec 11
  deriving DecidableEq, Repr

/-- Fields of format S (R139). -/
structure SF where
  immf : Bool
  dst : BitVec 6
  src0 : BitVec 6
  src1 : BitVec 6
  w64 : Bool
  imm : BitVec 32
  deriving DecidableEq, Repr

/-- The ten compare opcodes of SCMP (R145). -/
inductive SCond where
  | eq | ne | lt | le | gt | ge | ltu | leu | gtu | geu
  deriving DecidableEq, Repr

/-- Access sizes (R139). -/
inductive MSize where
  | b1 | b2 | b4 | b8 | b16
  deriving DecidableEq, Repr

/-- Access kinds (R58). -/
inductive Kind where
  | ca | cg | uc | nw
  deriving DecidableEq, Repr

/-- Fields of format M (R139). `spad` is SPACE 1, `vaddr` is AMODE 1. -/
structure MF where
  size : MSize
  kind : Kind
  spad : Bool
  vaddr : Bool
  data : Opnd
  sbase : BitVec 6
  index : Opnd
  scl : BitVec 2
  sign : Bool
  off : BitVec 18
  deriving DecidableEq, Repr

/-- Array modes (R19, R139). -/
inductive MxMode where
  | mma | l1d | l2d | minplus | maxplus | cmpc | ham
  deriving DecidableEq, Repr

/-- Element formats of the array, coded as FMT of R104. -/
inductive Fmt where
  | mxfp4 | mxint8 | e4m3 | e5m2 | int8 | uint8 | int16 | bf16
  deriving DecidableEq, Repr

/-- Packings (R73). -/
inductive Pack where
  | p1 | p4 | p16
  deriving DecidableEq, Repr

/-- Drain formats (R95). -/
inductive DFmt where
  | fp32 | bf16 | e4m3 | int32
  deriving DecidableEq, Repr

/-- Fields of format X (R139). `ascr` is ASRC 1, the scratchpad. -/
structure XF where
  mode : MxMode
  afmt : Fmt
  bfmt : Fmt
  ascr : Bool
  sub : BitVec 4
  sa : BitVec 6
  sb : BitVec 6
  sn : BitVec 6
  pack : Pack
  dfmt : DFmt
  clr : Bool
  deriving DecidableEq, Repr

/-- Fence scopes (R17, R157). -/
inductive Scope where
  | grp | blk | clu | dev | sys
  deriving DecidableEq, Repr

/-- Fence orderings (R158). -/
inductive FOrd where
  | acq | rel | ar
  deriving DecidableEq, Repr

/-- Fields of format Y (R139). -/
structure YF where
  scope : Scope
  ord : FOrd
  desc : DescId
  deriving DecidableEq, Repr

/-- Fields of format F (R139). -/
structure FF where
  sreg : BitVec 6
  desc : DescId
  deriving DecidableEq, Repr

/-- Which instance of an execution barrier is released (R170). -/
inductive BarRef where
  | core (c : CoreId)
  | clu (launch : Nat) (c : Clu)
  | sys (d : DescId)
  deriving DecidableEq, Repr

/-- The requester of a coherence request (R203, R216): a miss entry of an L2 slice, or a tag of another module. -/
inductive Who where
  | clu (c : Clu) (tag : BitVec 5) (ep : BitVec 8)
  | remote (m : ModId) (tag : BitVec 10) (ep : BitVec 8) (port : PortId)
  deriving DecidableEq, Repr

/-- A coherence request's header: the line (physical offset divided by 128) and the requester (R203). -/
structure Req where
  line : Nat
  who : Who
  deriving DecidableEq, Repr

/-- What the stack reports for one read of a line: the on-die severity of each burst (0 none, 1 corrected,
2 uncorrected) and the data words whose parity fails (R280). -/
structure ReadReport where
  sev0 : BitVec 2
  sev1 : BitVec 2
  sev2 : BitVec 2
  sev3 : BitVec 2
  par : LinePoison
  deriving DecidableEq, Repr

/-- The contribution or partial that an UP message carries: its descriptor, EPOCH, ROUND and its place in the
tree of R238 as level and position; `bk` marks the backup worker's copy (R236, R241). -/
structure UpHdr where
  desc : DescId
  rowg : BitVec 16
  epoch : BitVec 8
  round : BitVec 8
  level : Nat
  pos : Nat
  bk : Bool
  deriving DecidableEq, Repr

/-- Where a result is delivered (R244). -/
inductive Reader where
  | router (c : Clu)
  | engine
  | remote (m : ModId)
  deriving DecidableEq, Repr

/-- A result flit's destination, descriptor and round (R236, R244). -/
structure DnHdr where
  desc : DescId
  rowg : BitVec 16
  epoch : BitVec 8
  round : BitVec 8
  dst : Reader
  deriving DecidableEq, Repr

/-- The data segment of a TIME message (R397). -/
structure TimeSeg where
  t2 : BitVec 64
  dt : BitVec 32
  seq : BitVec 8
  kind : BitVec 8
  deriving DecidableEq, Repr

/-- The size of a read of a popping register (R334, R403). -/
inductive RdSize where
  | b4
  | b8
  | b16
  deriving DecidableEq, Repr

def RdSize.bytes : RdSize → Nat
  | .b4 => 4
  | .b8 => 8
  | .b16 => 16

/-- What the error correction reports with a flit: the codewords that it corrected and those that it could not since the flit before, and
whether the flit touches one of the latter (R270, R273). -/
structure Fec where
  corr : BitVec 4
  unc : BitVec 4
  bad : Bool
  deriving DecidableEq, Repr

/-- The fields of the CTRL flit of NEGOTIATE (R257). -/
structure CtrlFields where
  versions : BitVec 16
  caps : BitVec 8
  width : BitVec 2
  reserved : BitVec 10
  shared : BitVec 10
  deriving DecidableEq, Repr

/-- Causes of a device reset (R383). -/
inductive RstCause where
  | host | tilehang | fatalQueue | fatalStep
  deriving DecidableEq, Repr

/-- Who performs a register access: the host through BAR0 or BAR2, or nunatak firmware at the control-space
offset (R465, R466, R468). -/
inductive Agent where
  | bar0 | bar2 | firmware
  deriving DecidableEq, Repr

/-- The two nunataks (R30). -/
inductive Side where
  | west | east
  deriving DecidableEq, Repr

/-- Self-test results: physical clusters that fail, as floe × 132 + cluster, and whether the fabric passes (R418). -/
structure SelfTestReport where
  failed : List Nat
  fabricOk : Bool
  deriving DecidableEq, Repr

/-- Training results of one HBM channel that is not clean (R297, R298). -/
structure ChanReport where
  floe : Floe
  ch : BitVec 4
  caFail : Bool
  lanes0 : List (BitVec 8)
  lanes1 : List (BitVec 8)
  testFail : Bool
  stackFail : Bool
  deriving DecidableEq, Repr

/-- The commands, one constructor per row of the opcode table. -/
inductive Instr where
  -- vector arithmetic, compare, conversion and cross-lane (R141)
  | vmov (g : GroupAt) (f : VF)
  | vadd (g : GroupAt) (f : VF)
  | vsub (g : GroupAt) (f : VF)
  | vmullo (g : GroupAt) (f : VF)
  | vmulhi (g : GroupAt) (f : VF)
  | vmin (g : GroupAt) (f : VF)
  | vmax (g : GroupAt) (f : VF)
  | vand (g : GroupAt) (f : VF)
  | vor (g : GroupAt) (f : VF)
  | vxor (g : GroupAt) (f : VF)
  | vnot (g : GroupAt) (f : VF)
  | vshl (g : GroupAt) (f : VF)
  | vshr (g : GroupAt) (f : VF)
  | vsel (g : GroupAt) (f : VF)
  | vpopc (g : GroupAt) (f : VF)
  | vclz (g : GroupAt) (f : VF)
  | vfadd (g : GroupAt) (f : VF)
  | vfsub (g : GroupAt) (f : VF)
  | vfmul (g : GroupAt) (f : VF)
  | vfma (g : GroupAt) (f : VF)
  | vfmin (g : GroupAt) (f : VF)
  | vfmax (g : GroupAt) (f : VF)
  | vfabs (g : GroupAt) (f : VF)
  | vfneg (g : GroupAt) (f : VF)
  | vrcp (g : GroupAt) (f : VF)
  | vrsq (g : GroupAt) (f : VF)
  | vex2 (g : GroupAt) (f : VF)
  | vlg2 (g : GroupAt) (f : VF)
  | vsin (g : GroupAt) (f : VF)
  | vcos (g : GroupAt) (f : VF)
  | vcmp (g : GroupAt) (f : VF)
  | vset (g : GroupAt) (f : VF)
  | vcvt (g : GroupAt) (src dst : Ty) (f : VF)
  | vshfl (g : GroupAt) (f : VF)
  | vred (g : GroupAt) (f : VF)
  | srdlane (g : GroupAt) (f : VF)
  -- scalar arithmetic and special registers (R145)
  | smov (g : GroupAt) (f : SF)
  | sadd (g : GroupAt) (f : SF)
  | ssub (g : GroupAt) (f : SF)
  | smul (g : GroupAt) (f : SF)
  | sand (g : GroupAt) (f : SF)
  | sor (g : GroupAt) (f : SF)
  | sxor (g : GroupAt) (f : SF)
  | sandn (g : GroupAt) (f : SF)
  | sshl (g : GroupAt) (f : SF)
  | sshr (g : GroupAt) (f : SF)
  | ssra (g : GroupAt) (f : SF)
  | smin (g : GroupAt) (f : SF)
  | smax (g : GroupAt) (f : SF)
  | scmp (g : GroupAt) (c : SCond) (f : SF)
  | sfirst (g : GroupAt) (f : SF)
  | spopc (g : GroupAt) (f : SF)
  | srds (g : GroupAt) (f : SF)
  | swrs (g : GroupAt) (f : SF)
  -- branches (R146)
  | sbr (g : GroupAt) (f : SF)
  | sbrz (g : GroupAt) (f : SF)
  | sbrnz (g : GroupAt) (f : SF)
  | sbrexz (g : GroupAt) (f : SF)
  | sbrexnz (g : GroupAt) (f : SF)
  | sjmpr (g : GroupAt) (f : SF)
  | scall (g : GroupAt) (f : SF)
  | scallr (g : GroupAt) (f : SF)
  | sexit (g : GroupAt) (f : SF)
  | snop (g : GroupAt) (f : SF)
  -- loads, stores and atomics (R148)
  | ld (g : GroupAt) (f : MF)
  | lds (g : GroupAt) (f : MF)
  | st (g : GroupAt) (f : MF)
  | ldr (g : GroupAt) (f : MF)
  | stc (g : GroupAt) (f : MF)
  | aadd (g : GroupAt) (f : MF)
  | aand (g : GroupAt) (f : MF)
  | aor (g : GroupAt) (f : MF)
  | axor (g : GroupAt) (f : MF)
  | amin (g : GroupAt) (f : MF)
  | amax (g : GroupAt) (f : MF)
  | aumin (g : GroupAt) (f : MF)
  | aumax (g : GroupAt) (f : MF)
  | axchg (g : GroupAt) (f : MF)
  | acas (g : GroupAt) (f : MF)
  | afadd (g : GroupAt) (f : MF)
  -- matrix instructions and the array's own events (R78, R89, R90)
  | mxpack (g : GroupAt) (f : XF)
  | mxz (g : GroupAt) (f : XF)
  | mxop (g : GroupAt) (f : XF)
  | mxdrn (g : GroupAt) (f : XF)
  | mxsync (g : GroupAt) (f : XF)
  | kBlockEnd (core : CoreId) (sub : BitVec 4)
  | scaleFold (core : CoreId)
  -- fences, barriers and firn instructions (R151, R152)
  | fence (g : GroupAt) (f : YF)
  | barCore (g : GroupAt) (f : YF)
  | barClu (g : GroupAt) (f : YF)
  | barSys (g : GroupAt) (f : YF)
  | barrierRelease (b : BarRef)
  | fnput (g : GroupAt) (f : FF)
  | fnget (g : GroupAt) (f : FF)
  | fntest (g : GroupAt) (f : FF)
  | storeBufferDrain (g : GroupAt)
  | protectionTimeout (g : GroupAt)
  -- coherence messages (R202)
  | rds (r : Req)
  | rdx (r : Req)
  | upg (r : Req)
  | rdz (r : Req)
  | wbd (r : Req)
  | evc (r : Req)
  | ucr (r : Req)
  | ucw (r : Req)
  | uca (r : Req)
  | rty (home : Floe) (slot : BitVec 10) (ep : BitVec 8)
  | fwdS (line : Nat) (dst : Clu)
  | fwdX (line : Nat) (dst : Clu)
  | inv (line : Nat) (dst : Clu)
  | rclS (line : Nat) (dst : Clu)
  | rclI (line : Nat) (dst : Clu)
  | data (r : Req)
  | grant (r : Req)
  | nack (r : Req)
  | wback (line : Nat) (dst : Clu)
  | ucdone (r : Req)
  | dataF (r : Req)
  | ack (line : Nat) (src : Clu)
  | cmp (r : Req)
  -- the moraine controller (R208, R280 to R294)
  | evictionDrain (line : Nat)
  | wcbEvict (line : Nat)
  | gather (g : GroupAt) (sector : Nat)
  | hbmRead (line : Nat) (first second : ReadReport)
  | refresh (floe : Floe) (pc : BitVec 5)
  | tempReading (floe : Floe) (celsius : BitVec 8)
  | channelStop (floe : Floe) (ch : BitVec 4)
  -- firn flits and descriptor confirmation (R236 to R244, R268)
  | up (u : UpHdr)
  | dn (d : DnHdr)
  | mgmt (src : ModId) (desc : DescId) (epoch : BitVec 8) (digest : BitVec 384)
  | descConfirmTimeout (desc : DescId)
  -- Amdon links (R253 to R273, R397)
  | time (port : PortId) (m : TimeSeg) (sub : BitVec 6)
  | dataFlit (port : PortId) (flit : BitVec 2048) (fec : Fec)
  | idleFlit (port : PortId) (flit : BitVec 2048) (fec : Fec)
  | nak (port : PortId) (seq : BitVec 12)
  | detect (port : PortId) (lanes : BitVec 8)
  | equalise (port : PortId) (pass : BitVec 8)
  | align (port : PortId)
  | negotiate (port : PortId) (peer : CtrlFields)
  | identify (port : PortId) (pmod : ModId) (pport : PortId) (pdir : BitVec 3) (pver : BitVec 4)
  | trainingTimeout (port : PortId)
  | remoteTagTimeout (tag : BitVec 10)
  | amCtrlEn (port : PortId) (en : Bool)
  | amCtrlTrain (port : PortId)
  -- queues (R305 to R334)
  | doorbell (q : QId) (w : Word)
  | queueIdle (q : QId)
  | ringFetch (q : QId)
  | packetCheck (q : QId)
  | packetRetire (q : QId)
  | dbReply0Pop (q : QId) (n : RdSize)
  | dbKcfgEn (q : QId) (v : Word)
  -- packets (R313 to R325)
  | step (q : QId)
  | copy (q : QId)
  | launch (q : QId)
  | wait (q : QId)
  | waitPoll (q : QId)
  | waitTimeout (q : QId)
  | signal (q : QId)
  | nop (q : QId)
  | queueCreate (q : QId)
  | queueDestroy (q : QId)
  | queueLimit (q : QId)
  | asCreate (q : QId)
  | asEdit (q : QId)
  | asDestroy (q : QId)
  | kvQuota (q : QId)
  | modelLoad (q : QId)
  -- phases of a model load (R107)
  | progLoad (q : QId)
  | descSet (q : QId)
  | descRelease (q : QId)
  | fwinSet (q : QId)
  -- the step engine (R113, R358)
  | embed (node : Nat)
  | placed (node : Nat)
  | reduce (node : Nat)
  | select (node : Nat)
  | verify (node : Nat)
  | draft (node : Nat)
  | commit (node : Nat)
  | endNode (node : Nat)
  -- tiles (R361 to R365)
  | tileDispatch (launch : Nat) (core : CoreId)
  | tileStart (core : CoreId)
  | tileFinish (core : CoreId)
  | launchComplete (launch : Nat)
  | tileTimerExpiry (core : CoreId)
  -- errors and reset (R373, R383)
  | weightRefetch (g : GroupAt) (store : CoreId) (off : BitVec 18)
  | deviceReset (cause : RstCause)
  -- the host port (R165, R416, R417, R451)
  | hostBar4Write (off : Nat) (bytes : List Byte) (poisoned : Bool)
  | hostBar4Read (off : Nat) (len : Nat)
  | feHwinWrite (v : BitVec 64)
  | bar4Resize (log2 : BitVec 6)
  | configRequest (off : BitVec 12) (write : Option Word)
  | feKvpWrite (npage : Bool) (v : BitVec 64)
  -- registers (R8, R405, R406)
  | readClear (a : Agent) (off len : Nat)
  | registerWrite (a : Agent) (off : Nat) (wide : Bool) (v : BitVec 64)
  | dgCselWrite (clu : Clu) (n : BitVec 3) (v : Word)
  | dgCctlClr (clu : Clu)
  | dgTrigArm (v : Word)
  | triggerAction (clu : Clu)
  | pcSample (clu : Clu)
  | watchRecord (desc : DescId) (rowg : BitVec 16)
  -- the time base (R391 to R398)
  | pllLock (port : PortId)
  | timeExchangeTick (sub : BitVec 6)
  -- islands (R444, R445)
  | clockStop (clu : Clu)
  | clockRestart (clu : Clu)
  | supplyDroop (clu : Clu)
  | droopRecoveryTick (clu : Clu)
  | tjSample (clu : Clu) (celsius : BitVec 8)
  | thermalTrip (clu : Clu)
  | islandGate (clu : Clu)
  | islandWake (clu : Clu)
  -- power and cooling (R436 to R441, R458)
  | inputVoltageChange (mv : BitVec 16)
  | coolantCondition (inlet outlet : BitVec 8)
  -- boot, identity and management (R415 to R434)
  | strapAccept (side : Side) (level : Bool)
  | strapLiveMismatch (side : Side)
  | heartbeatSend (side : Side)
  | heartbeatFrame (side : Side) (frame : BitVec 64)
  | heartbeatTimeout (side : Side)
  | ntHbKick (side : Side)
  | bootGo (side : Side)
  | selftest (r : SelfTestReport)
  | hbmTraining (r : List ChanReport)
  | quote (side : Side)
  | status (frame : List Byte)
  | setTopo (frame : List Byte)
  | resetCmd (frame : List Byte)
  | telem (frame : List Byte)
  | strapCmd (frame : List Byte)
  | quoteDone (side : Side)
  | hostPortTrained (side : Side)
  | unknownCmd (frame : List Byte)
  | addressParityRetry (floe : Floe) (ch : BitVec 4)
  | cagePresenceFault (port : PortId) (present fault : Bool)
  -- commands with no operand: phases of a model load (R107), step boundary (R358), reset (R384), PERST# (R417), FIFO pops
  -- (R403), time (R391 to R398), power (R437 to R441) and boot stages (R415 to R421)
  | check
  | golden
  | write
  | ready
  | stepBoundary
  | resetComplete
  | perst
  | dgPcsPop0 (n : RdSize)
  | dgTrPop0 (n : RdSize)
  | timeCode
  | seriesTimeout
  | holdover
  | relock
  | powerUp
  | inputPowerLoss
  | currentLimit
  | railFault
  | rom
  | peerVerify
  | links
  | sync
  deriving DecidableEq, Repr

end Sys2Proof
end

