-- ==== Sys2Proof/Decode.lean ====
section
/-! DEFINITION. The command that a word of the opcode table spells. No row of the table gives a bit: its commands come with their operands
(a message, a register access, an event), so no word spells one. -/
namespace Sys2Proof

/-- (DESIGN CHOICE, log entry 4; safe.) -/
def decodeTableWord (_nbits _w : Nat) : Option Instr := none

end Sys2Proof
end

