-- ==== Sys2Proof/Machine/Bits.lean ====
section
/-! DEFINITION. Bit fields, byte order and masks (R3, R4), and the checks and digests the manual names: CRC-32C (R104), CRC-64 (R247,
R253), CRC-16 (R431) and SHA-384 (R106, R420). -/
namespace Sys2Proof.Machine

/-- Bits `[lo+w-1:lo]` of `x`. -/
def bits {n : Nat} (x : BitVec n) (lo w : Nat) : BitVec w := x.extractLsb' lo w

/-- Bits `[lo+w-1:lo]` of `x` as a number. -/
def fieldN {n : Nat} (x : BitVec n) (lo w : Nat) : Nat := (x.extractLsb' lo w).toNat

/-- Bit `i` of `x`. -/
def bitAt {n : Nat} (x : BitVec n) (i : Nat) : Bool := x.getLsbD i

/-- A field value placed at bit `lo` of an `n`-bit word. -/
def place (n lo : Nat) {w : Nat} (x : BitVec w) : BitVec n := (x.setWidth n) <<< lo

/-- A flag placed at bit `lo`. -/
def flagAt (n lo : Nat) (b : Bool) : BitVec n := if b then (1#n) <<< lo else 0#n

/-- The value whose little-endian bytes are `bs` (R4). -/
def natOfBytes : List Byte → Nat
  | [] => 0
  | b :: bs => b.toNat + 256 * natOfBytes bs

def ofBytes (n : Nat) (bs : List Byte) : BitVec n := BitVec.ofNat n (natOfBytes bs)

/-- The lowest `k` bytes of `x`, lowest address first. -/
def toBytes {n : Nat} (k : Nat) (x : BitVec n) : List Byte :=
  (List.range k).map fun i => x.extractLsb' (8 * i) 8

/-- The 32-bit words of a byte list, four bytes each. -/
def wordsOf (bs : List Byte) (n : Nat) : List Word :=
  (List.range n).map fun i => ofBytes 32 ((bs.drop (4 * i)).take 4)

/-- Word `i` of a word list, 0 beyond its end. -/
def wordAt (ws : List Word) (i : Nat) : Word := ws.getD i 0

/-- The 64-bit value of words `i` and `i + 1`, low word first. -/
def dwordAt (ws : List Word) (i : Nat) : BitVec 64 := (wordAt ws (i + 1)) ++ (wordAt ws i)

/-- A mask of bits from a mask of `k`-bit groups: bit `j` of group `i` is bit `i` of `m`. -/
def spread (k : Nat) {n : Nat} (m : BitVec n) : BitVec (n * k) :=
  BitVec.ofNat (n * k) ((List.range n).foldl (fun a i => if m.getLsbD i then a + (2 ^ k - 1) * 2 ^ (k * i) else a) 0)

/-- `old` with the bytes that `mask` names replaced by those of `new`. -/
def mergeLine (old new : LineData) (mask : LineMask) : LineData :=
  let b := spread 8 mask
  (old &&& ~~~b) ||| (new &&& b)

/-- The mask of `len` bytes from byte `lo` of a line; bytes past the line are dropped. -/
def byteMask (lo len : Nat) : LineMask := BitVec.ofNat 128 ((2 ^ len - 1) * 2 ^ lo)

/-- The words of a line that `mask` covers whole: a store that writes all four bytes of a word clears its poison (R371). -/
def wholeWords (mask : LineMask) : LinePoison :=
  BitVec.ofNat 32 ((List.range 32).foldl (fun a i => if mask.extractLsb' (4 * i) 4 = 15#4 then a + 2 ^ i else a) 0)

/-- The words of a line that `mask` touches. -/
def anyWords (mask : LineMask) : LinePoison :=
  BitVec.ofNat 32 ((List.range 32).foldl (fun a i => if mask.extractLsb' (4 * i) 4 = 0#4 then a else a + 2 ^ i) 0)

/-- The sectors of a line that `mask` touches, one bit each. -/
def anySectors (mask : LineMask) : BitVec 4 :=
  BitVec.ofNat 4 ((List.range 4).foldl (fun a i => if mask.extractLsb' (32 * i) 32 = 0#32 then a else a + 2 ^ i) 0)

/-- The byte mask of the sectors named in `s`. -/
def sectorMask (s : BitVec 4) : LineMask :=
  BitVec.ofNat 128 ((List.range 4).foldl (fun a i => if s.getLsbD i then a + (2 ^ 32 - 1) * 2 ^ (32 * i) else a) 0)

/-- The number of ones. -/
def popcount {n : Nat} (x : BitVec n) : Nat :=
  (List.range n).foldl (fun a i => if x.getLsbD i then a + 1 else a) 0

/-- The lowest set bit, or `n`. -/
def lowestBit {n : Nat} (x : BitVec n) : Nat := ((List.range n).find? fun i => x.getLsbD i).getD n

/-- The set bits in ascending order. -/
def setBits {n : Nat} (x : BitVec n) : List Nat := (List.range n).filter fun i => x.getLsbD i

/-- Saturating increment of a counter that holds its largest value (R249, R273, R388). -/
def satAdd {n : Nat} (x : BitVec n) (k : Nat) : BitVec n := BitVec.ofNat n (min (x.toNat + k) (2 ^ n - 1))

/-- ⌈a ÷ b⌉. -/
def ceilDiv (a b : Nat) : Nat := (a + b - 1) / b

/-- One bit of a CRC that shifts toward the low bit (reflected form). -/
def crcStepR {n : Nat} (poly : BitVec n) (c : BitVec n) : BitVec n :=
  if c.getLsbD 0 then (c >>> 1) ^^^ poly else c >>> 1

/-- One bit of a CRC that shifts toward the high bit. -/
def crcStepL {n : Nat} (poly : BitVec n) (c : BitVec n) : BitVec n :=
  if c.msb then (c <<< 1) ^^^ poly else c <<< 1

def crcByteR {n : Nat} (poly : BitVec n) (c : BitVec n) (b : Byte) : BitVec n :=
  (List.range 8).foldl (fun a _ => crcStepR poly a) (c ^^^ b.setWidth n)

def crcByteL {n : Nat} (poly : BitVec n) (c : BitVec n) (b : Byte) : BitVec n :=
  (List.range 8).foldl (fun a _ => crcStepL poly a) (c ^^^ ((b.setWidth n) <<< (n - 8)))

/-- CRC-32C, polynomial 0x1EDC_6F41 (R104), in the reflected form with initial value and final XOR of all ones that the
name CRC-32C carries. PRESUMED: the manual gives the name and the polynomial only; unsafe (log entry 20). -/
def crc32c (bs : List Byte) : BitVec 32 :=
  ~~~(bs.foldl (crcByteR 0x82F63B78#32) 0xFFFFFFFF#32)

/-- CRC-64, polynomial 0x42F0_E1EB_A9EA_3693, initial value 0, not reflected, no final XOR (R247, R253). -/
def crc64 (bs : List Byte) : BitVec 64 := bs.foldl (crcByteL 0x42F0E1EBA9EA3693#64) 0#64

/-- CRC-16, polynomial 0x1021, initial value 0xFFFF (R431). -/
def crc16 (bs : List Byte) : BitVec 16 := bs.foldl (crcByteL 0x1021#16) 0xFFFF#16

/-- The round constants of SHA-384 (R106): 64 bits of the fractional parts of the cube roots of the first 80 primes. -/
def shaK : List (BitVec 64) :=
  [0x428A2F98D728AE22#64, 0x7137449123EF65CD#64, 0xB5C0FBCFEC4D3B2F#64, 0xE9B5DBA58189DBBC#64,
   0x3956C25BF348B538#64, 0x59F111F1B605D019#64, 0x923F82A4AF194F9B#64, 0xAB1C5ED5DA6D8118#64,
   0xD807AA98A3030242#64, 0x12835B0145706FBE#64, 0x243185BE4EE4B28C#64, 0x550C7DC3D5FFB4E2#64,
   0x72BE5D74F27B896F#64, 0x80DEB1FE3B1696B1#64, 0x9BDC06A725C71235#64, 0xC19BF174CF692694#64,
   0xE49B69C19EF14AD2#64, 0xEFBE4786384F25E3#64, 0x0FC19DC68B8CD5B5#64, 0x240CA1CC77AC9C65#64] ++
  [0x2DE92C6F592B0275#64, 0x4A7484AA6EA6E483#64, 0x5CB0A9DCBD41FBD4#64, 0x76F988DA831153B5#64,
   0x983E5152EE66DFAB#64, 0xA831C66D2DB43210#64, 0xB00327C898FB213F#64, 0xBF597FC7BEEF0EE4#64,
   0xC6E00BF33DA88FC2#64, 0xD5A79147930AA725#64, 0x06CA6351E003826F#64, 0x142929670A0E6E70#64,
   0x27B70A8546D22FFC#64, 0x2E1B21385C26C926#64, 0x4D2C6DFC5AC42AED#64, 0x53380D139D95B3DF#64,
   0x650A73548BAF63DE#64, 0x766A0ABB3C77B2A8#64, 0x81C2C92E47EDAEE6#64, 0x92722C851482353B#64] ++
  [0xA2BFE8A14CF10364#64, 0xA81A664BBC423001#64, 0xC24B8B70D0F89791#64, 0xC76C51A30654BE30#64,
   0xD192E819D6EF5218#64, 0xD69906245565A910#64, 0xF40E35855771202A#64, 0x106AA07032BBD1B8#64,
   0x19A4C116B8D2D0C8#64, 0x1E376C085141AB53#64, 0x2748774CDF8EEB99#64, 0x34B0BCB5E19B48A8#64,
   0x391C0CB3C5C95A63#64, 0x4ED8AA4AE3418ACB#64, 0x5B9CCA4F7763E373#64, 0x682E6FF3D6B2B8A3#64,
   0x748F82EE5DEFB2FC#64, 0x78A5636F43172F60#64, 0x84C87814A1F0AB72#64, 0x8CC702081A6439EC#64] ++
  [0x90BEFFFA23631E28#64, 0xA4506CEBDE82BDE9#64, 0xBEF9A3F7B2C67915#64, 0xC67178F2E372532B#64,
   0xCA273ECEEA26619C#64, 0xD186B8C721C0C207#64, 0xEADA7DD6CDE0EB1E#64, 0xF57D4F7FEE6ED178#64,
   0x06F067AA72176FBA#64, 0x0A637DC5A2C898A6#64, 0x113F9804BEF90DAE#64, 0x1B710B35131C471B#64,
   0x28DB77F523047D84#64, 0x32CAAB7B40C72493#64, 0x3C9EBE0A15C9BEBC#64, 0x431D67C49C100D4C#64,
   0x4CC5D4BECB3E42B6#64, 0x597F299CFC657E2A#64, 0x5FCB6FAB3AD6FAEC#64, 0x6C44198C4A475817#64]

def shaInit : List (BitVec 64) :=
  [0xCBBB9D5DC1059ED8#64, 0x629A292A367CD507#64, 0x9159015A3070DD17#64, 0x152FECD8F70E5939#64,
   0x67332667FFC00B31#64, 0x8EB44A8768581511#64, 0xDB0C2E0D64F98FA7#64, 0x47B5481DBEFA4FA4#64]

def rotr64 (x : BitVec 64) (k : Nat) : BitVec 64 := (x >>> k) ||| (x <<< (64 - k))

def bigEnd64 (bs : List Byte) : BitVec 64 := ofBytes 64 (bs.take 8).reverse

/-- The message schedule, newest word first. -/
def shaSchedule (w : List (BitVec 64)) : Nat → List (BitVec 64)
  | 0 => w
  | k + 1 =>
    let v := shaSchedule w k
    let a := v.getD 1 0
    let b := v.getD 14 0
    let s1 := rotr64 a 19 ^^^ rotr64 a 61 ^^^ (a >>> 6)
    let s0 := rotr64 b 1 ^^^ rotr64 b 8 ^^^ (b >>> 7)
    (s1 + v.getD 6 0 + s0 + v.getD 15 0) :: v

def shaRound (h : List (BitVec 64)) (kw : BitVec 64 × BitVec 64) : List (BitVec 64) :=
  match h with
  | [a, b, c, d, e, f, g, x] =>
    let t1 := x + (rotr64 e 14 ^^^ rotr64 e 18 ^^^ rotr64 e 41) + ((e &&& f) ^^^ (~~~e &&& g)) + kw.1 + kw.2
    let t2 := (rotr64 a 28 ^^^ rotr64 a 34 ^^^ rotr64 a 39) + ((a &&& b) ^^^ (a &&& c) ^^^ (b &&& c))
    [t1 + t2, a, b, c, d + t1, e, f, g]
  | _ => h

def shaBlock (h : List (BitVec 64)) (blk : List Byte) : List (BitVec 64) :=
  let w := (List.range 16).map fun i => bigEnd64 (blk.drop (8 * i))
  let ws := (shaSchedule w.reverse 64).reverse
  let r := (shaK.zip ws).foldl shaRound h
  List.zipWith (· + ·) h r

/-- SHA-384 of a byte string, as 48 bytes in digest order. -/
def sha384 (bs : List Byte) : List Byte :=
  let len := bs.length
  let pad := (128 - (len + 17) % 128) % 128
  let msg := bs ++ [0x80#8] ++ List.replicate pad 0#8 ++ (toBytes 16 (BitVec.ofNat 128 (8 * len))).reverse
  let h := (List.range (msg.length / 128)).foldl (fun h i => shaBlock h ((msg.drop (128 * i)).take 128)) shaInit
  ((h.take 6).map fun x => (toBytes 8 x).reverse).flatten

end Sys2Proof.Machine
end

