-- ==== Sys2Proof/Machine/Curve.lean ====
section
/-! DEFINITION. ECDSA on brainpoolP384r1 (R420, R424, R425). -/
namespace Sys2Proof.Machine

/-- The curve y² = x³ + a·x + b over the integers modulo `curveP`, its base point and the order of that point (brainpoolP384r1). -/
def curveP : Nat := 0x8CB91E82A3386D280F5D6F7E50E641DF152F7109ED5456B412B1DA197FB71123ACD3A729901D1A71874700133107EC53
def curveA : Nat := 0x7BC382C63D8C150C3C72080ACE05AFA0C2BEA28E4FB22787139165EFBA91F90F8AA5814A503AD4EB04A8C7DD22CE2826
def curveB : Nat := 0x04A8C7DD22CE28268B39B55416F0447C2FB77DE107DCD2A62E880EA53EEB62D57CB4390295DBC9943AB78696FA504C11
def curveX : Nat := 0x1D1C64F068CF45FFA2A63A81B7C13F6B8847A3E77EF14FE3DB7FCAFE0CBD10E8E826E03436D646AAEF87B2E247D4AF1E
def curveY : Nat := 0x8ABE1D7520F9C2A45CB1EB8E95CFD55262B70B29FEEC5864E19C054FF99129280E4646217791811142820341263C5315
def curveQ : Nat := 0x8CB91E82A3386D280F5D6F7E50E641DF152F7109ED5456B31F166E6CAC0425A7CF3AB6AF6B7FC3103B883202E9046565

/-- A point by its coordinates; none is the point at infinity. -/
abbrev CurvePt := Option (Nat × Nat)

def curveG : CurvePt := some (curveX, curveY)

/-- `b` to the power `e` modulo `m`, for an exponent of 384 bits. -/
def powMod (b e m : Nat) : Nat :=
  (List.range 384).foldl (fun r i => let s := r * r % m; if e.testBit (383 - i) then s * b % m else s) 1

/-- The inverse modulo a prime. -/
def invMod (a m : Nat) : Nat := powMod (a % m) (m - 2) m

/-- A difference modulo `curveP`. -/
def curveSub (a b : Nat) : Nat := (a % curveP + (curveP - b % curveP)) % curveP

/-- The third point of the line of slope `l` through (`x`, `y`) and a point with abscissa `x2`, reflected. -/
def curveThird (l x y x2 : Nat) : CurvePt :=
  let x3 := curveSub (curveSub (l * l) x) x2
  some (x3, curveSub (l * curveSub x x3) y)

def curveAdd (p q : CurvePt) : CurvePt :=
  match p, q with
  | none, _ => q
  | _, none => p
  | some (x1, y1), some (x2, y2) =>
    if x1 % curveP = x2 % curveP then
      if (y1 + y2) % curveP = 0 then none
      else curveThird ((3 * (x1 * x1) + curveA) * invMod (2 * y1) curveP % curveP) x1 y1 x2
    else curveThird (curveSub y2 y1 * invMod (curveSub x2 x1) curveP % curveP) x1 y1 x2

/-- The multiple of a point by a number of 384 bits. -/
def curveMul (k : Nat) (p : CurvePt) : CurvePt :=
  (List.range 384).foldl (fun r i => let d := curveAdd r r; if k.testBit (383 - i) then curveAdd d p else d) none

/-- The number that a digest stands for: its bytes, the most significant first. -/
def digestNum (d : List Byte) : Nat := natOfBytes d.reverse

/-- Whether (`r`, `s`) is a signature of a digest under a public key. -/
def ecdsaOk (key : CurvePt) (digest : List Byte) (r s : Nat) : Bool :=
  if r = 0 || curveQ ≤ r || s = 0 || curveQ ≤ s then false
  else
    let w := invMod s curveQ
    match curveAdd (curveMul (digestNum digest * w % curveQ) curveG) (curveMul (r * w % curveQ) key) with
    | none => false
    | some (x, _) => x % curveQ = r

/-- The signature of a digest by a private key with the secret number `k`. -/
def ecdsaSign (key : Nat) (digest : List Byte) (k : Nat) : Nat × Nat :=
  match curveMul (k % curveQ) curveG with
  | none => (0, 0)
  | some (x, _) =>
    let r := x % curveQ
    (r, invMod k curveQ * (digestNum digest + r * key) % curveQ)

end Sys2Proof.Machine
end

