-- ==== Sys2Proof/Machine/Encode.lean ====
section
/-! DEFINITION. The words of the Tongamin instruction set: the code of each operand (R136 to R138), the word of each format (R139), the
reading of an operand field back from a word, and the rows 0x3 to 0xA of the launch check (R131). -/
namespace Sys2Proof.Machine

def tyCode : Ty → BitVec 4
  | .i32 => 0
  | .u32 => 1
  | .i64 => 2
  | .u64 => 3
  | .f32 => 4
  | .f64 => 5
  | .bf16 => 6
  | .fp16 => 7
  | .e4m3 => 8
  | .e5m2 => 9

def rmCode : Rm → BitVec 2
  | .rn => 0
  | .rz => 1
  | .ru => 2
  | .rd => 3

def opndCode : Opnd → BitVec 9
  | .v n => n.setWidth 9
  | .s n => 0x100#9 + n.setWidth 9
  | .lane => 0x140
  | .zero => 0x141
  | .none => 0x1FF

def condCode : SCond → BitVec 8
  | .eq => 0x10
  | .ne => 0x11
  | .lt => 0x12
  | .le => 0x13
  | .gt => 0x14
  | .ge => 0x15
  | .ltu => 0x16
  | .leu => 0x17
  | .gtu => 0x18
  | .geu => 0x19

def sizeCode : MSize → BitVec 3
  | .b1 => 0
  | .b2 => 1
  | .b4 => 2
  | .b8 => 3
  | .b16 => 4

def kindCode : Kind → BitVec 2
  | .ca => 0
  | .cg => 1
  | .uc => 2
  | .nw => 3

def modeCode : MxMode → BitVec 3
  | .mma => 0
  | .l1d => 1
  | .l2d => 2
  | .minplus => 3
  | .maxplus => 4
  | .cmpc => 5
  | .ham => 6

/-- FMT of R104. -/
def fmtCode : Fmt → BitVec 4
  | .mxfp4 => 0
  | .mxint8 => 1
  | .e4m3 => 2
  | .e5m2 => 3
  | .int8 => 4
  | .uint8 => 5
  | .int16 => 6
  | .bf16 => 7

def packCode : Pack → BitVec 2
  | .p1 => 0
  | .p4 => 1
  | .p16 => 2

def dfmtCode : DFmt → BitVec 2
  | .fp32 => 0
  | .bf16 => 1
  | .e4m3 => 2
  | .int32 => 3

def scopeCode : Scope → BitVec 3
  | .grp => 0
  | .blk => 1
  | .clu => 2
  | .dev => 3
  | .sys => 4

def ordCode : FOrd → BitVec 2
  | .acq => 1
  | .rel => 2
  | .ar => 3

/-- The word of a vector instruction: format V with a register operand, format VI with IMM24. -/
def encV (op : BitVec 8) (f : VF) : BitVec 64 :=
  match f.src1 with
  | .op o =>
    place 64 60 1#4 ||| place 64 52 op ||| place 64 49 ((tyCode f.ty).setWidth 3) ||| place 64 47 (rmCode f.rm) |||
      place 64 38 (opndCode f.src2) ||| place 64 29 (opndCode o) ||| place 64 20 (opndCode f.src0) |||
      place 64 11 (opndCode f.dst) ||| place 64 0 f.md
  | .imm i =>
    place 64 60 2#4 ||| place 64 52 op ||| place 64 49 ((tyCode f.ty).setWidth 3) ||| place 64 47 (rmCode f.rm) |||
      place 64 38 (opndCode f.src0) ||| place 64 29 (opndCode f.dst) ||| place 64 5 i |||
      place 64 0 (f.md.setWidth 5)

/-- The word of VCVT: TYPE 0, MOD[7:4] the destination type and MOD[3:0] the source type. -/
def encCvt (src dst : Ty) (f : VF) : BitVec 64 :=
  encV 0x50 { f with ty := .i32, md := (tyCode dst ++ tyCode src).setWidth 11 }

def encS (cls : BitVec 4) (op : BitVec 8) (f : SF) : BitVec 64 :=
  place 64 60 cls ||| place 64 52 op ||| flagAt 64 51 f.immf ||| place 64 45 f.dst ||| place 64 39 f.src0 |||
    place 64 33 f.src1 ||| flagAt 64 32 f.w64 ||| place 64 0 f.imm

def encM (op : BitVec 8) (f : MF) : BitVec 64 :=
  place 64 60 4#4 ||| place 64 52 op ||| place 64 49 (sizeCode f.size) ||| place 64 47 (kindCode f.kind) |||
    flagAt 64 46 f.spad ||| flagAt 64 45 f.vaddr ||| place 64 36 (opndCode f.data) ||| place 64 30 f.sbase |||
    place 64 21 (opndCode f.index) ||| place 64 19 f.scl ||| flagAt 64 18 f.sign ||| place 64 0 f.off

def encX (op : BitVec 8) (f : XF) : BitVec 64 :=
  place 64 60 7#4 ||| place 64 52 op ||| place 64 49 (modeCode f.mode) ||| place 64 45 (fmtCode f.afmt) |||
    place 64 41 (fmtCode f.bfmt) ||| flagAt 64 40 f.ascr ||| place 64 36 f.sub ||| place 64 30 f.sa |||
    place 64 24 f.sb ||| place 64 18 f.sn ||| place 64 16 (packCode f.pack) ||| place 64 14 (dfmtCode f.dfmt) |||
    flagAt 64 13 f.clr

def encY (op : BitVec 8) (f : YF) : BitVec 64 :=
  place 64 60 8#4 ||| place 64 52 op ||| place 64 49 (scopeCode f.scope) ||| place 64 47 (ordCode f.ord) |||
    place 64 0 f.desc

/-- The word of an execution barrier, which has no SCOPE and no ORD; only BAR.sys uses DESC (R151). -/
def encBar (op : BitVec 8) (f : YF) (useDesc : Bool) : BitVec 64 :=
  place 64 60 8#4 ||| place 64 52 op ||| (if useDesc then place 64 0 f.desc else 0)

def encF (op : BitVec 8) (f : FF) : BitVec 64 :=
  place 64 60 9#4 ||| place 64 52 op ||| place 64 46 f.sreg ||| place 64 0 f.desc

/-- The operand that a 9-bit code names; none for a reserved code. -/
def opndOf (x : BitVec 9) : Option Opnd :=
  if x < 0x100#9 then some (.v (x.setWidth 8))
  else if x < 0x140#9 then some (.s (x.setWidth 6))
  else if x = 0x140#9 then some .lane
  else if x = 0x141#9 then some .zero
  else if x = 0x1FF#9 then some .none
  else none

/-- What an operand field may name: any source, a vector register, a scalar register, or either. -/
inductive Role where
  | any | vec | scl | vs
  deriving DecidableEq, Repr

/-- A 9-bit operand field that names a reserved code or the wrong kind of operand for its role (row 0x5, R137). A quad
must be a vector register. -/
def badOpnd (r : Role) (n : Nat) (x : BitVec 9) : Bool :=
  match opndOf x with
  | some (.v _) => r == .scl
  | some (.s _) => r == .vec || 2 < n
  | some .lane => r != .any || 2 < n
  | some .zero => r != .any || 2 < n
  | _ => true

/-- A register field that must be the base of `n` registers and is not (row 0x6). -/
def badBase (n : Nat) (x : BitVec 9) : Bool :=
  match opndOf x with
  | some (.v k) => k.toNat % n != 0
  | some (.s k) => k.toNat % n != 0
  | _ => false

/-- A vector register at or above the allocation `a` (row 0x7). -/
def badAlloc (a n : Nat) (x : BitVec 9) : Bool :=
  match opndOf x with
  | some (.v k) => a < k.toNat + n
  | _ => false

/-- The rows of R131 that one operand field meets. -/
def opndRows (a : Nat) (r : Role) (n : Nat) (x : BitVec 9) : List (Nat × Bool) :=
  [(5, badOpnd r n x), (6, !badOpnd r n x && badBase n x), (7, !badOpnd r n x && badAlloc a n x)]

/-- The rows of R131 that a 6-bit scalar field meets. -/
def sregRows (n : Nat) (x : BitVec 6) : List (Nat × Bool) := [(6, x.toNat % n != 0)]

/-- Registers of a value of TYPE code `t`. -/
def tyRegs (t : Nat) : Nat := if t = 2 || t = 3 || t = 5 then 2 else 1

/-- TYPE codes of each vector opcode (R141); none when OP is reserved. -/
def vecTypes (op : Nat) : Option (List Nat) :=
  if op = 0x00 || op = 0x40 || op = 0x41 then some [0, 1, 2, 3, 4, 5]
  else if op = 0x01 || op = 0x02 || op = 0x0B || op = 0x0C then some [0, 1, 2, 3]
  else if op = 0x03 || op = 0x04 || op = 0x05 || op = 0x06 then some [0, 1]
  else if 0x07 ≤ op && op ≤ 0x0A then some [1, 3]
  else if op = 0x0D || op = 0x0E || op = 0x0F then some [1]
  else if (0x20 ≤ op && op ≤ 0x27) || op = 0x30 || op = 0x31 then some [4, 5]
  else if 0x32 ≤ op && op ≤ 0x35 then some [4]
  else if op = 0x50 then some [0]
  else if op = 0x60 || op = 0x62 then some [1, 3]
  else if op = 0x61 then some [0, 1, 2, 3, 4, 5]
  else none

/-- Sources of each vector opcode. -/
def vecSrcs (op : Nat) : Nat :=
  if op = 0x0D || op = 0x23 then 3
  else if op = 0x00 || op = 0x0A || op = 0x0E || op = 0x0F || op = 0x26 || op = 0x27 || (0x30 ≤ op && op ≤ 0x35) ||
    op = 0x50 || op = 0x61 then 1
  else 2

def vecOnly (op : Nat) : Bool := op = 0x0D || op = 0x23 || op = 0x50

/-- The type pairs of R143. -/
def cvtPair (src dst : Nat) : Bool :=
  let f := [0, 1, 6, 7, 8, 9]
  let d := [0, 1, 2, 3, 4]
  (src = 4 && f.contains dst) || (dst = 4 && f.contains src) || (src = 5 && d.contains dst) || (dst = 5 && d.contains src)

/-- The opcode rounds its result or is a fixed function of R69, which takes RM without effect: RM may be non-zero for f-types. A move, a
compare, a minimum, a maximum, an absolute value, a negation and a VRED other than ADD do not use it (R67, R69, R131, R144). -/
def usesRm (op md : Nat) : Bool :=
  (0x20 ≤ op && op ≤ 0x23) || (0x30 ≤ op && op ≤ 0x35) || op = 0x50 || (op = 0x61 && md % 8 = 0)

/-- The rows of formats V and VI (R136 to R144). A non-zero RM of an integer type, which R131 lets be row 4 or row 5, is row 5.
(DEDUCED, log entry 44; unsafe.) -/
def vecRows (a : Nat) (w : BitVec 64) : List (Nat × Bool) :=
  let vi := fieldN w 60 4 = 2
  let op := fieldN w 52 8
  let ty := fieldN w 49 3
  let rm := fieldN w 47 2
  let src0 : BitVec 9 := if vi then bits w 38 9 else bits w 20 9
  let src1 : BitVec 9 := bits w 29 9
  let src2 : BitVec 9 := bits w 38 9
  let dst : BitVec 9 := if vi then bits w 29 9 else bits w 11 9
  let md : Nat := if vi then fieldN w 0 5 else fieldN w 0 11
  let ns := vecSrcs op
  let cvt := op = 0x50
  let n := if cvt then tyRegs (md % 16) else tyRegs ty
  let dn := if cvt then tyRegs (md / 16 % 16) else tyRegs ty
  let n1 := if op = 0x60 || op = 0x62 then 1 else n
  let cmp := op = 0x40 || op = 0x41
  [(3, (vecTypes op).isNone || (vi && vecOnly op)),
   (5, !((vecTypes op).getD []).contains ty),
   (5, !cvt && ty < 4 && rm != 0),
   (4, !cvt && 4 ≤ ty && !usesRm op md && rm != 0),
   (4, if cvt then 256 ≤ md else if cmp || op = 0x61 then 8 ≤ md else if op = 0x60 then 4 ≤ md else md != 0),
   (5, if cvt then !cvtPair (md % 16) (md / 16 % 16)
       else if cmp then md % 8 = 7 || (md % 8 = 6 && ty < 4)
       else if op = 0x61 then 6 ≤ md % 8 else false)] ++
  (if vi then
    (if op = 0x00 then [(4, src0 != 0)] else opndRows a .any n src0 ++ [(4, ns < 2 && fieldN w 5 24 != 0)])
   else
    opndRows a .any n src0 ++
    (if 2 ≤ ns then opndRows a .any n1 src1 else [(4, src1 != 0)]) ++
    (if ns = 3 then (if op = 0x0D then opndRows a .scl 1 src2 else opndRows a .any n src2) else [(4, src2 != 0)])) ++
  (if op = 0x40 then opndRows a .scl 1 dst
   else if op = 0x62 then opndRows a .scl dn dst
   else if op = 0x61 then opndRows a .vs dn dst
   else if op = 0x41 then opndRows a .vec 1 dst
   else opndRows a .vec dn dst)

/-- The rows of CLASS 0x5 (R145). IMMF selects which of SRC1 and IMM32 the instruction uses, and the other is 0. A special-register number
above 7 is a reserved code, and 1 to 7 in SWRS are row 0x8. (DEDUCED, log entry 44; unsafe.) -/
def sclRows (w : BitVec 64) : List (Nat × Bool) :=
  let op := fieldN w 52 8
  let immf := bitAt w 51
  let w64 := bitAt w 32
  let dst : BitVec 6 := bits w 45 6
  let src0 : BitVec 6 := bits w 39 6
  let src1 : BitVec 6 := bits w 33 6
  let imm := fieldN w 0 32
  let known := op ≤ 0x0C || (0x10 ≤ op && op ≤ 0x19) || op = 0x20 || op = 0x21 || op = 0x30 || op = 0x31
  let wide := op ≤ 0x02 || (0x04 ≤ op && op ≤ 0x0A)
  let n := if w64 then 2 else 1
  if op = 0x30 then
    [(4, src0 != 0 || src1 != 0), (5, !immf || 7 < imm || (imm = 7) != w64)] ++ sregRows n dst
  else if op = 0x31 then
    [(4, dst != 0 || src1 != 0), (5, w64 || !immf || 7 < imm), (8, 0 < imm && imm ≤ 7)]
  else
    [(3, !known), (5, w64 && !wide)] ++ sregRows n dst ++
    (if op = 0x00 then [(4, src0 != 0)] else sregRows n src0) ++
    (if op = 0x20 || op = 0x21 then [(4, immf || src1 != 0 || imm != 0)]
     else if immf then [(4, src1 != 0)]
     else sregRows n src1 ++ [(4, imm != 0)])

/-- The relative target of R146, as an instruction index of the image. -/
def relTarget (idx : Nat) (w : BitVec 64) : Int := (idx : Int) + (bits w 0 32).toInt

/-- The rows of CLASS 0x6 (R146). -/
def brRows (idx nin : Nat) (w : BitVec 64) : List (Nat × Bool) :=
  let op := fieldN w 52 8
  let known := op ≤ 0x04 || (0x08 ≤ op && op ≤ 0x0A) || op = 0x0F || op = 0x10
  let d := op = 0x09 || op = 0x0A
  let s := op = 0x01 || op = 0x02 || op = 0x08 || op = 0x0A
  let i := op ≤ 0x04 || op = 0x09
  let dst : BitVec 6 := bits w 45 6
  let src0 : BitVec 6 := bits w 39 6
  [(3, !known), (4, bitAt w 51 || bitAt w 32 || fieldN w 33 6 != 0),
   (4, (!d && dst != 0) || (!s && src0 != 0) || (!i && fieldN w 0 32 != 0)),
   (6, d && dst.toNat % 2 != 0), (6, (op = 0x08 || op = 0x0A) && src0.toNat % 2 != 0),
   (9, i && (relTarget idx w < 0 || (nin : Int) ≤ relTarget idx w))]

/-- The rows of format M (R147 to R149). SBASE, SCL and SIGN are 0 in SPACE 0 with AMODE 1; elsewhere a field that the address does not
take is not checked. (DEDUCED, log entry 44; unsafe.) -/
def memRows (a : Nat) (w : BitVec 64) : List (Nat × Bool) :=
  let op := fieldN w 52 8
  let size := fieldN w 49 3
  let kind := fieldN w 47 2
  let spad := bitAt w 46
  let vad := bitAt w 45
  let data : BitVec 9 := bits w 36 9
  let sbase : BitVec 6 := bits w 30 6
  let index : BitVec 9 := bits w 21 9
  let known := op ≤ 0x04 || (0x10 ≤ op && op ≤ 0x1A)
  let atom := 0x10 ≤ op
  let okSize := if op = 0x00 || op = 0x02 then size ≤ 4 else if op = 0x01 then size ≤ 1
    else if op = 0x1A then size = 2 else size = 2 || size = 3
  let okKind := if op ≤ 0x01 then true else if op = 0x03 || op = 0x04 then kind = 1 || kind = 2 else kind ≤ 2
  let okSpace := !spad || !(op = 0x03 || op = 0x04 || op = 0x1A)
  let dn := if op = 0x19 then (if size = 3 then 4 else 2) else if size = 4 then 4 else if size = 3 then 2 else 1
  let writes := atom || op = 0x00 || op = 0x01 || op = 0x03
  [(3, !known), (5, !okSize || !okKind || !okSpace || (spad && kind != 0)),
   (4, op = 0x03 && fieldN w 12 6 != 0)] ++
  opndRows a (if writes || dn = 4 then .vec else .any) dn data ++
  (if vad then
    [(4, !spad && (sbase != 0 || fieldN w 19 2 != 0 || bitAt w 18))] ++ opndRows a .vec (if spad then 1 else 2) index
   else sregRows (if spad then 1 else 2) sbase ++ (if index = 0x1FF#9 then [] else opndRows a .any 1 index))

/-- The operand pairs of R86 for MMA, and of R93 for the other modes, on MODE and FMT codes. -/
def mxPair (mode a b : Nat) : Bool :=
  if mode = 0 then (a ≤ 3 && b ≤ 3) || ((a = 4 || a = 5) && (b = 4 || b = 5)) || (a = 7 && b = 7)
  else if mode = 1 || mode = 2 || mode = 5 then a = b && (a = 4 || a = 5)
  else if mode = 3 || mode = 4 then a = b && (a = 4 || a = 6)
  else if mode = 6 then a = 5 && b = 5
  else false

def mxRows (w : BitVec 64) : List (Nat × Bool) :=
  let op := fieldN w 52 8
  let modes := op = 0x02 || op = 0x03
  let m := fieldN w 49 3
  [(3, op = 0 || 5 < op), (4, fieldN w 0 13 != 0),
   (4, !modes && (m != 0 || fieldN w 45 4 != 0 || fieldN w 41 4 != 0)),
   (4, op != 0x03 && (bitAt w 40 || fieldN w 30 6 != 0 || fieldN w 18 6 != 0)),
   (4, (op = 0x01 || op = 0x05) && fieldN w 36 4 != 0),
   (4, !(op = 0x03 || op = 0x04) && fieldN w 24 6 != 0),
   (4, op != 0x01 && fieldN w 16 2 != 0),
   (4, op != 0x04 && (fieldN w 14 2 != 0 || bitAt w 13)),
   (5, op = 0x01 && fieldN w 16 2 = 3),
   (5, modes && !mxPair m (fieldN w 45 4) (fieldN w 41 4))]

def syncRows (w : BitVec 64) : List (Nat × Bool) :=
  let op := fieldN w 52 8
  let sc := fieldN w 49 3
  let od := fieldN w 47 2
  [(3, op = 0 || 4 < op), (4, fieldN w 16 31 != 0), (4, op != 0x04 && fieldN w 0 16 != 0),
   (4, op != 0x01 && (sc != 0 || od != 0)), (5, op = 0x01 && (4 < sc || od = 0))]

def firnRows (w : BitVec 64) : List (Nat × Bool) :=
  let op := fieldN w 52 8
  [(3, op = 0 || 3 < op), (4, fieldN w 16 30 != 0)]

/-- The rows of R131 that a word of the image meets: `a` vector registers allocated, at index `idx` of `nin`. -/
def wordRows (a idx nin : Nat) (w : BitVec 64) : List (Nat × Bool) :=
  match fieldN w 60 4 with
  | 1 => vecRows a w
  | 2 => vecRows a w
  | 4 => memRows a w
  | 5 => sclRows w
  | 6 => brRows idx nin w
  | 7 => mxRows w
  | 8 => syncRows w
  | 9 => firnRows w
  | _ => [(3, true)]

/-- The lowest row that applies. -/
def lowestRow (l : List (Nat × Bool)) : Option Nat :=
  l.foldl (fun m p => if p.2 then (match m with | none => some p.1 | some k => some (min k p.1)) else m) none

/-- The last instruction must be SBR, SJMPR or SEXIT (row 0xA). -/
def endsImage (w : BitVec 64) : Bool :=
  fieldN w 60 4 = 6 && (fieldN w 52 8 = 0x00 || fieldN w 52 8 = 0x08 || fieldN w 52 8 = 0x0F)

/-- The REASON that rows 0x3 to 0xA give for a word, if any. -/
def checkWord (a idx nin : Nat) (w : BitVec 64) : Option Nat :=
  lowestRow (wordRows a idx nin w ++ [(10, idx + 1 = nin && !endsImage w)])

/-- R131's code for each REASON. -/
def reasonCode (r : Nat) : Code :=
  if r = 1 || r = 7 || r = 9 || r = 10 then 0x0104
  else if r = 2 then 0x0102
  else if r = 11 then 0x0302
  else if r = 12 then 0x0301
  else 0x0101

/-- A word that passes rows 0x3 to 0x8 with every vector register allocated. -/
def wordOk (w : BitVec 64) : Bool :=
  (lowestRow ((wordRows 256 0 1 w).filter fun p => p.1 != 9)).isNone

/-- The word of each command that is an instruction of the Tongamin set; the other commands have none (R129, R139). -/
def instrWord (i : Instr) : Option (BitVec 64) :=
  match i with
  | .vmov _ f => some (encV 0x00 f)
  | .vadd _ f => some (encV 0x01 f)
  | .vsub _ f => some (encV 0x02 f)
  | .vmullo _ f => some (encV 0x03 f)
  | .vmulhi _ f => some (encV 0x04 f)
  | .vmin _ f => some (encV 0x05 f)
  | .vmax _ f => some (encV 0x06 f)
  | .vand _ f => some (encV 0x07 f)
  | .vor _ f => some (encV 0x08 f)
  | .vxor _ f => some (encV 0x09 f)
  | .vnot _ f => some (encV 0x0A f)
  | .vshl _ f => some (encV 0x0B f)
  | .vshr _ f => some (encV 0x0C f)
  | .vsel _ f => some (encV 0x0D f)
  | .vpopc _ f => some (encV 0x0E f)
  | .vclz _ f => some (encV 0x0F f)
  | .vfadd _ f => some (encV 0x20 f)
  | .vfsub _ f => some (encV 0x21 f)
  | .vfmul _ f => some (encV 0x22 f)
  | .vfma _ f => some (encV 0x23 f)
  | .vfmin _ f => some (encV 0x24 f)
  | .vfmax _ f => some (encV 0x25 f)
  | .vfabs _ f => some (encV 0x26 f)
  | .vfneg _ f => some (encV 0x27 f)
  | .vrcp _ f => some (encV 0x30 f)
  | .vrsq _ f => some (encV 0x31 f)
  | .vex2 _ f => some (encV 0x32 f)
  | .vlg2 _ f => some (encV 0x33 f)
  | .vsin _ f => some (encV 0x34 f)
  | .vcos _ f => some (encV 0x35 f)
  | .vcmp _ f => some (encV 0x40 f)
  | .vset _ f => some (encV 0x41 f)
  | .vcvt _ src dst f => some (encCvt src dst f)
  | .vshfl _ f => some (encV 0x60 f)
  | .vred _ f => some (encV 0x61 f)
  | .srdlane _ f => some (encV 0x62 f)
  | .smov _ f => some (encS 5 0x00 f)
  | .sadd _ f => some (encS 5 0x01 f)
  | .ssub _ f => some (encS 5 0x02 f)
  | .smul _ f => some (encS 5 0x03 f)
  | .sand _ f => some (encS 5 0x04 f)
  | .sor _ f => some (encS 5 0x05 f)
  | .sxor _ f => some (encS 5 0x06 f)
  | .sandn _ f => some (encS 5 0x07 f)
  | .sshl _ f => some (encS 5 0x08 f)
  | .sshr _ f => some (encS 5 0x09 f)
  | .ssra _ f => some (encS 5 0x0A f)
  | .smin _ f => some (encS 5 0x0B f)
  | .smax _ f => some (encS 5 0x0C f)
  | .scmp _ c f => some (encS 5 (condCode c) f)
  | .sfirst _ f => some (encS 5 0x20 f)
  | .spopc _ f => some (encS 5 0x21 f)
  | .srds _ f => some (encS 5 0x30 f)
  | .swrs _ f => some (encS 5 0x31 f)
  | .sbr _ f => some (encS 6 0x00 f)
  | .sbrz _ f => some (encS 6 0x01 f)
  | .sbrnz _ f => some (encS 6 0x02 f)
  | .sbrexz _ f => some (encS 6 0x03 f)
  | .sbrexnz _ f => some (encS 6 0x04 f)
  | .sjmpr _ f => some (encS 6 0x08 f)
  | .scall _ f => some (encS 6 0x09 f)
  | .scallr _ f => some (encS 6 0x0A f)
  | .sexit _ f => some (encS 6 0x0F f)
  | .snop _ f => some (encS 6 0x10 f)
  | .ld _ f => some (encM 0x00 f)
  | .lds _ f => some (encM 0x01 f)
  | .st _ f => some (encM 0x02 f)
  | .ldr _ f => some (encM 0x03 f)
  | .stc _ f => some (encM 0x04 f)
  | .aadd _ f => some (encM 0x10 f)
  | .aand _ f => some (encM 0x11 f)
  | .aor _ f => some (encM 0x12 f)
  | .axor _ f => some (encM 0x13 f)
  | .amin _ f => some (encM 0x14 f)
  | .amax _ f => some (encM 0x15 f)
  | .aumin _ f => some (encM 0x16 f)
  | .aumax _ f => some (encM 0x17 f)
  | .axchg _ f => some (encM 0x18 f)
  | .acas _ f => some (encM 0x19 f)
  | .afadd _ f => some (encM 0x1A f)
  | .mxpack _ f => some (encX 0x01 f)
  | .mxz _ f => some (encX 0x02 f)
  | .mxop _ f => some (encX 0x03 f)
  | .mxdrn _ f => some (encX 0x04 f)
  | .mxsync _ f => some (encX 0x05 f)
  | .kBlockEnd _ _ => none
  | .scaleFold _ => none
  | .fence _ f => some (encY 0x01 f)
  | .barCore _ f => some (encBar 0x02 f false)
  | .barClu _ f => some (encBar 0x03 f false)
  | .barSys _ f => some (encBar 0x04 f true)
  | .barrierRelease _ => none
  | .fnput _ f => some (encF 0x01 f)
  | .fnget _ f => some (encF 0x02 f)
  | .fntest _ f => some (encF 0x03 f)
  | .storeBufferDrain _ => none
  | .protectionTimeout _ => none
  | .rds _ => none
  | .rdx _ => none
  | .upg _ => none
  | .rdz _ => none
  | .wbd _ => none
  | .evc _ => none
  | .ucr _ => none
  | .ucw _ => none
  | .uca _ => none
  | .rty _ _ _ => none
  | .fwdS _ _ => none
  | .fwdX _ _ => none
  | .inv _ _ => none
  | .rclS _ _ => none
  | .rclI _ _ => none
  | .data _ => none
  | .grant _ => none
  | .nack _ => none
  | .wback _ _ => none
  | .ucdone _ => none
  | .dataF _ => none
  | .ack _ _ => none
  | .cmp _ => none
  | .evictionDrain _ => none
  | .wcbEvict _ => none
  | .gather _ _ => none
  | .hbmRead _ _ _ => none
  | .refresh _ _ => none
  | .tempReading _ _ => none
  | .channelStop _ _ => none
  | .up _ => none
  | .dn _ => none
  | .mgmt _ _ _ _ => none
  | .descConfirmTimeout _ => none
  | .time _ _ _ => none
  | .dataFlit _ _ _ => none
  | .idleFlit _ _ _ => none
  | .nak _ _ => none
  | .detect _ _ => none
  | .equalise _ _ => none
  | .align _ => none
  | .negotiate _ _ => none
  | .identify _ _ _ _ _ => none
  | .trainingTimeout _ => none
  | .remoteTagTimeout _ => none
  | .amCtrlEn _ _ => none
  | .amCtrlTrain _ => none
  | .doorbell _ _ => none
  | .queueIdle _ => none
  | .ringFetch _ => none
  | .packetCheck _ => none
  | .packetRetire _ => none
  | .dbReply0Pop _ _ => none
  | .dbKcfgEn _ _ => none
  | .step _ => none
  | .copy _ => none
  | .launch _ => none
  | .wait _ => none
  | .waitPoll _ => none
  | .waitTimeout _ => none
  | .signal _ => none
  | .nop _ => none
  | .queueCreate _ => none
  | .queueDestroy _ => none
  | .queueLimit _ => none
  | .asCreate _ => none
  | .asEdit _ => none
  | .asDestroy _ => none
  | .kvQuota _ => none
  | .modelLoad _ => none
  | .progLoad _ => none
  | .descSet _ => none
  | .descRelease _ => none
  | .fwinSet _ => none
  | .embed _ => none
  | .placed _ => none
  | .reduce _ => none
  | .select _ => none
  | .verify _ => none
  | .draft _ => none
  | .commit _ => none
  | .endNode _ => none
  | .tileDispatch _ _ => none
  | .tileStart _ => none
  | .tileFinish _ => none
  | .launchComplete _ => none
  | .tileTimerExpiry _ => none
  | .weightRefetch _ _ _ => none
  | .deviceReset _ => none
  | .hostBar4Write _ _ _ => none
  | .hostBar4Read _ _ => none
  | .feHwinWrite _ => none
  | .bar4Resize _ => none
  | .configRequest _ _ => none
  | .feKvpWrite _ _ => none
  | .readClear _ _ _ => none
  | .registerWrite _ _ _ _ => none
  | .dgCselWrite _ _ _ => none
  | .dgCctlClr _ => none
  | .dgTrigArm _ => none
  | .triggerAction _ => none
  | .pcSample _ => none
  | .watchRecord _ _ => none
  | .pllLock _ => none
  | .timeExchangeTick _ => none
  | .clockStop _ => none
  | .clockRestart _ => none
  | .supplyDroop _ => none
  | .droopRecoveryTick _ => none
  | .tjSample _ _ => none
  | .thermalTrip _ => none
  | .islandGate _ => none
  | .islandWake _ => none
  | .inputVoltageChange _ => none
  | .coolantCondition _ _ => none
  | .strapAccept _ _ => none
  | .strapLiveMismatch _ => none
  | .heartbeatSend _ => none
  | .heartbeatFrame _ _ => none
  | .heartbeatTimeout _ => none
  | .ntHbKick _ => none
  | .bootGo _ => none
  | .selftest _ => none
  | .hbmTraining _ => none
  | .quote _ => none
  | .status _ => none
  | .setTopo _ => none
  | .resetCmd _ => none
  | .telem _ => none
  | .strapCmd _ => none
  | .quoteDone _ => none
  | .hostPortTrained _ => none
  | .unknownCmd _ => none
  | .addressParityRetry _ _ => none
  | .cagePresenceFault _ _ _ => none
  | .check => none
  | .golden => none
  | .write => none
  | .ready => none
  | .stepBoundary => none
  | .resetComplete => none
  | .perst => none
  | .dgPcsPop0 _ => none
  | .dgTrPop0 _ => none
  | .timeCode => none
  | .seriesTimeout => none
  | .holdover => none
  | .relock => none
  | .powerUp => none
  | .inputPowerLoss => none
  | .currentLimit => none
  | .railFault => none
  | .rom => none
  | .peerVerify => none
  | .links => none
  | .sync => none

end Sys2Proof.Machine
end

