-- ==== Sys2Proof/Config.lean ====
section
/-! DEFINITION. The free values: what the manual leaves open and the machine goes on with. Each is an opaque constant with no body, so a
statement about it holds for every value. Log entry 30 and the entries it names list them. -/
namespace Sys2Proof

/-- FP32 RCP, RSQ, EX2, LG2, SIN and COS: fixed functions of the operand that R69 bounds and does not state. -/
opaque Config.rcp32 : Word → Word
opaque Config.rsq32 : Word → Word
opaque Config.ex2 : Word → Word
opaque Config.lg2 : Word → Word
opaque Config.sin : Word → Word
opaque Config.cos : Word → Word

/-- EX2 of an infinity, LG2 of a zero, a negative number or an infinity, SIN and COS outside [−π, π]: no result is
stated (R69). The first argument names the operation. -/
opaque Config.transcEdge : Nat → Word → Word

/-- Island cycles since the last time code was latched, by the number of the free value (R392). -/
opaque Config.cycles : Nat → Nat

/-- A 32-bit value that the manual leaves undefined: word `i` of the free value with number `n` (R83). -/
opaque Config.freeWord : Nat → Nat → Word

/-- A byte that the manual leaves undefined: byte `i` of the free value with number `n` (R83, R201, R382). -/
opaque Config.freeByte : Nat → Nat → Byte

/-- Where EMBED's gather reads and writes: source offset, destination offset and length of each piece, for an argument block and
the tokens of the step's columns. The layouts of the embedding table and of the destination belong to the program (R113). -/
opaque Config.embedPlan : List Word → List (BitVec 24) → List (Nat × Nat × Nat)

/-- Where COMMIT's copy of one column's K and V lies within the pages of one layer: offset in the tree page, offset in the data
page and length of each piece, for the column's NODE and its position modulo 32. The step program decides it (R123, R348). -/
opaque Config.kvPlan : Nat → Nat → List (Nat × Nat × Nat)

/-- The brainpoolP384r1 public key that the boot ROM holds in a slot: the coordinates of its point (R420). The keys are not in the manual. -/
opaque Config.romKey : Nat → BitVec 384 × BitVec 384

/-- A byte of the image that the heartbeat link has changed on its way to the secondary's boot memory, with what came there instead, by the number of
the free value (R421). -/
opaque Config.copyError : Nat → Option (Nat × Byte)

/-- The slice that takes a whole line of the front end's in M, by the number of the free value: the manual names none (R196). -/
opaque Config.feSlice : Nat → BitVec 14

/-- Byte `i` of the module configuration EEPROM (R423). -/
opaque Config.eepromByte : Nat → Byte

/-- The private key that the east (true) or the west identity engine derives from its helper data and a reading of its PUF, named by the number of
the free value; none when the reading cannot be corrected (R424). -/
opaque Config.pufKey : Bool → List Byte → Nat → Option (BitVec 384)

/-- The public key that a certificate, X.509 in DER with a length prefix, carries; none when it carries none of the curve (R423, R424). -/
opaque Config.certKey : List Byte → Option (Nat × Nat)

/-- The secret number of an ECDSA signature, by the number of the free value (R425). -/
opaque Config.quoteNonce : Nat → BitVec 384

/-- Whether a flit that crosses the firn still fails its parity after every replay, by the number of the free value (R226, R370). -/
opaque Config.linkFails : Nat → Bool

/-- A word that has failed its parity on a read (R369, R370), by the place of its storage. -/
inductive Upset where
  /-- A replay that succeeded, within a cluster. -/
  | replay (clu : Clu)
  /-- A replay that succeeded elsewhere. -/
  | replayElse
  /-- A scratchpad word, bad twice. -/
  | scratch (core : CoreId) (word : Nat)
  /-- A vector register word, bad twice. -/
  | vreg (core : CoreId) (grp : BitVec 4) (reg : BitVec 8) (lane : BitVec 5)
  /-- A scalar register, bad twice. -/
  | sreg (core : CoreId) (grp : BitVec 4) (reg : BitVec 6)
  /-- A word of a store-buffer entry, bad twice. -/
  | store (core : CoreId) (entry : Nat) (word : Nat)
  /-- A word of an operand-line cache way. -/
  | l1 (core : CoreId) (way : Nat) (word : Nat)
  /-- A word of an L2 line. -/
  | l2 (clu : Clu) (key : Nat) (word : Nat)
  /-- A translation-cache entry. -/
  | xlate (entry : Nat)
  /-- A directory-cache entry. -/
  | dcache (floe : Floe) (entry : Nat)
  /-- A word of an eviction-buffer entry, bad twice. -/
  | evict (floe : Floe) (entry : Nat) (word : Nat)
  /-- A word of a write-combining entry, bad twice. -/
  | combine (floe : Floe) (entry : Nat) (word : Nat)
  /-- A word of an operand in a router's staging memory, bad twice. -/
  | operand (desc : DescId) (round part : Nat)
  /-- A word of a result in a router's result memory, bad twice. -/
  | result (desc : DescId) (entry : Nat) (clu : Clu)
  /-- A data word of a message on the mesh that a router has received bad after the replays of its link (R226). -/
  | message (entry : Nat) (word : Nat) (clu : Clu)
  deriving DecidableEq, Repr

/-- The words that have failed their parity by a time code, oldest first, by the number of the free value (R369, R370). -/
opaque Config.upsets : Nat → List Upset

/-- Registers of the capability structures of R448: of power management, of PCI Express, of AER, of the resizable BAR and of lane margining. -/
inductive CfgReg where
  /-- Power management: capability header. -/
  | pmHead
  /-- Power management: control and status. -/
  | pmCtl
  /-- PCI Express: capability header. -/
  | pcieHead
  /-- Device capabilities. -/
  | devCap
  /-- Device control and status. -/
  | devCtl
  /-- Link capabilities. -/
  | linkCap
  /-- AER: capability header. -/
  | aerHead
  /-- AER: uncorrectable error status. -/
  | aerUnc
  /-- AER: correctable error status. -/
  | aerCor
  /-- AER: capabilities and control. -/
  | aerCap
  /-- Resizable BAR: capability header. -/
  | rebarHead
  /-- Resizable BAR: the sizes of BAR4. -/
  | rebarCap
  /-- Resizable BAR: control. -/
  | rebarCtl
  /-- Lane margining: capability header. -/
  | marginHead
  deriving DecidableEq, Repr

/-- Where a capability register stands in the configuration space: PCI Express leaves the places to the device and the manual names none. -/
opaque Config.cfgPlace : CfgReg → BitVec 12

/-- What the host port has logged since the last configuration request: correctable physical- and link-layer errors by their bits of the
correctable status, and whether the ECRC of a packet has failed, by the number of the free value (R452). -/
opaque Config.portErrors : Nat → Word × Bool

/-- Byte `i` of the serial number in the module configuration EEPROM (R423). -/
opaque Config.serialByte : Nat → Byte

end Sys2Proof
end

