-- ==== Sys2Proof/Machine/Float.lean ====
section
/-! DEFINITION. Floating point: the formats of R138, IEEE 754-2019 arithmetic with one rounding (R67), canonical NaNs (R68), the seeds and
transcendentals of R69 and the conversions of R70. A value is decoded to an exact dyadic number, computed exactly, and
rounded once. -/
namespace Sys2Proof.Machine

/-- A floating-point format: width, significand bits with the leading one, exponent bits, bias, and whether the
all-ones exponent holds infinities and NaNs (E4M3 has one NaN code and no infinity). -/
structure FFmt where
  w : Nat
  p : Nat
  eb : Nat
  bias : Nat
  ieee : Bool
  deriving DecidableEq, Repr

def fF32 : FFmt := ⟨32, 24, 8, 127, true⟩
def fF64 : FFmt := ⟨64, 53, 11, 1023, true⟩
def fBf16 : FFmt := ⟨16, 8, 8, 127, true⟩
def fFp16 : FFmt := ⟨16, 11, 5, 15, true⟩
def fE4m3 : FFmt := ⟨8, 4, 4, 7, false⟩
def fE5m2 : FFmt := ⟨8, 3, 5, 15, true⟩

/-- Exponent of the lowest significand bit of the subnormals. -/
def FFmt.emin (f : FFmt) : Int := 2 - (f.bias : Int) - (f.p : Int)

/-- The magnitude code of the canonical NaN (R68). -/
def FFmt.nan (f : FFmt) : Nat := if f.ieee then (2 ^ f.eb - 1) * 2 ^ (f.p - 1) + 2 ^ (f.p - 2) else 0x7F

/-- The smallest magnitude code that is no finite value: infinity, or E4M3's NaN. -/
def FFmt.top (f : FFmt) : Nat := if f.ieee then (2 ^ f.eb - 1) * 2 ^ (f.p - 1) else 0x7F

/-- A decoded value: `fin s m e` is (−1)^s · m · 2^e, with a signed zero when `m` is 0. -/
inductive FVal where
  | nan
  | inf (s : Bool)
  | fin (s : Bool) (m : Nat) (e : Int)
  deriving DecidableEq, Repr

def FFmt.decode (f : FFmt) (x : Nat) : FVal :=
  let s := (x / 2 ^ (f.w - 1)) % 2 == 1
  let mag := x % 2 ^ (f.w - 1)
  if f.ieee && mag == f.top then .inf s
  else if f.top ≤ mag then .nan
  else
    let ex := mag / 2 ^ (f.p - 1)
    let mt := mag % 2 ^ (f.p - 1)
    if ex = 0 then .fin s mt f.emin else .fin s (mt + 2 ^ (f.p - 1)) (f.emin + (ex : Int) - 1)

/-- Whether a rounding away from zero is taken, from the quotient's parity and the remainder of a division by `2^k`. -/
def roundUp (rm : Rm) (s : Bool) (q r half2 : Nat) : Bool :=
  match rm with
  | .rn => decide (half2 < 2 * r) || (decide (2 * r = half2) && q % 2 == 1)
  | .rz => false
  | .ru => !s && decide (0 < r)
  | .rd => s && decide (0 < r)

/-- `m · 2^e` rounded to a significand of `p` bits whose lowest bit has an exponent of at least `lo`: significand and
exponent. -/
def roundTo (p : Nat) (lo : Int) (rm : Rm) (s : Bool) (m : Nat) (e : Int) : Nat × Int :=
  if m = 0 then (0, lo)
  else
    let q := max (e + (m.log2 : Int) + 1 - (p : Int)) lo
    if q ≤ e then (m * 2 ^ (e - q).toNat, q)
    else
      let d := 2 ^ (q - e).toNat
      let n := m / d
      let n' := if roundUp rm s n (m % d) d then n + 1 else n
      if n' = 2 ^ p then (2 ^ (p - 1), q + 1) else (n', q)

/-- The encoding of a rounded finite value; `sat` saturates an overflow to the largest finite value (R70). -/
def FFmt.pack (f : FFmt) (rm : Rm) (sat : Bool) (s : Bool) (m : Nat) (q : Int) : Nat :=
  let sb := if s then 2 ^ (f.w - 1) else 0
  let mag := if m = 0 then 0 else (q - f.emin).toNat * 2 ^ (f.p - 1) + m
  if mag < f.top then sb + mag
  else if sat || rm = .rz || (rm = .ru && s) || (rm = .rd && !s) then sb + (f.top - 1)
  else sb + f.top

/-- Rounds a decoded value into the format. -/
def FFmt.encode (f : FFmt) (rm : Rm) (v : FVal) : Nat :=
  match v with
  | .nan => f.nan
  | .inf s => (if s then 2 ^ (f.w - 1) else 0) + (if f.ieee then f.top else f.top - 1)
  | .fin s m e =>
    let r := roundTo f.p f.emin rm s m e
    f.pack rm (f.w == 8) s r.1 r.2

/-- The exact sum of two finite values as a signed significand and an exponent. -/
def dyAdd (s1 : Bool) (m1 : Nat) (e1 : Int) (s2 : Bool) (m2 : Nat) (e2 : Int) : Int × Int :=
  let e := min e1 e2
  let a : Int := (m1 * 2 ^ (e1 - e).toNat : Nat)
  let b : Int := (m2 * 2 ^ (e2 - e).toNat : Nat)
  ((if s1 then -a else a) + (if s2 then -b else b), e)

/-- IEEE addition before rounding: an exact zero sum of values that are not both negative zero is +0, or −0 under RD. -/
def FVal.add (rm : Rm) : FVal → FVal → FVal
  | .nan, _ => .nan
  | _, .nan => .nan
  | .inf a, .inf b => if a = b then .inf a else .nan
  | .inf a, .fin _ _ _ => .inf a
  | .fin _ _ _, .inf b => .inf b
  | .fin s1 m1 e1, .fin s2 m2 e2 =>
    if m1 = 0 && m2 = 0 && s1 = s2 then .fin s1 0 0
    else
      let r := dyAdd s1 m1 e1 s2 m2 e2
      if r.1 = 0 then .fin (rm = .rd) 0 0 else .fin (r.1 < 0) r.1.natAbs r.2

def FVal.neg : FVal → FVal
  | .nan => .nan
  | .inf s => .inf (!s)
  | .fin s m e => .fin (!s) m e

def FVal.abs : FVal → FVal
  | .nan => .nan
  | .inf _ => .inf false
  | .fin _ m e => .fin false m e

def FVal.mul : FVal → FVal → FVal
  | .nan, _ => .nan
  | _, .nan => .nan
  | .inf a, .inf b => .inf (a != b)
  | .inf a, .fin b m _ => if m = 0 then .nan else .inf (a != b)
  | .fin a m _, .inf b => if m = 0 then .nan else .inf (a != b)
  | .fin a m1 e1, .fin b m2 e2 => .fin (a != b) (m1 * m2) (e1 + e2)

/-- Order of two numbers, or none when one is NaN. The two zeros are equal. -/
def FVal.cmp : FVal → FVal → Option Ordering
  | .nan, _ => none
  | _, .nan => none
  | .inf a, .inf b => some (if a = b then .eq else if a then .lt else .gt)
  | .inf a, .fin _ _ _ => some (if a then .lt else .gt)
  | .fin _ _ _, .inf b => some (if b then .gt else .lt)
  | .fin s1 m1 e1, .fin s2 m2 e2 =>
    let r := (dyAdd s1 m1 e1 (!s2) m2 e2).1
    some (if r < 0 then .lt else if r = 0 then .eq else .gt)

def FVal.isNan : FVal → Bool
  | .nan => true
  | _ => false

def FVal.negative : FVal → Bool
  | .nan => false
  | .inf s => s
  | .fin s _ _ => s

/-- minimumNumber of IEEE 754-2019, with −0 below +0. -/
def FVal.min (a b : FVal) : FVal :=
  if a.isNan then b else if b.isNan then a
  else match a.cmp b with
    | some .lt => a
    | some .gt => b
    | _ => if a.negative then a else b

/-- maximumNumber of IEEE 754-2019. -/
def FVal.max (a b : FVal) : FVal :=
  if a.isNan then b else if b.isNan then a
  else match a.cmp b with
    | some .gt => a
    | some .lt => b
    | _ => if a.negative then b else a

/-- The value rounded to an integer by the rounding mode, then limited to `[lo, hi]`; NaN gives 0 (R70). -/
def FVal.toInt (rm : Rm) (lo hi : Int) : FVal → Int
  | .nan => 0
  | .inf s => if s then lo else hi
  | .fin s m e =>
    let n : Nat :=
      if 0 ≤ e then m * 2 ^ e.toNat
      else
        let d := 2 ^ (-e).toNat
        let q := m / d
        if roundUp rm s q (m % d) d then q + 1 else q
    let v : Int := if s then -(n : Int) else n
    Max.max lo (Min.min hi v)

def FVal.ofInt (i : Int) : FVal := .fin (i < 0) i.natAbs 0

def f32 (x : Word) : FVal := fF32.decode x.toNat
def f64 (x : BitVec 64) : FVal := fF64.decode x.toNat
def toF32 (rm : Rm) (v : FVal) : Word := BitVec.ofNat 32 (fF32.encode rm v)
def toF64 (rm : Rm) (v : FVal) : BitVec 64 := BitVec.ofNat 64 (fF64.encode rm v)

/-- `⌊√n⌋`, by halving steps from above; `fuel` covers the bits of `n`. -/
def isqrtGo (n : Nat) : Nat → Nat → Nat
  | 0, r => r
  | k + 1, r => let t := r + 2 ^ k; if t * t ≤ n then isqrtGo n k t else isqrtGo n k r

def isqrt (n : Nat) : Nat := isqrtGo n (n.log2 / 2 + 1) 0

/-- 1 ÷ (m · 2^e) as a dyadic value with its inexact tail folded into the lowest bit. -/
def recipDy (m : Nat) (e : Int) : Nat × Int :=
  let k := 2 * m.log2 + 140
  let t := 2 ^ k / m
  (2 * t + (if 2 ^ k % m = 0 then 0 else 1), -(k : Int) - 1 - e)

/-- 1 ÷ √(m · 2^e) in the same form. -/
def rsqrtDy (m : Nat) (e : Int) : Nat × Int :=
  let m' := if e % 2 = 0 then m else 2 * m
  let e' := if e % 2 = 0 then e else e - 1
  let k := m'.log2 + 140
  let n := 2 ^ (2 * k) / m'
  let t := isqrt n
  (2 * t + (if t * t * m' = 2 ^ (2 * k) then 0 else 1), -(k : Int) - 1 - e' / 2)

/-- The FP64 reciprocal seed of R69. -/
def rcpSeed (x : FVal) : FVal :=
  match x with
  | .nan => .nan
  | .inf s => .fin s 0 0
  | .fin s m e =>
    if m = 0 then .inf s
    else
      let d := recipDy m e
      let r := roundTo 24 fF64.emin .rn s d.1 d.2
      .fin s r.1 r.2

/-- The FP64 reciprocal-square-root seed of R69. -/
def rsqSeed (x : FVal) : FVal :=
  match x with
  | .nan => .nan
  | .inf s => if s then .nan else .fin false 0 0
  | .fin s m e =>
    if m = 0 then .inf s
    else if s then .nan
    else
      let d := rsqrtDy m e
      let r := roundTo 24 fF64.emin .rn false d.1 d.2
      .fin false r.1 r.2

/-- Whether the FP32 encoding `v` is a finite value within `n` units in the last place of the dyadic `a · 2^e`. -/
def within (n : Nat) (s : Bool) (a : Nat) (e : Int) (v : Word) : Bool :=
  match f32 v with
  | .fin sv m ev =>
    let ulp := Max.max (e + (a.log2 : Int) - 23) fF32.emin
    let d := dyAdd sv m ev (!s) a e
    -- |d| · 2^d.2 ≤ n · 2^ulp
    let lo := Min.min d.2 ulp
    decide (d.1.natAbs * 2 ^ (d.2 - lo).toNat ≤ n * 2 ^ (ulp - lo).toNat)
  | _ => false

/-- A fixed function of the operand that R69 bounds and does not state: the free value where it keeps the bound, and
otherwise the nearest value (log entry 30). (DESIGN CHOICE, log entry 30; safe.) -/
def bounded (n : Nat) (s : Bool) (a : Nat) (e : Int) (free : Word) : Word :=
  if within n s a e free then free else toF32 .rn (.fin s a e)

/-- FP32 RCP (R69). -/
def rcp32 (x : Word) : Word :=
  match f32 x with
  | .nan => 0x7FC00000#32
  | .inf s => toF32 .rn (.fin s 0 0)
  | .fin s m e =>
    if m = 0 then toF32 .rn (.inf s)
    else
      let d := recipDy m e
      bounded 1 s d.1 d.2 (Config.rcp32 x)

/-- FP32 RSQ (R69). -/
def rsq32 (x : Word) : Word :=
  match f32 x with
  | .nan => 0x7FC00000#32
  | .inf s => if s then 0x7FC00000#32 else 0#32
  | .fin s m e =>
    if m = 0 then toF32 .rn (.inf s)
    else if s then 0x7FC00000#32
    else
      let d := rsqrtDy m e
      bounded 1 false d.1 d.2 (Config.rsq32 x)

/-- Fixed-point scale of the transcendental reference values. -/
def fxBits : Nat := 200

/-- ln 2 at the fixed-point scale, from Σ 1 ÷ (k · 2^k). -/
def ln2Fx : Nat := (List.range 210).foldl (fun a k => a + 2 ^ fxBits / ((k + 1) * 2 ^ (k + 1))) 0

/-- e^y for a fixed-point y in [0, 1), by its series. -/
def expFx (y : Nat) : Nat :=
  ((List.range 60).foldl (fun (st : Nat × Nat) k => (st.1 + st.2, st.2 * y / 2 ^ fxBits / (k + 1))) (0, 2 ^ fxBits)).1

/-- log₂ of a fixed-point z in [1, 2), from 2 · atanh((z − 1) ÷ (z + 1)) ÷ ln 2. -/
def log2Fx (z : Nat) : Nat :=
  let o := 2 ^ fxBits
  let t := (z - o) * o / (z + o)
  let t2 := t * t / o
  let sm := ((List.range 70).foldl (fun (st : Nat × Nat) k => (st.1 + st.2 / (2 * k + 1), st.2 * t2 / o)) (0, t)).1
  2 * sm * o / ln2Fx

/-- The free result of a fixed function outside the operands for which R69 states one; a NaN is canonical (R68). -/
def transcFree (op : Nat) (x : Word) : Word :=
  let r := Config.transcEdge op x
  match f32 r with
  | .nan => 0x7FC00000#32
  | _ => r

/-- FP32 EX2 of a finite operand within 2 units in the last place (R69). Results past the format's range are those of a
rounding to nearest. The manual states no result for an infinite operand: a free value. -/
def ex2 (x : Word) : Word :=
  match f32 x with
  | .nan => 0x7FC00000#32
  | .inf _ => transcFree 0 x
  | .fin s m e =>
    if m = 0 then 0x3F800000#32
    else if 8 ≤ e + (m.log2 : Int) then (if s then toF32 .rn (.fin false 1 (-300)) else 0x7F800000#32)
    else
      let fx : Int := if 0 ≤ e + fxBits then (m * 2 ^ (e + fxBits).toNat : Nat) else (m / 2 ^ (-(e + fxBits)).toNat : Nat)
      let v : Int := if s then -fx else fx
      let o : Int := (2 ^ fxBits : Nat)
      let n := v / o
      let frac := (v % o).toNat
      let a := expFx (frac * ln2Fx / 2 ^ fxBits)
      if 128 ≤ n then 0x7F800000#32 else bounded 2 false a (n - fxBits) (Config.ex2 x)

/-- FP32 LG2 of a positive finite operand within 2 units in the last place (R69). The manual states no result for
±0, a negative number or an infinity: a free value. -/
def lg2 (x : Word) : Word :=
  match f32 x with
  | .nan => 0x7FC00000#32
  | .inf _ => transcFree 1 x
  | .fin s m e =>
    if s || m = 0 then transcFree 1 x
    else
      let n : Int := e + (m.log2 : Int)
      let z := m * 2 ^ (fxBits - m.log2)
      let fr : Int := (log2Fx z : Nat)
      let o : Int := (2 ^ fxBits : Nat)
      let t := n * o + fr
      if t = 0 then 0#32 else bounded 2 (t < 0) t.natAbs (-fxBits) (Config.lg2 x)

/-- π at the fixed-point scale, by Machin's formula 16·atan(1/5) − 4·atan(1/239). -/
def atanInv (q : Nat) : Int :=
  ((List.range 160).foldl (fun (st : Int × Nat) k =>
    let t : Int := (st.2 / (2 * k + 1) : Nat)
    (if k % 2 = 0 then st.1 + t else st.1 - t, st.2 / (q * q))) (0, 2 ^ fxBits / q)).1

def piFx : Int := 16 * atanInv 5 - 4 * atanInv 239

/-- sin (odd) or cos of a fixed-point angle, by the series from the term `t0`, whose index is `k0`. -/
def trigFx (y : Int) (k0 : Nat) (t0 : Int) : Int :=
  let o : Int := (2 ^ fxBits : Nat)
  ((List.range 40).foldl (fun (st : Int × Int) i =>
    let k : Int := (2 * i + k0 : Nat)
    (st.1 + st.2, -(st.2 * y / o * y / o) / ((k + 1) * (k + 2)))) (0, t0)).1

/-- FP32 SIN (`c` false) and COS: an absolute error of at most 2^−21 on [−π, π] (R69). The manual states no result
outside that range: a free value. -/
def sincos (c : Bool) (x : Word) : Word :=
  match f32 x with
  | .nan => 0x7FC00000#32
  | .inf _ => transcFree (if c then 3 else 2) x
  | .fin s m e =>
    if 3 ≤ e + (m.log2 : Int) then transcFree (if c then 3 else 2) x
    else
      let a : Int := if 0 ≤ e + fxBits then (m * 2 ^ (e + fxBits).toNat : Nat) else (m / 2 ^ (-(e + fxBits)).toNat : Nat)
      if piFx < a then transcFree (if c then 3 else 2) x
      else
        let y : Int := if s then -a else a
        let o : Int := (2 ^ fxBits : Nat)
        let r := if c then trigFx y 0 o else trigFx y 1 y
        let free := if c then Config.cos x else Config.sin x
        let ok := match f32 free with
          | .fin sv mv ev =>
            let d := dyAdd sv mv ev (!(decide (r < 0))) r.natAbs (-fxBits)
            let lo := Min.min d.2 (-21)
            decide (d.1.natAbs * 2 ^ (d.2 - lo).toNat ≤ 2 ^ (-21 - lo).toNat)
          | _ => false
        if ok then free else toF32 .rn (.fin (r < 0) r.natAbs (-fxBits))

/-- A conversion of R70 and R143, on lane values of 64 bits. -/
def convert (rm : Rm) (src dst : Ty) (x : BitVec 64) : BitVec 64 :=
  let v : FVal := match src with
    | .i32 => .ofInt ((x.setWidth 32).toInt)
    | .u32 => .ofInt ((x.setWidth 32).toNat)
    | .i64 => .ofInt x.toInt
    | .u64 => .ofInt x.toNat
    | .f32 => fF32.decode (x.toNat % 2 ^ 32)
    | .f64 => fF64.decode x.toNat
    | .bf16 => fBf16.decode (x.toNat % 2 ^ 16)
    | .fp16 => fFp16.decode (x.toNat % 2 ^ 16)
    | .e4m3 => fE4m3.decode (x.toNat % 2 ^ 8)
    | .e5m2 => fE5m2.decode (x.toNat % 2 ^ 8)
  match dst with
  | .i32 => (BitVec.ofInt 32 (v.toInt rm (-2 ^ 31) (2 ^ 31 - 1))).setWidth 64
  | .u32 => (BitVec.ofInt 32 (v.toInt rm 0 (2 ^ 32 - 1))).setWidth 64
  | .i64 => BitVec.ofInt 64 (v.toInt rm (-2 ^ 63) (2 ^ 63 - 1))
  | .u64 => BitVec.ofInt 64 (v.toInt rm 0 (2 ^ 64 - 1))
  | .f32 => BitVec.ofNat 64 (fF32.encode rm v)
  | .f64 => BitVec.ofNat 64 (fF64.encode rm v)
  | .bf16 => BitVec.ofNat 64 (fBf16.encode rm v)
  | .fp16 => BitVec.ofNat 64 (fFp16.encode rm v)
  | .e4m3 => BitVec.ofNat 64 (fE4m3.encode rm v)
  | .e5m2 => BitVec.ofNat 64 (fE5m2.encode rm v)

end Sys2Proof.Machine
end

