-- ==== Sys2Proof/Machine/Tab.lean ====
section
/-! DEFINITION. Finite maps with a default, the sparse form in which State holds the module's many equal units, and the
HBM memory: a list of cells in one canonical form whose unlisted bytes read 0, as R201 leaves them. -/
namespace Sys2Proof.Machine

/-- A finite map from unit numbers to values; a key with no entry has the default that its reader names. -/
structure Tab (α : Type) where
  entries : List (Nat × α)
  deriving DecidableEq, Repr

/-- The value of key `k` in an entry list, or `d`. -/
def lookL {α : Type} : List (Nat × α) → Nat → α → α
  | [], _, d => d
  | (j, w) :: t, k, d => if j = k then w else lookL t k d

/-- The entry list with key `k` set to `v`, in ascending key order. -/
def putL {α : Type} : List (Nat × α) → Nat → α → List (Nat × α)
  | [], k, v => [(k, v)]
  | (j, w) :: t, k, v =>
    if k < j then (k, v) :: (j, w) :: t else if j = k then (k, v) :: t else (j, w) :: putL t k v

def Tab.empty {α : Type} : Tab α := ⟨[]⟩

def Tab.get {α : Type} (t : Tab α) (k : Nat) (d : α) : α := lookL t.entries k d

def Tab.get? {α : Type} (t : Tab α) (k : Nat) : Option α :=
  lookL (t.entries.map fun p => (p.1, some p.2)) k none

def Tab.has {α : Type} (t : Tab α) (k : Nat) : Bool := t.entries.any fun p => p.1 == k

def Tab.put {α : Type} (t : Tab α) (k : Nat) (v : α) : Tab α := ⟨putL t.entries k v⟩

def Tab.del {α : Type} (t : Tab α) (k : Nat) : Tab α := ⟨t.entries.filter fun p => p.1 != k⟩

def Tab.keys {α : Type} (t : Tab α) : List Nat := t.entries.map (·.1)

def Tab.vals {α : Type} (t : Tab α) : List α := t.entries.map (·.2)

def Tab.mapVals {α : Type} (t : Tab α) (f : α → α) : Tab α := ⟨t.entries.map fun p => (p.1, f p.2)⟩

def Tab.size {α : Type} (t : Tab α) : Nat := t.entries.length

/-- HBM as a list of cells. -/
structure Memory where
  cells : List Host.Cell
  deriving DecidableEq, Repr

/-- What an unlisted byte reads as: power-up initialisation writes every line to zero (R201). (DESIGN CHOICE, log entry 6; unsafe.) -/
def Memory.unlisted : Byte := 0

/-- The byte at a module offset. -/
def Memory.read (m : Memory) (a : Nat) : Byte := lookL m.cells a Memory.unlisted

/-- Writes one byte and keeps the canonical form: a byte equal to the unlisted value has no entry. -/
def Memory.write (m : Memory) (a : Nat) (b : Byte) : Memory :=
  if b = Memory.unlisted then ⟨m.cells.filter fun p => p.1 != a⟩ else ⟨putL m.cells a b⟩

/-- Addresses strictly rise. -/
def risesL : List Host.Cell → Bool
  | [] => true
  | [_] => true
  | p :: q :: t => decide (p.1 < q.1) && risesL (q :: t)

/-- The canonical form: strictly rising addresses, and no entry equal to the unlisted value. -/
def Memory.wf (m : Memory) : Bool := risesL m.cells && m.cells.all fun p => p.2 != Memory.unlisted

/-- Writes the bytes `bs` from address `a` upward. -/
def Memory.writeBytes (m : Memory) : Nat → List Byte → Memory
  | _, [] => m
  | a, b :: bs => (m.write a b).writeBytes (a + 1) bs

def Memory.readBytes (m : Memory) (a n : Nat) : List Byte := (List.range n).map fun i => m.read (a + i)

/-- A sorted list of numbers without repeats, with `n` added. -/
def insertNat : List Nat → Nat → List Nat
  | [], n => [n]
  | a :: t, n => if n < a then n :: a :: t else if a = n then a :: t else a :: insertNat t n

end Sys2Proof.Machine
end

