-- ==== Sys2Proof/Machine/State.lean ====
section
/-! DEFINITION. The whole state of one GM1 module as plain data, its reset value, and the reasons a command can stop.
Each field names the rule of spec/ that gives the machine that piece of state. -/
namespace Sys2Proof.Machine

inductive Wait where
  /-- The group issues instructions. -/
  | run
  /-- Arrived at BAR.core (R170). -/
  | barCore
  /-- Arrived at BAR.clu (R470). -/
  | barClu
  /-- Arrived at BAR.sys on a descriptor (R246). -/
  | barSys (d : DescId)
  deriving DecidableEq, Repr

/-- A lane's reservation (R178). -/
structure Resv where
  /-- Sector address of the granule (R178). -/
  sector : Nat
  /-- KIND of the LDR (R179). -/
  kind : Kind
  /-- SIZE of the LDR (R179). -/
  size : MSize
  deriving DecidableEq, Repr

/-- The reset value of `Resv` (R9, R434). -/
def Resv.init : Resv where
  sector := 0
  kind := .cg
  size := .b4

/-- The protected lane of a qualifying loop (R182). -/
structure Prot where
  /-- The protected lane (R182). -/
  lane : Nat
  /-- Its granule (R182). -/
  sector : Nat
  /-- The loop is of kind .uc (R182). -/
  uc : Bool
  deriving DecidableEq, Repr

/-- The reset value of `Prot` (R9, R434). -/
def Prot.init : Prot where
  lane := 0
  sector := 0
  uc := false

/-- One lane of a memory instruction that has been performed while other lanes still wait (R469). -/
structure LanePart where
  /-- The lane (R469). The model's own. -/
  lane : Nat
  /-- What the lane reads (R469). The model's own. -/
  data : BitVec 128
  /-- E_POISON or E_LINKDOWN met when the access was performed, else 0 (R469). The model's own. -/
  err : Code
  /-- STC: the lane stored (R149). The model's own. -/
  ok : Bool
  deriving DecidableEq, Repr

/-- The reset value of `LanePart` (R9, R434). -/
def LanePart.init : LanePart where
  lane := 0
  data := 0
  err := 0
  ok := true

/-- A group of 32 threads (R38 to R55). -/
structure Group where
  /-- Program counter (R43). -/
  pc : BitVec 48
  /-- Vector registers, key register x 32 + lane (R40). -/
  vregs : Tab Word
  /-- Poisoned vector register words (R371). -/
  vpois : List Nat
  /-- Scalar registers (R42). -/
  sregs : Tab Word
  /-- Poisoned scalar registers (R371). -/
  spois : List Nat
  /-- EXEC, the active mask (R50). -/
  exec : BitVec 32
  /-- LMASK, the launch mask (R39). -/
  lmask : BitVec 32
  /-- The group has finished under SEXIT (R146). -/
  fin : Bool
  /-- Execution barrier the group waits at (R170). -/
  wait : Wait
  /-- Stall reason of the last cycle the group was looked at (R46). -/
  stall : BitVec 4
  /-- Fences the group has issued (R61). -/
  fences : Nat
  /-- First store-buffer serial after the fence or barrier now waiting began (R159). -/
  fenceMark : Option Nat
  /-- Lanes performed of the memory instruction at pc (R469). The model's own. -/
  part : List LanePart
  /-- Reservations by lane (R178). -/
  resv : Tab Resv
  /-- Protection held (R182). -/
  prot : Option Prot
  /-- Address of the group's last issued instruction (R267). -/
  lastPc : BitVec 48
  /-- A remote store of the group has failed (R267). -/
  lostStore : Bool
  /-- Its code (R267). -/
  lostCode : Code
  deriving DecidableEq, Repr

/-- The reset value of `Group` (R9, R434). -/
def Group.init : Group where
  pc := 0
  vregs := .empty
  vpois := []
  sregs := .empty
  spois := []
  exec := 0
  lmask := 0
  fin := false
  wait := .run
  stall := 0
  fences := 0
  fenceMark := none
  part := []
  resv := .empty
  prot := none
  lastPc := 0
  lostStore := false
  lostCode := 0

/-- A store-buffer entry: one 32 B sector (R60). -/
structure SbEntry where
  /-- Allocation order (R61). The model's own. -/
  serial : Nat
  /-- The group (R61). -/
  grp : BitVec 4
  /-- Module-physical sector address (R60). -/
  addr : BitVec 64
  /-- Access kind (R58). -/
  kind : Kind
  /-- Bytes (R60). -/
  data : BitVec 256
  /-- Byte mask (R60). -/
  mask : BitVec 32
  /-- Poisoned words (R372). -/
  pois : BitVec 8
  /-- The group's fence count at allocation (R61). The model's own. -/
  fences : Nat
  /-- Store instruction the entry came from (R196). The model's own. -/
  inst : Nat
  deriving DecidableEq, Repr

/-- The reset value of `SbEntry` (R9, R434). -/
def SbEntry.init : SbEntry where
  serial := 0
  grp := 0
  addr := 0
  kind := .ca
  data := 0
  mask := 0
  pois := 0
  fences := 0
  inst := 0

/-- An operand-line cache line (R188, R191). -/
structure L1Line where
  /-- Line (R188). -/
  line : Nat
  /-- Valid bit of each sector (R188). -/
  valid : BitVec 4
  /-- Dirty bytes (BIM) (R189). -/
  dirty : LineMask
  /-- Bytes (R188). -/
  data : LineData
  /-- Poison tags (R369). -/
  pois : LinePoison
  /-- Replacement age (R191). -/
  age : BitVec 2
  deriving DecidableEq, Repr

/-- The reset value of `L1Line` (R9, R434). -/
def L1Line.init : L1Line where
  line := 0
  valid := 0
  dirty := 0
  data := 0
  pois := 0
  age := 3

inductive Special where
  /-- No special product in the block. -/
  | none
  /-- NaN (R88). -/
  | nan
  /-- Only +Inf products (R88). -/
  | pinf
  /-- Only -Inf products (R88). -/
  | ninf
  deriving DecidableEq, Repr

/-- A cell of the outer-product array. -/
structure Cell where
  /-- Integer accumulator I (R73). -/
  i : Word
  /-- Hold register H (R73). -/
  h : Word
  /-- FP32 accumulator F (R73). -/
  f : Word
  /-- Special state (R88). -/
  sp : Special
  deriving DecidableEq, Repr

/-- The reset value of `Cell` (R9, R434). -/
def Cell.init : Cell where
  i := 0
  h := 0
  f := 0
  sp := .none

inductive MxWork where
  /-- MXZ. -/
  | z (mode : MxMode)
  /-- MXOP with its blocks left and the next block's tile addresses. -/
  | op (mode : MxMode) (a b : Fmt) (ascr : Bool) (aAddr bAddr left : Nat)
  /-- MXDRN. -/
  | drn (d : DFmt) (clr : Bool) (addr : Nat)
  deriving DecidableEq, Repr

/-- An entry of the array queue (R79). -/
structure MxEntry where
  /-- Issuing group (R79). -/
  grp : BitVec 4
  /-- Address of the instruction (R372). -/
  pc : BitVec 48
  /-- Sub-array (R80). -/
  sub : Nat
  /-- What it does (R78). -/
  work : MxWork
  /-- K blocks of an MXOP that have run (R81). The model's own. -/
  ran : Nat
  /-- FNPUTs that the core had issued before it (R234). The model's own. -/
  puts : Nat
  deriving DecidableEq, Repr

/-- The reset value of `MxEntry` (R9, R434). -/
def MxEntry.init : MxEntry where
  grp := 0
  pc := 0
  sub := 0
  work := .z .mma
  ran := 0
  puts := 0

/-- A sub-array waiting for its scale fold (R90). -/
structure FoldJob where
  /-- Group whose MXOP ended the block (R78). -/
  grp : BitVec 4
  /-- Sub-array (R90). -/
  sub : Nat
  /-- The pair's weight exponent (R86). -/
  lam : Int
  /-- Scale of each A row (R89). -/
  sa : List Byte
  /-- Scale of each B column (R89). -/
  sb : List Byte
  deriving DecidableEq, Repr

/-- The reset value of `FoldJob` (R9, R434). -/
def FoldJob.init : FoldJob where
  grp := 0
  sub := 0
  lam := 0
  sa := []
  sb := []

/-- A core's outer-product array. -/
structure Arr where
  /-- MX_STAT.PACK (R101). -/
  pack : BitVec 2
  /-- Cells, key row x 32 + column (R73). -/
  cells : Tab Cell
  /-- Array queue, oldest first (R79). -/
  queue : List MxEntry
  /-- Sub-arrays waiting for a fold, in order (R90). -/
  folds : List FoldJob
  /-- MX_FLAGS: INF bit 4, NAN bit 3, TRUNC bit 2, DSAT bit 1, IOVF bit 0 (R101). -/
  flags : BitVec 5
  /-- MX_STEPS (R101). -/
  steps : BitVec 64
  deriving DecidableEq, Repr

/-- The reset value of `Arr` (R9, R434). -/
def Arr.init : Arr where
  pack := 0
  cells := .empty
  queue := []
  folds := []
  flags := 0
  steps := 0

/-- A sector, or an atomic's old value, that the memory instruction of a group has received (R56, R213, R288). -/
structure UcRes where
  /-- Group (R202). The model's own. -/
  grp : BitVec 4
  /-- Sector address (R202). The model's own. -/
  addr : BitVec 64
  /-- Lane for an atomic (R202). The model's own. -/
  lane : Nat
  /-- Sector or old value (R202). The model's own. -/
  data : BitVec 256
  /-- Poison tags (R372). The model's own. -/
  pois : BitVec 8
  /-- E_LINKDOWN or 0 (R267). The model's own. -/
  err : Code
  /-- Conditional store success (R179). The model's own. -/
  ok : Bool
  deriving DecidableEq, Repr

/-- The reset value of `UcRes` (R9, R434). -/
def UcRes.init : UcRes where
  grp := 0
  addr := 0
  lane := 0
  data := 0
  pois := 0
  err := 0
  ok := true

/-- An access of a group for which an answer is outstanding (R187, R266). -/
structure UcOut where
  /-- Group (R202). The model's own. -/
  grp : BitVec 4
  /-- Sector address (R202). The model's own. -/
  addr : BitVec 64
  /-- Lane for an atomic (R202). The model's own. -/
  lane : Nat
  /-- A store (R159). The model's own. -/
  store : Bool
  /-- Store-buffer serial of a store (R159). The model's own. -/
  serial : Nat
  /-- The answer comes as a UCDONE, from another module or from the narrow path; otherwise the group waits for its slice (R202). The model's own. -/
  uc : Bool
  /-- The load's bytes that its core held when it asked (R62). The model's own. -/
  mask : BitVec 32
  /-- Those bytes (R62). The model's own. -/
  data : BitVec 256
  /-- Their poison tags (R372). The model's own. -/
  pois : BitVec 8
  /-- Launch of a store (R164). The model's own. -/
  lid : Option Nat
  deriving DecidableEq, Repr

/-- The reset value of `UcOut` (R9, R434). -/
def UcOut.init : UcOut where
  grp := 0
  addr := 0
  lane := 0
  store := false
  serial := 0
  uc := false
  mask := 0
  data := 0
  pois := 0
  lid := none

/-- A sector that the router has read for an FNPUT (R234). -/
structure PutSector where
  /-- Its place in the range (R234). -/
  at_ : Nat
  /-- Bytes (R234). -/
  data : BitVec 256
  /-- A word of it is poisoned (R372). -/
  pois : Bool
  deriving DecidableEq, Repr

/-- The reset value of `PutSector` (R9, R434). -/
def PutSector.init : PutSector where
  at_ := 0
  data := 0
  pois := false

/-- An issued FNPUT whose range the router has not read to its end (R234). -/
structure PutJob where
  /-- FNPUTs that the core had issued before it (R234). The model's own. -/
  serial : Nat
  /-- Descriptor (R234). -/
  did : DescId
  /-- Row group (R232). -/
  rowg : BitVec 16
  /-- Layer that names the members (R230). The model's own. -/
  layer : Nat
  /-- Contributor index (R231). -/
  idx : Nat
  /-- The backup worker's copy (R241). -/
  bk : Bool
  /-- Round (R235). -/
  num : Nat
  /-- EPOCH (R236). -/
  ep : BitVec 8
  /-- First byte of the range (R234). -/
  addr : Nat
  /-- Bytes of the contribution (R234). -/
  len : Nat
  /-- Sectors read, in any order (R234). -/
  got : List PutSector
  deriving DecidableEq, Repr

/-- The reset value of `PutJob` (R9, R434). -/
def PutJob.init : PutJob where
  serial := 0
  did := 0
  rowg := 0
  layer := 0
  idx := 0
  bk := false
  num := 0
  ep := 0
  addr := 0
  len := 0
  got := []

/-- A core. -/
structure Core where
  /-- The launch whose tile is on the core (R361). -/
  launch : Option Nat
  /-- Tile index (R361). -/
  tile : Nat
  /-- The tile's groups have started (R362). -/
  started : Bool
  /-- The block's groups (R38). -/
  groups : Tab Group
  /-- CO_CFG.MODE (R71). -/
  mode : Bool
  /-- CO_CFG.NGRP (R71). -/
  ngrp : BitVec 5
  /-- CO_CFG.VREGS (R71). -/
  valloc : BitVec 9
  /-- CO_CFG.SPAD (R71). -/
  spadUnits : BitVec 11
  /-- CO_STATE.RUN (R71). -/
  run : BitVec 2
  /-- CO_ERR.VALID (R71). -/
  errValid : Bool
  /-- CO_ERR.GRP (R71). -/
  errGrp : BitVec 4
  /-- CO_ERR.CODE (R71). -/
  errCode : Code
  /-- An error of the current launch has been recorded (R72). -/
  errSeen : Bool
  /-- CO_EPC.PC (R71). -/
  epc : BitVec 48
  /-- Scratchpad bytes (R63). -/
  spad : Memory
  /-- Written bits of scratchpad sectors (R64). -/
  spadWr : List Nat
  /-- Poisoned scratchpad words (R369). -/
  spadPois : List Nat
  /-- Store buffer, oldest first (R60). -/
  sb : List SbEntry
  /-- Next store-buffer serial (R61). The model's own. -/
  sbSerial : Nat
  /-- Store instructions issued (R196). The model's own. -/
  instSerial : Nat
  /-- Operand-line cache by way, 0 to 47 (R188). -/
  l1 : Tab L1Line
  /-- Outer-product array (R73). -/
  arr : Arr
  /-- Returned uncached results not yet taken (R202). The model's own. -/
  ucRes : List UcRes
  /-- Outstanding uncached accesses (R202). The model's own. -/
  ucOut : List UcOut
  /-- Group that last issued on the vector path (R45). -/
  lastV : BitVec 4
  /-- Group that last issued on the scalar path (R45). -/
  lastS : BitVec 4
  /-- FNPUTs that the router still reads, oldest first (R234). -/
  puts : List PutJob
  /-- FNPUTs issued (R234). The model's own. -/
  putSerial : Nat
  /-- Time code at the start of the tile's first group (R365). -/
  timer : Option (BitVec 64)
  /-- Time for which the tile timer has been held in STOP (R365). -/
  held : BitVec 64
  /-- Launch whose tiles filled the L1 (R19). The model's own. -/
  l1of : Option Nat
  deriving DecidableEq, Repr

/-- The reset value of `Core` (R9, R434). -/
def Core.init : Core where
  launch := none
  tile := 0
  started := false
  groups := .empty
  mode := false
  ngrp := 0
  valloc := 0
  spadUnits := 0
  run := 0
  errValid := false
  errGrp := 0
  errCode := 0
  errSeen := false
  epc := 0
  spad := ⟨[]⟩
  spadWr := []
  spadPois := []
  sb := []
  sbSerial := 0
  instSerial := 0
  l1 := .empty
  arr := .init
  ucRes := []
  ucOut := []
  lastV := 15
  lastS := 15
  puts := []
  putSerial := 0
  timer := none
  held := 0
  l1of := none

inductive Moesi where
  /-- Invalid. -/
  | i
  /-- Shared. -/
  | s
  /-- Exclusive. -/
  | e
  /-- Owned. -/
  | o
  /-- Modified. -/
  | m
  deriving DecidableEq, Repr

/-- An L2 line (R190). -/
structure L2Line where
  /-- Line (R190). -/
  line : Nat
  /-- State (R211). -/
  st : Moesi
  /-- Bytes (R190). -/
  data : LineData
  /-- Dirty sectors (R190). -/
  dirty : BitVec 4
  /-- Poison tags (R369). -/
  pois : LinePoison
  /-- Replacement age (R191). -/
  age : BitVec 2
  deriving DecidableEq, Repr

/-- The reset value of `L2Line` (R9, R434). -/
def L2Line.init : L2Line where
  line := 0
  st := .i
  data := 0
  dirty := 0
  pois := 0
  age := 3

inductive ReqKind where
  /-- RDS. -/
  | rds
  /-- RDX. -/
  | rdx
  /-- UPG. -/
  | upg
  /-- RDZ. -/
  | rdz
  /-- UCR. -/
  | ucr (reserve : Bool)
  /-- UCW. -/
  | ucw
  /-- UCA; opcode 0x04 is a conditional store (R214). -/
  | uca (op : BitVec 8) (size : MSize)
  /-- The recovery of a bad directory entry that a writeback has found (R376). -/
  | wbk
  deriving DecidableEq, Repr

/-- What an uncached request carries. -/
structure Pay where
  /-- Sector offset (R202). The model's own. -/
  sector : Nat
  /-- Byte mask (R254). The model's own. -/
  mask : BitVec 32
  /-- Bytes or the operand (R254). The model's own. -/
  data : BitVec 256
  /-- Poison tags (R372). The model's own. -/
  pois : BitVec 8
  /-- Byte address of an atomic (R214). The model's own. -/
  addr : Nat
  /-- Issuing core (R202). The model's own. -/
  core : CoreId
  /-- Issuing group (R202). The model's own. -/
  grp : BitVec 4
  /-- Lane (R178). The model's own. -/
  lane : Nat
  /-- Another module made it, so that core and group name nobody here (R216). The model's own. -/
  remote : Bool
  deriving DecidableEq, Repr

/-- The reset value of `Pay` (R9, R434). -/
def Pay.init : Pay where
  sector := 0
  mask := 0
  data := 0
  pois := 0
  addr := 0
  core := 0
  grp := 0
  lane := 0
  remote := false

/-- A response that a miss entry holds until the set and the writeback buffer take its line (R202). -/
structure Fill where
  /-- Granted state (R211). -/
  st : Moesi
  /-- Bytes (R190). -/
  data : LineData
  /-- Dirty sectors (R190). -/
  dirty : BitVec 4
  /-- Poison tags (R369). -/
  pois : LinePoison
  deriving DecidableEq, Repr

/-- The reset value of `Fill` (R9, R434). -/
def Fill.init : Fill where
  st := .s
  data := 0
  dirty := 0
  pois := 0

/-- A miss entry of an L2 slice (R190, R203). -/
structure Miss where
  /-- Line (R190). -/
  line : Nat
  /-- Request (R202). -/
  kind : ReqKind
  /-- A streaming fill (R192). -/
  stream : Bool
  /-- Holds a credit (R219). -/
  credit : Bool
  /-- Uncached payload (R202). The model's own. -/
  pay : Pay
  /-- The line, once its response has come (R202). -/
  fill : Option Fill
  deriving DecidableEq, Repr

/-- The reset value of `Miss` (R9, R434). -/
def Miss.init : Miss where
  line := 0
  kind := .rds
  stream := false
  credit := false
  pay := .init
  fill := none

/-- A writeback-buffer entry (R195). -/
structure WbEntry where
  /-- Line (R195). -/
  line : Nat
  /-- State it left (R195). -/
  st : Moesi
  /-- Bytes (R195). -/
  data : LineData
  /-- Dirty sectors (R195). -/
  dirty : BitVec 4
  /-- Poison tags (R369). -/
  pois : LinePoison
  deriving DecidableEq, Repr

/-- The reset value of `WbEntry` (R9, R434). -/
def WbEntry.init : WbEntry where
  line := 0
  st := .m
  data := 0
  dirty := 0
  pois := 0

/-- A store that the slice has accepted and not yet performed (R159, R215). -/
structure StqEntry where
  /-- Core (R159). -/
  core : CoreId
  /-- Group (R159). -/
  grp : BitVec 4
  /-- Store-buffer serial (R159). The model's own. -/
  serial : Nat
  /-- Line (R215). -/
  line : Nat
  /-- Bytes (R215). -/
  mask : LineMask
  /-- Data (R215). -/
  data : LineData
  /-- Poison tags (R372). -/
  pois : LinePoison
  /-- Dirty bytes of an L1 victim, of no one group (R194). The model's own. -/
  l1 : Bool
  /-- Launch of the store (R164). The model's own. -/
  lid : Option Nat
  deriving DecidableEq, Repr

/-- The reset value of `StqEntry` (R9, R434). -/
def StqEntry.init : StqEntry where
  core := 0
  grp := 0
  serial := 0
  line := 0
  mask := 0
  data := 0
  pois := 0
  l1 := false
  lid := none

inductive FwdKind where
  /-- FWD_S. -/
  | fwdS
  /-- FWD_X. -/
  | fwdX
  /-- RCL_S. -/
  | rclS
  /-- RCL_I. -/
  | rclI
  deriving DecidableEq, Repr

inductive Msg where
  /-- A request on REQ. -/
  | req (k : ReqKind) (r : Req) (p : Pay)
  /-- WBD. -/
  | wbd (r : Req) (w : WbEntry)
  /-- EVC. -/
  | evc (r : Req)
  /-- RTY. -/
  | rty (home : Floe) (slot : Nat) (ep : BitVec 8) (k : ReqKind) (r : Req)
  /-- A forward or recall. -/
  | fwd (k : FwdKind) (line : Nat) (dst : Clu) (r : Req) (home : Floe)
  /-- INV to one cluster. -/
  | inv (line : Nat) (dst : Clu) (home : Floe)
  /-- INV multicast to a floe column (R200); the clusters in `skip`, the requester and the owner, acknowledge without effect. -/
  | invCol (line col : Nat) (skip : List Clu) (home : Floe)
  /-- RCL_I multicast to a floe column (R376). -/
  | rclCol (line col : Nat) (home : Floe)
  /-- DATA. -/
  | data (r : Req) (st : Moesi) (d : LineData) (pois : LinePoison)
  /-- GRANT. -/
  | grant (r : Req)
  /-- NACK; `wbd` when it refuses a writeback. -/
  | nack (r : Req) (home : Floe) (slot : Nat) (ep : BitVec 8) (wbd : Bool)
  /-- WBACK. -/
  | wback (line : Nat) (dst : Clu)
  /-- UCDONE, with its number of 16 B data segments (R254). -/
  | ucdone (r : Req) (d : BitVec 256) (pois : BitVec 8) (ok : Bool) (segs : Nat) (err : Code)
  /-- DATA_F; x when it confers ownership. -/
  | dataF (r : Req) (d : LineData) (dirty : Bool) (dsec : BitVec 4) (pois : LinePoison) (x : Bool)
  /-- ACK. -/
  | ack (line : Nat) (src : Clu) (count : Nat) (d : Option LineData) (pois : LinePoison) (home : Floe)
  /-- CMP. -/
  | cmp (r : Req) (dirty : Bool)
  deriving DecidableEq, Repr

/-- A cluster: its L2 slice, its clock island and its debug page. -/
structure Cluster where
  /-- Lines, key set x 16 + way (R190). -/
  l2 : Tab L2Line
  /-- Miss entries by tag (R190). -/
  miss : Tab Miss
  /-- Epoch of each miss entry (R203). -/
  missEp : Tab (BitVec 8)
  /-- Writeback buffer (R190). -/
  wbuf : List WbEntry
  /-- Forwards, recalls and invalidations whose answer is deferred (R210). -/
  held : List Msg
  /-- Image lines that the instruction cache's fill still brings (R218). -/
  fillq : List Nat
  /-- Accepted stores (R215). -/
  stq : List StqEntry
  /-- CO_L2_HITS (R219). -/
  hits : BitVec 64
  /-- CO_L2_MISSES (R219). -/
  misses : BitVec 64
  /-- CO_L2_STAT.STALE (R219). -/
  stale : BitVec 8
  /-- Droop stretch (R444). -/
  sD : Nat
  /-- Thermal stretch (R444). -/
  sT : Nat
  /-- Clock stopped (R444). -/
  stopped : Bool
  /-- Power-gated (R445). -/
  gated : Bool
  /-- Draining for power gating (R445). -/
  draining : Bool
  /-- Last junction reading (R460). -/
  tj : BitVec 8
  /-- The sample before the last was 120 C or above (R444). -/
  tjHot : Bool
  /-- A code has been latched since the last stop (R393). -/
  latched : Bool
  /-- Last time-stamp taken (R392). -/
  stamp : BitVec 64
  /-- Time since which no block is resident (R445). -/
  idleSince : BitVec 64
  /-- DG_CSEL0 to 7 (R413). -/
  csel : Tab (BitVec 8)
  /-- DG_CNT0 to 7 (R413). -/
  cnt : Tab (BitVec 48)
  /-- DG_CCTL.FROZEN (R413). -/
  frozen : Bool
  /-- Armed actions since reset that have been applied here (R406). -/
  trigSeen : Nat
  /-- Next core to sample (R400). -/
  nextCore : BitVec 6
  /-- Next group to sample (R400). -/
  nextGrp : BitVec 4
  deriving DecidableEq, Repr

/-- The reset value of `Cluster` (R9, R434). -/
def Cluster.init : Cluster where
  l2 := .empty
  miss := .empty
  missEp := .empty
  wbuf := []
  held := []
  fillq := []
  stq := []
  hits := 0
  misses := 0
  stale := 0
  sD := 0
  sT := 0
  stopped := false
  gated := false
  draining := false
  tj := 0
  tjHot := false
  latched := true
  stamp := 0
  idleSince := 0
  csel := .empty
  cnt := .empty
  frozen := false
  trigSeen := 0
  nextCore := 0
  nextGrp := 0

/-- A forward-window entry (R249). -/
structure Fwin where
  /-- V (R249). -/
  v : Bool
  /-- NBLK (R249). -/
  nblk : BitVec 8
  /-- KBLK0 (R249). -/
  kblk0 : BitVec 16
  deriving DecidableEq, Repr

/-- The reset value of `Fwin` (R9, R434). -/
def Fwin.init : Fwin where
  v := false
  nblk := 0
  kblk0 := 0

/-- A firn router page (R249). -/
structure Router where
  /-- FN_RSTAT.PAR (R249). -/
  par : Bool
  /-- FN_RSTAT.BKDIFF (R249). -/
  bkdiff : Bool
  /-- FN_STALE (R249). -/
  stale : Word
  /-- FN_BKDUP (R249). -/
  bkdup : Word
  /-- FN_FLITS (R249). -/
  flits : BitVec 64
  /-- FN_FWIN with V set, key slot x 64 + core (R249). -/
  fwin : Tab Fwin
  deriving DecidableEq, Repr

/-- The reset value of `Router` (R9, R434). -/
def Router.init : Router where
  par := false
  bkdiff := false
  stale := 0
  bkdup := 0
  flits := 0
  fwin := .empty

inductive Dst where
  /-- Uncached. -/
  | unc
  /-- Shared, precise. -/
  | shr
  /-- Shared, coarse. -/
  | shc
  /-- Owned. -/
  | own
  /-- Owned, shared. -/
  | ows
  /-- Owned, coarse. -/
  | owc
  deriving DecidableEq, Repr

/-- A directory entry (R199). -/
structure DirEntry where
  /-- DST (R199). -/
  dst : Dst
  /-- P0 (R199). -/
  p0 : Clu
  /-- P1 (R199). -/
  p1 : Clu
  /-- P2 (R199). -/
  p2 : Clu
  /-- NSH (R199). -/
  nsh : BitVec 2
  /-- COARSE (R199). -/
  coarse : BitVec 16
  /-- GEN (R199). -/
  gen : BitVec 16
  /-- As read: a parity bit fails or DST is reserved (R199). -/
  bad : Bool
  deriving DecidableEq, Repr

/-- The reset value of `DirEntry` (R9, R434). -/
def DirEntry.init : DirEntry where
  dst := .unc
  p0 := 0
  p1 := 0
  p2 := 0
  nsh := 0
  coarse := 0
  gen := 0
  bad := false

/-- A directory entry as the ECC storage of its stack holds it: three words with their parity bits (R199, R279). -/
structure DirWords where
  /-- Word 0 (R199). -/
  w0 : Word
  /-- Word 1 (R199). -/
  w1 : Word
  /-- Word 2 (R199). -/
  w2 : Word
  deriving DecidableEq, Repr

/-- The reset value of `DirWords` (R9, R434). -/
def DirWords.init : DirWords where
  w0 := 0
  w1 := 0
  w2 := 0

/-- An entry of a home's directory cache (R198). -/
structure DirLine where
  /-- Line (R198). -/
  line : Nat
  /-- Its entry (R198). -/
  e : DirEntry
  deriving DecidableEq, Repr

/-- The reset value of `DirLine` (R9, R434). -/
def DirLine.init : DirLine where
  line := 0
  e := .init

inductive TxnWait where
  /-- Waiting for acknowledgements before the grant (R210). -/
  | acks
  /-- Waiting for the requester's CMP (R205). -/
  | cmp
  /-- Waiting for a recall before an uncached access (R212). -/
  | recall
  /-- Recovering a bad directory entry (R376). -/
  | recover
  /-- Waiting for the line's data from the stack (R289). -/
  | read
  /-- Waiting for the line's directory entry from the stack (R198). -/
  | dir
  deriving DecidableEq, Repr

/-- An open transaction at a home (R205). -/
structure Txn where
  /-- Line (R205). -/
  line : Nat
  /-- Request (R205). -/
  kind : ReqKind
  /-- Requester (R205). -/
  who : Who
  /-- What it waits for (R205). -/
  wait : TxnWait
  /-- Acknowledgements still expected (R210). -/
  acks : Nat
  /-- The slot it was served from (R207). -/
  slot : Option Nat
  /-- The requester held a copy when served (R212). -/
  hadCopy : Bool
  /-- Dirty copies returned in a recovery (R376). -/
  dirties : List LineData
  /-- Their poison tags (R376). -/
  dirtyPois : LinePoison
  /-- Uncached payload (R213). The model's own. -/
  pay : Pay
  /-- Owner to which a forward of it has been sent (R209). -/
  fwd : Option Clu
  deriving DecidableEq, Repr

/-- The reset value of `Txn` (R9, R434). -/
def Txn.init : Txn where
  line := 0
  kind := .rds
  who := .clu 0 0 0
  wait := .cmp
  acks := 0
  slot := none
  hadCopy := false
  dirties := []
  dirtyPois := 0
  pay := .init
  fwd := none

/-- A credit slot of a home (R206, R207). -/
structure SlotRec where
  /-- Slot epoch (R203). -/
  ep : BitVec 8
  /-- Reserved (R206). -/
  used : Bool
  /-- Order in which the NACKs were sent (R207). -/
  order : Nat
  /-- The RTY has arrived and waits (R207). -/
  arrived : Bool
  /-- Refused request (R206). -/
  kind : ReqKind
  /-- The refused request is a WBD (R206). -/
  isWbd : Bool
  /-- Its header (R206). -/
  req : Req
  /-- Its line, for a WBD (R206). -/
  wb : WbEntry
  /-- Its payload (R206). -/
  pay : Pay
  deriving DecidableEq, Repr

/-- The reset value of `SlotRec` (R9, R434). -/
def SlotRec.init : SlotRec where
  ep := 0
  used := false
  order := 0
  arrived := false
  kind := .rds
  isWbd := false
  req := ⟨0, .clu 0 0 0⟩
  wb := .init
  pay := .init

/-- An eviction-buffer entry (R208). -/
structure EvEntry where
  /-- Line (R208). -/
  line : Nat
  /-- Bytes (R208). -/
  data : LineData
  /-- Dirty sectors (R208). -/
  dirty : BitVec 4
  /-- Poison tags (R369). -/
  pois : LinePoison
  deriving DecidableEq, Repr

/-- The reset value of `EvEntry` (R9, R434). -/
def EvEntry.init : EvEntry where
  line := 0
  data := 0
  dirty := 0
  pois := 0

/-- A write-combining entry (R285). -/
structure WcbEntry where
  /-- Line (R285). -/
  line : Nat
  /-- Bytes written (R285). -/
  mask : LineMask
  /-- Bytes (R285). -/
  data : LineData
  /-- Poison tags (R369). -/
  pois : LinePoison
  /-- Time of the last write (R286). -/
  last : BitVec 64
  deriving DecidableEq, Repr

/-- The reset value of `WcbEntry` (R9, R434). -/
def WcbEntry.init : WcbEntry where
  line := 0
  mask := 0
  data := 0
  pois := 0
  last := 0

/-- A line read or write that waits in a pseudo-channel's queues (R289, R290). -/
structure StackReq where
  /-- A read of the directory entry alone, for a writeback (R198). -/
  entry : Bool
  /-- Line (R290). -/
  line : Nat
  /-- Order in which the controller accepted it (R289). The model's own. -/
  serial : Nat
  /-- When it was accepted (R290). -/
  since : BitVec 64
  /-- A write's bytes, or those that the buffers gave a read when it was accepted (R287). -/
  mask : LineMask
  /-- The bytes (R287). -/
  data : LineData
  /-- Their poison tags (R369). -/
  pois : LinePoison
  /-- A read-merge-write (R286). -/
  merge : Bool
  /-- The directory entry that a write also stores (R279). -/
  dir : Option DirWords
  deriving DecidableEq, Repr

/-- The reset value of `StackReq` (R9, R434). -/
def StackReq.init : StackReq where
  entry := false
  line := 0
  serial := 0
  since := 0
  mask := 0
  data := 0
  pois := 0
  merge := false
  dir := none

/-- What a stack read of a line reports, first and second time (R280). -/
structure StackReport where
  /-- Line (R280). The model's own. -/
  line : Nat
  /-- First read (R280). The model's own. -/
  first : ReadReport
  /-- Second read (R280). The model's own. -/
  second : ReadReport
  deriving DecidableEq, Repr

/-- The reset value of `StackReport` (R9, R434). -/
def StackReport.init : StackReport where
  line := 0
  first := ⟨0, 0, 0, 0, 0⟩
  second := ⟨0, 0, 0, 0, 0⟩

/-- A queued .nw gather (R288). -/
structure GatherReq where
  /-- Core (R288). -/
  core : CoreId
  /-- Group (R288). -/
  grp : BitVec 4
  /-- Sector offset (R288). -/
  sector : Nat
  /-- Order in which the controller accepted it (R289). The model's own. -/
  serial : Nat
  /-- When it was accepted (R288). -/
  since : BitVec 64
  /-- Bytes of its line that the buffers held when it was accepted (R287). -/
  mask : LineMask
  /-- Those bytes (R287). -/
  data : LineData
  /-- Their poison tags (R369). -/
  pois : LinePoison
  deriving DecidableEq, Repr

/-- The reset value of `GatherReq` (R9, R434). -/
def GatherReq.init : GatherReq where
  core := 0
  grp := 0
  sector := 0
  serial := 0
  since := 0
  mask := 0
  data := 0
  pois := 0

/-- An HBM channel (R300). -/
structure Chan where
  /-- MR_CH_STAT.STATE (R300). -/
  st : BitVec 2
  /-- MR_CH_STAT.SP1 (R300). -/
  sp1 : BitVec 2
  /-- MR_CH_STAT.SP0 (R300). -/
  sp0 : BitVec 2
  /-- MR_CH_REP (R300). -/
  rep : Word
  /-- MR_CH_RD (R300). -/
  rd : BitVec 64
  /-- MR_CH_WR (R300). -/
  wr : BitVec 64
  /-- MR_CH_GATH (R300). -/
  gath : BitVec 64
  /-- MR_CH_TURN (R300). -/
  turn : BitVec 64
  /-- Direction of each pseudo-channel's last access, 1 write (R300). -/
  lastWr : BitVec 2
  /-- MR_CH_CAPAR (R300). -/
  capar : Word
  /-- Command-parity failures in a row (R377). -/
  caRun : Nat
  /-- MR_CH_DISC (R300). -/
  disc : Word
  /-- Stopped until power-up (R377). -/
  stopped : Bool
  /-- Open row of each bank, key 32 x PC + 16 x SID + 4 x bank group + bank; an absent bank is closed (R283). -/
  rows : Tab Nat
  deriving DecidableEq, Repr

/-- The reset value of `Chan` (R9, R434). -/
def Chan.init : Chan where
  st := 0
  sp1 := 0
  sp0 := 0
  rep := 0xFFFFFFFF
  rd := 0
  wr := 0
  gath := 0
  turn := 0
  lastWr := 0
  capar := 0
  caRun := 0
  disc := 0
  stopped := false
  rows := .empty

/-- A floe's moraine controller and home agent. -/
structure Home where
  /-- Directory by line as the stack holds it; an absent entry is UNC with GEN 0 (R201) (R199). -/
  dir : Tab DirWords
  /-- Directory cache, newest last (R198). -/
  dcache : List DirLine
  /-- Requests that the home holds in its ingress, in the order they arrived (R204). -/
  ingress : List Msg
  /-- Requests deferred by a protection, and writebacks that a forward has crossed (R209) (R182). -/
  parked : List Msg
  /-- Open transactions (R205). -/
  txns : List Txn
  /-- Credit slots (R206). -/
  slots : Tab SlotRec
  /-- NACKs sent, for their order (R207). The model's own. -/
  nackSerial : Nat
  /-- Eviction buffer (R208). -/
  evb : List EvEntry
  /-- Write-combining buffers (R285). -/
  wcb : List WcbEntry
  /-- Gather queues, oldest first (R288). -/
  gq : List GatherReq
  /-- Line reads that wait, oldest first (R290). -/
  rq : List StackReq
  /-- Line writes that wait, oldest first (R290). -/
  wq : List StackReq
  /-- Accesses accepted (R289). The model's own. -/
  stackSerial : Nat
  /-- What the next stack read of a line that no request waits for will report (R280). The model's own. -/
  reps : List StackReport
  /-- MR_HOME_GEN (R220). -/
  gen : BitVec 16
  /-- MR_HOME_NACKS (R220). -/
  nacks : BitVec 64
  /-- MR_HOME_STALE (R220). -/
  stale : Word
  /-- MR_TEMP.VALID (R299). -/
  tvalid : Bool
  /-- MR_TEMP.PEAK (R299). -/
  tpeak : BitVec 8
  /-- MR_TEMP.LAST (R299). -/
  tlast : BitVec 8
  /-- MR_THERM.STATE (R299). -/
  tstate : BitVec 2
  /-- MR_THERM.HOT (R299). -/
  hot : Bool
  /-- MR_STOPS (R299). -/
  stops : Word
  /-- MR_ODECC (R299). -/
  odecc : BitVec 64
  /-- MR_REREAD (R299). -/
  reread : Word
  /-- MR_PARERR (R299). -/
  parerr : Word
  /-- Channels (R300). -/
  chans : Tab Chan
  /-- Time of the last REFab of each pseudo-channel (R293). -/
  refs : Tab (BitVec 64)
  deriving DecidableEq, Repr

/-- The reset value of `Home` (R9, R434). -/
def Home.init : Home where
  dir := .empty
  dcache := []
  ingress := []
  parked := []
  txns := []
  slots := .empty
  nackSerial := 0
  evb := []
  wcb := []
  gq := []
  rq := []
  wq := []
  stackSerial := 0
  reps := []
  gen := 0
  nacks := 0
  stale := 0
  tvalid := false
  tpeak := 0
  tlast := 0
  tstate := 3
  hot := false
  stops := 0
  odecc := 0
  reread := 0
  parerr := 0
  chans := .empty
  refs := .empty

/-- An entry of a reduction descriptor's list (R231). -/
structure DEntry where
  /-- C (R231). -/
  c : Bool
  /-- R (R231). -/
  r : Bool
  /-- CORE (R231). -/
  core : CoreId
  /-- MODULE (R231). -/
  mod_ : ModId
  /-- B (R231). -/
  b : Bool
  /-- BCORE (R231). -/
  bcore : CoreId
  /-- BMODULE (R231). -/
  bmod : ModId
  deriving DecidableEq, Repr

/-- The reset value of `DEntry` (R9, R434). -/
def DEntry.init : DEntry where
  c := false
  r := false
  core := 0
  mod_ := 0
  b := false
  bcore := 0
  bmod := 0

/-- A contribution or partial held by the network (R238 to R241). -/
structure Part where
  /-- Tree level (R238). -/
  level : Nat
  /-- Position in the level (R238). -/
  pos : Nat
  /-- The backup worker's copy (R241). -/
  bk : Bool
  /-- Elements (R234). -/
  data : List Byte
  /-- Poisoned (R372). -/
  pois : Bool
  /-- CRC-32C of the copy used (R241). -/
  crc : BitVec 32
  /-- Contributions that an arrival-order operand holds (R240). -/
  cnt : Nat
  deriving DecidableEq, Repr

/-- The reset value of `Part` (R9, R434). -/
def Part.init : Part where
  level := 0
  pos := 0
  bk := false
  data := []
  pois := false
  crc := 0
  cnt := 1

/-- An open round of a descriptor or of one of its row groups (R235). -/
structure Round where
  /-- Row group (R232). -/
  rowg : BitVec 16
  /-- Rounds of the id before it (R236). -/
  num : Nat
  /-- Operands that wait for their sibling, or accumulate in the order they arrive (R239). -/
  parts : List Part
  /-- The operands that have come, without their data (R241). -/
  used : List Part
  /-- Layer that names the members, for SHARD (R230). The model's own. -/
  layer : Nat
  deriving DecidableEq, Repr

/-- The reset value of `Round` (R9, R434). -/
def Round.init : Round where
  rowg := 0
  num := 0
  parts := []
  used := []
  layer := 0

/-- A completed round's result on its way to or in its readers' routers (R244). -/
structure Result where
  /-- Row group (R232). -/
  rowg : BitVec 16
  /-- Round (R236). -/
  num : Nat
  /-- Result bytes (R243). -/
  data : List Byte
  /-- Poisoned (R372). -/
  pois : Bool
  /-- Readers whose router or engine holds it (R244). -/
  at_ : List Reader
  /-- Readers to which a link delivered it poisoned (R370). -/
  bad : List Reader
  /-- Layer that names the readers, for SHARD (R230). The model's own. -/
  layer : Nat
  deriving DecidableEq, Repr

/-- The reset value of `Result` (R9, R434). -/
def Result.init : Result where
  rowg := 0
  num := 0
  data := []
  pois := false
  at_ := []
  bad := []
  layer := 0

/-- A set reduction descriptor. -/
structure Desc where
  /-- Owner's address space (R230). -/
  owner : Asid
  /-- The 64 B descriptor (R230). -/
  words : List Word
  /-- Its list with ALL entries written out (R231). -/
  entries : List DEntry
  /-- Pending confirmation (R268). -/
  pend : Bool
  /-- Modules that have confirmed (R268). -/
  confirmed : List ModId
  /-- Queue of the setting command (R268). -/
  setQ : QId
  /-- Its packet, by fetch order (R268). The model's own. -/
  setSerial : Nat
  /-- SHA-384 of the descriptor and its list (R268). -/
  digest : BitVec 384
  /-- EPOCH of the id at ROOTMOD, as its confirmation gave it (R268). -/
  rootEp : BitVec 8
  /-- When it was set (R268). -/
  setAt : BitVec 64
  /-- Open rounds (R235). -/
  rounds : List Round
  /-- Rounds completed, by row group (R250). -/
  round : Tab Nat
  /-- Rounds each core has contributed to (R235). -/
  put_ : Tab Nat
  /-- Rounds each core has taken (R245). -/
  taken : Tab Nat
  /-- Results held (R244). -/
  results : List Result
  /-- Rounds that have failed (R272). -/
  lost : List Nat
  /-- Completed rounds whose backup copies may still arrive, with the CRCs of the copies used (R241). -/
  kept : List Round
  /-- Rounds that step-program nodes have taken, by row group (R244). -/
  engTaken : Tab Nat
  deriving DecidableEq, Repr

/-- The reset value of `Desc` (R9, R434). -/
def Desc.init : Desc where
  owner := 0
  words := []
  entries := []
  pend := false
  confirmed := []
  setQ := 0
  setSerial := 0
  digest := 0
  rootEp := 0
  setAt := 0
  rounds := []
  round := .empty
  put_ := .empty
  taken := .empty
  results := []
  lost := []
  kept := []
  engTaken := .empty

/-- An UP flit in flight. -/
structure UpMsg where
  /-- Header (R236). -/
  h : UpHdr
  /-- Elements (R234). -/
  data : List Byte
  /-- Poisoned (R372). -/
  pois : Bool
  /-- Layer of the step-program node in use, for a SHARD descriptor of LAYER 0xFE (R230). The model's own. -/
  layer : Nat
  /-- Contributor's cluster (R234). The model's own. -/
  src : Clu
  deriving DecidableEq, Repr

/-- The reset value of `UpMsg` (R9, R434). -/
def UpMsg.init : UpMsg where
  h := ⟨0, 0, 0, 0, 0, 0, false⟩
  data := []
  pois := false
  layer := 0
  src := 0

/-- A DN flit in flight. -/
structure DnMsg where
  /-- Header (R244). -/
  h : DnHdr
  /-- Round (R236). -/
  num : Nat
  /-- Result (R243). -/
  data : List Byte
  /-- Poisoned (R372). -/
  pois : Bool
  /-- Layer that names the readers, for SHARD (R230). The model's own. -/
  layer : Nat
  deriving DecidableEq, Repr

/-- The reset value of `DnMsg` (R9, R434). -/
def DnMsg.init : DnMsg where
  h := ⟨0, 0, 0, 0, .engine⟩
  num := 0
  data := []
  pois := false
  layer := 0

/-- A message of an Amdon DATA flit (R254). -/
structure XMsg where
  /-- Header words 0 to 3 (R254). -/
  hdr : BitVec 128
  /-- Data segments (R254). -/
  segs : List Byte
  /-- Dateline class (R264). -/
  cls : Bool
  /-- Bundle member that it travels for (R271). -/
  mem : PortId
  /-- It was on the wire of a port that has failed, unacknowledged (R271). -/
  resend : Bool
  /-- In transit: the receiving port and the flit whose buffer it still holds there (R261). -/
  slot : Option (PortId × Nat)
  deriving DecidableEq, Repr

/-- The reset value of `XMsg` (R9, R434). -/
def XMsg.init : XMsg where
  hdr := 0
  segs := []
  cls := false
  mem := 0
  resend := false
  slot := none

/-- A flit of a replay buffer (R259). -/
structure SentFlit where
  /-- The flit (R259). -/
  flit : BitVec 2048
  /-- Bundle member that it was sent for (R271). -/
  mem : PortId
  deriving DecidableEq, Repr

/-- The reset value of `SentFlit` (R9, R434). -/
def SentFlit.init : SentFlit where
  flit := 0
  mem := 0

/-- A flit of a receive buffer (R251, R261). -/
structure RxFlit where
  /-- Its number among the flits received (R261). The model's own. -/
  serial : Nat
  /-- The credit that it returns: 2 x VC + CLS for a reserved buffer, 15 for a shared one (R261). -/
  key : BitVec 4
  /-- Its messages that have not left (R261). -/
  left : Nat
  deriving DecidableEq, Repr

/-- The reset value of `RxFlit` (R9, R434). -/
def RxFlit.init : RxFlit where
  serial := 0
  key := 0
  left := 0

inductive PortState where
  /-- OFF. -/
  | off
  /-- DETECT. -/
  | detect
  /-- EQUALISE. -/
  | equalise
  /-- ALIGN. -/
  | align
  /-- NEGOTIATE. -/
  | negotiate
  /-- IDENTIFY. -/
  | identify
  /-- ACTIVE. -/
  | active
  /-- RETRAIN. -/
  | retrain
  /-- DOWN. -/
  | down
  /-- MISWIRED. -/
  | miswired
  deriving DecidableEq, Repr

/-- An Amdon port (R273). -/
structure Port where
  /-- AM_STAT.STATE (R273). -/
  st : PortState
  /-- Training after a RETRAIN (R255). -/
  retraining : Bool
  /-- AM_STAT.WIDTH (R273). -/
  width : BitVec 2
  /-- AM_STAT.VER (R273). -/
  ver : BitVec 4
  /-- AM_STAT.LANEOK (R273). -/
  laneok : BitVec 8
  /-- AM_STAT.WHY (R273). -/
  why : BitVec 4
  /-- AM_CTRL.EN (R273). -/
  en : Bool
  /-- AM_CTRL.TPAR (R273). -/
  tpar : Bool
  /-- AM_CTRL.DIR, the default map at reset (R263). -/
  dir : BitVec 3
  /-- AM_TXEQ.SWING (R273). -/
  swing : BitVec 6
  /-- AM_PEER.PDIR (R273). -/
  pdir : BitVec 3
  /-- AM_PEER.PPORT (R273). -/
  pport : BitVec 5
  /-- AM_PEER.PMOD (R273). -/
  pmod : ModId
  /-- AM_FEC_CORR (R273). -/
  fecCorr : BitVec 64
  /-- AM_FEC_UNC (R273). -/
  fecUnc : Word
  /-- AM_CRC (R273). -/
  crc : Word
  /-- AM_REPLAY (R273). -/
  replay : Word
  /-- AM_RETRAIN (R273). -/
  retrain : Word
  /-- AM_STALE (R273). -/
  stale : Word
  /-- AM_PROTO (R273). -/
  proto : Word
  /-- AM_FLITS (R273). -/
  flits : BitVec 64
  /-- AM_ERR.VALID (R273). -/
  errValid : Bool
  /-- AM_ERR.CODE (R273). -/
  errCode : Code
  /-- Consecutive failed attempts (R255). -/
  attempts : Nat
  /-- SEQ of the next DATA flit (R253). -/
  txSeq : BitVec 12
  /-- SEQ expected next (R253). -/
  rxSeq : BitVec 12
  /-- Discarding until the expected SEQ arrives (R270). -/
  discard : Bool
  /-- SEQ of the last NAK received (R270). -/
  nakSeq : BitVec 12
  /-- Consecutive NAKs of that SEQ (R270). -/
  nakRun : Nat
  /-- Replay buffer, oldest first (R259). -/
  rbuf : List SentFlit
  /-- Receive buffer: the flits with messages that still wait in the transit switch (R251). -/
  rx : List RxFlit
  /-- Flits received (R261). The model's own. -/
  rxSerial : Nat
  /-- Adopted CAPS (R257). -/
  caps : BitVec 8
  /-- Consecutive NAKs sent that name one SEQ (R270). -/
  nakSent : Nat
  /-- Messages that wait to be sent, in order for each VC and class (R259). -/
  txq : List XMsg
  /-- Credits held, key 2 x VC + CLS, 15 for shared (R261). -/
  cred : Tab Nat
  /-- Credits to return (R261). -/
  retq : List (BitVec 4)
  /-- Flits put on the wire, oldest first (R253). The model's own. -/
  out : List (BitVec 2048)
  /-- Failover port that serves this member (R271). -/
  movedTo : Option PortId
  /-- Filtered cage presence input (R447). -/
  present : Bool
  /-- Filtered cage fault input (R447). -/
  fault : Bool
  deriving DecidableEq, Repr

/-- The reset value of `Port` (R9, R434). -/
def Port.init : Port where
  st := .off
  retraining := false
  width := 0
  ver := 0
  laneok := 0
  why := 0
  en := false
  tpar := false
  dir := 6
  swing := 40
  pdir := 0
  pport := 0
  pmod := 0
  fecCorr := 0
  fecUnc := 0
  crc := 0
  replay := 0
  retrain := 0
  stale := 0
  proto := 0
  flits := 0
  errValid := false
  errCode := 0
  attempts := 0
  txSeq := 0
  rxSeq := 0
  discard := false
  nakSeq := 0
  nakRun := 0
  rbuf := []
  rx := []
  rxSerial := 0
  caps := 0
  nakSent := 0
  txq := []
  cred := .empty
  retq := []
  out := []
  movedTo := none
  present := false
  fault := false

inductive TagUse where
  /-- A load. -/
  | load (core : CoreId) (grp : BitVec 4) (sector : BitVec 64)
  /-- A store. -/
  | store (core : CoreId) (grp : BitVec 4) (sector : BitVec 64)
  /-- An atomic. -/
  | atomic (core : CoreId) (grp : BitVec 4) (sector : BitVec 64) (lane : Nat)
  deriving DecidableEq, Repr

/-- A remote-request tag (R266). -/
structure TagRec where
  /-- TEPOCH (R266). -/
  ep : BitVec 8
  /-- Access it serves (R266). -/
  use : Option TagUse
  /-- When it was sent (R267). -/
  start : BitVec 64
  deriving DecidableEq, Repr

/-- The reset value of `TagRec` (R9, R434). -/
def TagRec.init : TagRec where
  ep := 0
  use := none
  start := 0

/-- The Amdon module page (R274). -/
structure Amdon where
  /-- AM_TOPO.LOCK (R274). -/
  lock : Bool
  /-- LOCK has set since power-up (R432). -/
  everLocked : Bool
  /-- AM_TOPO bits [30:0] (R274). -/
  topo : BitVec 31
  /-- AM_MID (R274). -/
  mid : ModId
  /-- AM_RTO.US (R274). -/
  rto : BitVec 16
  /-- Remote-request tags (R266). -/
  tags : Tab TagRec
  /-- When firmware set EN in stage LINKS (R415). -/
  linkStart : Option (BitVec 64)
  deriving DecidableEq, Repr

/-- The reset value of `Amdon` (R9, R434). -/
def Amdon.init : Amdon where
  lock := false
  everLocked := false
  topo := 0
  mid := 0
  rto := 100
  tags := .empty
  linkStart := none

inductive QState where
  /-- FREE. -/
  | free
  /-- ACTIVE. -/
  | active
  /-- FAILED. -/
  | failed
  /-- LOST. -/
  | lost
  /-- HOLD. -/
  | hold
  deriving DecidableEq, Repr

inductive PktSt where
  /-- Fetched and not yet checked. -/
  | fetched
  /-- Accepted by the checks and not started. -/
  | accepted
  /-- Started. -/
  | started
  /-- Completed and not retired. -/
  | done
  deriving DecidableEq, Repr

/-- A fetched packet. -/
structure Pkt where
  /-- QEPOCH of its queue when it was fetched (R333). -/
  ep : BitVec 8
  /-- Packet number (R303). -/
  num : Word
  /-- Words (R309). -/
  words : List Word
  /-- A word was delivered poisoned (R310). -/
  pois : Bool
  /-- Progress (R312). -/
  st : PktSt
  /-- CODE of the reply (R332). -/
  code : Code
  /-- STAT (R332). -/
  stat : BitVec 4
  /-- NTOK (R332). -/
  ntok : BitVec 4
  /-- RESULT (R332). -/
  result : Word
  /-- Fetch order over all queues (R315). -/
  serial : Nat
  /-- When it started (R322). -/
  start : BitVec 64
  /-- Wait limit it started with (R366). -/
  wlim : Word
  /-- Last fence value read (R322). -/
  last : BitVec 64
  /-- Its queue's address space when it was fetched (R328). -/
  asid : Asid
  deriving DecidableEq, Repr

/-- The reset value of `Pkt` (R9, R434). -/
def Pkt.init : Pkt where
  ep := 0
  num := 0
  words := []
  pois := false
  st := .fetched
  code := 0
  stat := 0
  ntok := 0
  result := 0
  serial := 0
  start := 0
  wlim := 0
  last := 0
  asid := 0

/-- The head entry of a reply FIFO as the front end holds it on-chip (R333). -/
structure HeadEnt where
  /-- Words (R333). -/
  words : List Word
  /-- Poison tags (R334). -/
  pois : BitVec 4
  deriving DecidableEq, Repr

/-- The reset value of `HeadEnt` (R9, R434). -/
def HeadEnt.init : HeadEnt where
  words := []
  pois := 0

/-- A queue and its doorbell page (R302, R336). -/
structure Queue where
  /-- DB_QSTAT.STATE (R304). -/
  st : QState
  /-- DB_QSTAT.VER (R336). -/
  ver : BitVec 4
  /-- QEPOCH (R336). -/
  ep : BitVec 8
  /-- DB_QSTAT.CODE (R336). -/
  code : Code
  /-- Address space (R302). -/
  asid : Asid
  /-- RLOG (R303). -/
  rlog : Nat
  /-- RBASE (R303). -/
  rbase : Nat
  /-- RPLY (R303). -/
  rply : Nat
  /-- DB_WPTR (R336). -/
  wptr : Word
  /-- DB_RPTR (R336). -/
  rptr : Word
  /-- DB_DONE (R336). -/
  done : BitVec 64
  /-- Doorbell latch (R306). -/
  latch : Bool
  /-- DB_WLIM (R336). -/
  wlim : Word
  /-- Packets fetched and not retired, in ring order (R312). -/
  pkts : List Pkt
  /-- DB_RSTAT.COUNT (R336). -/
  fcount : Nat
  /-- Slot number of the head entry (R333). -/
  fhead : Nat
  /-- DB_RSTAT.UNDERRUN (R336). -/
  underrun : Bool
  /-- DB_RSTAT.GAP (R336). -/
  gap : Bool
  /-- DB_RSTAT.POISON (R336). -/
  poisTag : BitVec 4
  /-- DB_REPLY0 to 3 (R336). -/
  reply : List Word
  /-- DB_KBASE (R336). -/
  kbase : BitVec 48
  /-- DB_KRPLY (R336). -/
  krply : BitVec 48
  /-- DB_KCFG.EN (R336). -/
  ken : Bool
  /-- DB_KCFG.VER (R336). -/
  kver : BitVec 4
  /-- DB_KCFG.RLOG (R336). -/
  krlog : BitVec 5
  /-- The newest stored entry is a gap marker (R23). -/
  gapTop : Bool
  /-- Head entry held on-chip (R333). -/
  head : Option HeadEnt
  deriving DecidableEq, Repr

/-- The reset value of `Queue` (R9, R434). -/
def Queue.init : Queue where
  st := .free
  ver := 0
  ep := 0
  code := 0
  asid := 0
  rlog := 6
  rbase := 0
  rply := 0
  wptr := 0
  rptr := 0
  done := 0
  latch := false
  wlim := 0
  pkts := []
  fcount := 0
  fhead := 0
  underrun := false
  gap := false
  poisTag := 0
  reply := [0, 0, 0, 0]
  kbase := 0
  krply := 0
  ken := false
  kver := 1
  krlog := 6
  gapTop := false
  head := none

/-- An address space (R338). -/
structure Space where
  /-- FE_AS_ROOT (R368). -/
  root : BitVec 48
  /-- FE_AS_QUOTA (R368). -/
  quota : Word
  /-- FE_AS_USED (R368). -/
  used : Nat
  /-- FE_AS_PKTS (R368). -/
  pkts : BitVec 64
  /-- FE_AS_STEPS (R368). -/
  steps : BitVec 64
  deriving DecidableEq, Repr

/-- The reset value of `Space` (R9, R434). -/
def Space.init : Space where
  root := 0
  quota := 0
  used := 0
  pkts := 0
  steps := 0

/-- A translation-cache entry (R344). -/
structure XcEntry where
  /-- Address space (R344). -/
  asid : Asid
  /-- Page (R344). -/
  va : Nat
  /-- Page size (R344). -/
  size : Nat
  /-- Page's offset (R344). -/
  pa : Nat
  /-- Writable (R342). -/
  w : Bool
  deriving DecidableEq, Repr

/-- The reset value of `XcEntry` (R9, R434). -/
def XcEntry.init : XcEntry where
  asid := 0
  va := 0
  size := 0
  pa := 0
  w := false

/-- Front-end registers of the queue, launch-check, firn, tenancy, error and host-port pages. -/
structure Fe where
  /-- FE_QSTALE (R337). -/
  qstale : Word
  /-- FE_QFETCH (R337). -/
  qfetch : BitVec 64
  /-- FE_LCHK_STAT.VALID (R135). -/
  lchkV : Bool
  /-- FE_LCHK_STAT.REASON (R135). -/
  lchkReason : BitVec 4
  /-- FE_LCHK_STAT.CODE (R135). -/
  lchkCode : Code
  /-- FE_LCHK_PC (R135). -/
  lchkPc : BitVec 48
  /-- FE_LCHK_SRC.QUEUE (R135). -/
  lchkQ : QId
  /-- FE_LCHK_SRC.ASID (R135). -/
  lchkAsid : Asid
  /-- FN_DSEL (R250). -/
  dsel : DescId
  /-- FE_KVP_BASE (R368). -/
  kvpBase : BitVec 48
  /-- FE_KVP_NPAGE (R368). -/
  kvpNpage : Word
  /-- FE_XC_WALKS (R368). -/
  walks : BitVec 64
  /-- FE_AS_SEL (R368). -/
  asSel : Asid
  /-- FE_SEQ_LIVE.PAUSED (R368). -/
  paused : Nat
  /-- FE_RST.CAUSE (R388). -/
  rstCause : BitVec 4
  /-- FE_RST.BUSY (R388). -/
  rstBusy : Bool
  /-- FE_RST.COUNT (R388). -/
  rstCount : BitVec 8
  /-- FE_RST.ENDED (R388). -/
  rstEnded : BitVec 13
  /-- FE_WREF_ALL (R388). -/
  wrefAll : Word
  /-- FE_WREF_C1 (R388). -/
  wrefC1 : Word
  /-- FE_WREF_LAST.V (R388). -/
  wrefV : Bool
  /-- FE_WREF_LAST.SECT (R388). -/
  wrefSect : BitVec 13
  /-- FE_WREF_LAST.CORE (R388). -/
  wrefCore : CoreId
  /-- FE_PSN_STEPS (R388). -/
  psnSteps : Word
  /-- FE_ERR_PADDR (R388). -/
  paddr : BitVec 64
  /-- FE_ERR_PSTAT.V (R388). -/
  pstatV : Bool
  /-- FE_ERR_PSTAT.CORE (R388). -/
  pstatCore : CoreId
  /-- FE_DIRERR (R388). -/
  dirErr : Word
  /-- FE_FATAL.SRC (R388). -/
  fatal : BitVec 4
  /-- FE_HWERR.VALID (R388). -/
  hwV : Bool
  /-- FE_HWERR.BAR (R388). -/
  hwBar : Bool
  /-- FE_HWERR.OFF (R388). -/
  hwOff : BitVec 26
  /-- FE_HWERR.CODE (R388). -/
  hwCode : Code
  /-- FE_HWIN.BASE (R461). -/
  hwin : BitVec 44
  /-- FE_HWIN_ERR.VALID (R461). -/
  hwinErrV : Bool
  /-- FE_HWIN_ERR.CODE (R461). -/
  hwinErrCode : Code
  /-- User queue served last (R308). -/
  lastUser : QId
  /-- Floes that have received a tile in the dispatch cycle under way (R362). -/
  dispatched : List Floe
  /-- Packets fetched, for their order (R315). The model's own. -/
  fetchSerial : Nat
  /-- Translation cache (R344). -/
  xc : List XcEntry
  /-- The first poisoned load of the current step has been recorded (R388). -/
  stepPoison : Bool
  deriving DecidableEq, Repr

/-- The reset value of `Fe` (R9, R434). -/
def Fe.init : Fe where
  qstale := 0
  qfetch := 0
  lchkV := false
  lchkReason := 0
  lchkCode := 0
  lchkPc := 0
  lchkQ := 0
  lchkAsid := 0
  dsel := 0
  kvpBase := 0
  kvpNpage := 0
  walks := 0
  asSel := 0
  paused := 0
  rstCause := 0
  rstBusy := false
  rstCount := 0
  rstEnded := 0
  wrefAll := 0
  wrefC1 := 0
  wrefV := false
  wrefSect := 0
  wrefCore := 0
  psnSteps := 0
  paddr := 0
  pstatV := false
  pstatCore := 0
  dirErr := 0
  fatal := 0
  hwV := false
  hwBar := false
  hwOff := 0
  hwCode := 0
  hwin := 0
  hwinErrV := false
  hwinErrCode := 0
  lastUser := 0x3FFF
  dispatched := []
  fetchSerial := 0
  xc := []
  stepPoison := false

/-- A launch (R38, R318). -/
structure Launch where
  /-- Queue of the LAUNCH, or 0xFFFF for a step-program node (R318). -/
  queue : QId
  /-- Its packet, by fetch order (R318). The model's own. -/
  serial : Nat
  /-- Its node (R113). -/
  node : Nat
  /-- PLACE (R318). -/
  placed : Bool
  /-- MODE (R318). -/
  bim : Bool
  /-- NGRP (R318). -/
  ngrp : Nat
  /-- NTHR (R318). -/
  nthr : Nat
  /-- Allocated vector registers (R41). -/
  valloc : Nat
  /-- SPAD (R318). -/
  spad : Nat
  /-- Entry address E (R130). -/
  entry : Nat
  /-- Code image (R47). -/
  image : List (BitVec 64)
  /-- Argument block (R319). -/
  args : List Word
  /-- BOUND (R365). -/
  bound : Nat
  /-- Tiles (R318). -/
  ntile : Nat
  /-- Next undispatched tile (R361). -/
  next : Nat
  /-- CSBASE (R318). -/
  csbase : Nat
  /-- CSCNT (R318). -/
  cscnt : Nat
  /-- Placed: the cores not yet dispatched with their shard instances (R361). -/
  binds : List (CoreId × Nat)
  /-- LAYER (R318). -/
  layer : Nat
  /-- ROLE (R318). -/
  role : Nat
  /-- Pass count (R115). -/
  passes : Nat
  /-- Column count (R115). -/
  cols : Nat
  /-- Tiles dispatched and not finished (R362). -/
  live : Nat
  /-- Cores on which a tile of it has finished (R171). -/
  ended : List CoreId
  /-- A kernel error has stopped it (R381). -/
  stopping : Bool
  /-- Lowest core with an error (R319). -/
  errCore : CoreId
  /-- Its code; 0 none (R319). -/
  errCode : Code
  /-- Some core stopped with E_POISON (R378). -/
  anyPoison : Bool
  /-- Ranges it may have written (R382). -/
  wrote : List (Nat × Nat)
  /-- Open BAR.clu participants: cluster and core (R470). -/
  cluBar : List (Nat × Nat)
  /-- Groups of finished tiles that lost a remote store, with the address of their last instruction and the code (R267). -/
  lost : List (CoreId × BitVec 4 × BitVec 48 × Code)
  deriving DecidableEq, Repr

/-- The reset value of `Launch` (R9, R434). -/
def Launch.init : Launch where
  queue := 0
  serial := 0
  node := 0
  placed := false
  bim := false
  ngrp := 0
  nthr := 0
  valloc := 0
  spad := 0
  entry := 0
  image := []
  args := []
  bound := 0
  ntile := 0
  next := 0
  csbase := 0
  cscnt := 0
  binds := []
  layer := 0
  role := 0
  passes := 0
  cols := 0
  live := 0
  ended := []
  stopping := false
  errCore := 0
  errCode := 0
  anyPoison := false
  wrote := []
  cluBar := []
  lost := []

/-- A shard descriptor (R104). -/
structure Shard where
  /-- CORE (R104). -/
  core : CoreId
  /-- LEN (R104). -/
  len : Nat
  /-- WSOFF (R104). -/
  wsoff : Nat
  /-- SRC (R104). -/
  src : Nat
  /-- LAYER0 (R104). -/
  layer0 : Nat
  /-- NLAYER (R104). -/
  nlayer : Nat
  /-- ROLE (R104). -/
  role : Nat
  /-- FMT (R104). -/
  fmt : Nat
  /-- ROWS (R104). -/
  rows : Nat
  /-- ROWG (R104). -/
  rowg : BitVec 16
  /-- KBLK0 (R104). -/
  kblk0 : Nat
  /-- NBLK (R104). -/
  nblk : Nat
  /-- STRIDE (R104). -/
  stride : Nat
  /-- CRC (R104). -/
  crc : Word
  /-- A RSVD field is not 0 or an encoding is reserved (R105). The model's own. -/
  rsvd : Bool
  deriving DecidableEq, Repr

/-- The reset value of `Shard` (R9, R434). -/
def Shard.init : Shard where
  core := 0
  len := 0
  wsoff := 0
  src := 0
  layer0 := 0
  nlayer := 0
  role := 0
  fmt := 0
  rows := 0
  rowg := 0
  kblk0 := 0
  nblk := 0
  stride := 0
  crc := 0
  rsvd := false

/-- A step-program node (R113). -/
structure Node where
  /-- KIND (R113). -/
  kind : BitVec 4
  /-- PRED0 (R113). -/
  pred0 : BitVec 12
  /-- PRED1 (R113). -/
  pred1 : BitVec 12
  /-- LAYER (R113). -/
  layer : Nat
  /-- ROLE (R113). -/
  role : Nat
  /-- MODE (R113). -/
  bim : Bool
  /-- DESC (R113). -/
  desc : DescId
  /-- CODE (R113). -/
  code : Nat
  /-- ARG (R113). -/
  arg : Nat
  /-- BOUND (R113). -/
  bound : Nat
  /-- VREGS (R113). -/
  vregs : Nat
  /-- NGRP (R113). -/
  ngrp : Nat
  /-- NTHR (R113). -/
  nthr : Nat
  /-- SPAD (R113). -/
  spad : Nat
  /-- A RSVD bit is not 0 (R113). The model's own. -/
  rsvd : Bool
  deriving DecidableEq, Repr

/-- The reset value of `Node` (R9, R434). -/
def Node.init : Node where
  kind := 0
  pred0 := 0
  pred1 := 0
  layer := 0
  role := 0
  bim := false
  desc := 0
  code := 0
  arg := 0
  bound := 0
  vregs := 0
  ngrp := 0
  nthr := 0
  spad := 0
  rsvd := false

/-- A step program (R111). -/
structure Prog where
  /-- Nodes (R111). -/
  nodes : List Node
  /-- MAXSEQ (R111). -/
  maxseq : Nat
  /-- TREE (R111). -/
  tree : Nat
  /-- PCOL (R111). -/
  pcol : Nat
  /-- COLTAB (R111). -/
  coltab : Nat
  /-- Address space it was loaded under (R111). -/
  asid : Asid
  deriving DecidableEq, Repr

/-- The reset value of `Prog` (R9, R434). -/
def Prog.init : Prog where
  nodes := []
  maxseq := 0
  tree := 0
  pcol := 0
  coltab := 0
  asid := 0

/-- A tree shape (R119). -/
structure Shape where
  /-- PARENT and RANK of each node (R119). -/
  nodes : List (Nat × Nat)
  deriving DecidableEq, Repr

/-- The reset value of `Shape` (R9, R434). -/
def Shape.init : Shape where
  nodes := []

/-- A live sequence (R351, R353). -/
structure Seq where
  /-- SEQ (R351). -/
  id : BitVec 24
  /-- SEPOCH (R351). -/
  ep : BitVec 8
  /-- ASID (R351). -/
  asid : Asid
  /-- POS (R351). -/
  pos : Nat
  /-- UNIT (R351). -/
  units : List Nat
  /-- Prompt tokens not yet taken, as read when its JOIN was checked (R120). -/
  prompt : List (BitVec 24)
  /-- SEED (R313). -/
  seed : Word
  /-- Accepted counts, newest first (R125). -/
  hist : List Nat
  /-- LASTRUN (R357). -/
  lastRun : BitVec 64
  /-- Join order (R357). -/
  order : Nat
  /-- Token of the root (R118). -/
  root : BitVec 24
  /-- Draft ranks of each head from the step that committed the root (R124). -/
  drafts : List (List Nat)
  /-- Queue of its JOIN (R315). -/
  joinQ : QId
  /-- Packet of its JOIN, by fetch order (R315). The model's own. -/
  joinSerial : Nat
  /-- Its JOIN is in progress (R315). -/
  joining : Bool
  /-- OUT of its JOIN (R315). -/
  out : Nat
  /-- Its JOIN's queue was destroyed, so that it ends at the next boundary (R354). -/
  ending : Bool
  /-- A word of one of its data units was delivered poisoned in a failed step, so that it ends at the next boundary (R379). -/
  kvPoison : Bool
  deriving DecidableEq, Repr

/-- The reset value of `Seq` (R9, R434). -/
def Seq.init : Seq where
  id := 0
  ep := 0
  asid := 0
  pos := 0
  units := []
  prompt := []
  seed := 0
  hist := []
  lastRun := 0
  order := 0
  root := 0
  drafts := []
  joinQ := 0
  joinSerial := 0
  joining := false
  out := 0
  ending := false
  kvPoison := false

/-- A STEP that waits for a boundary (R314). -/
structure PStep where
  /-- Queue (R314). -/
  queue : QId
  /-- Fetch order (R315). -/
  serial : Nat
  /-- KIND (R313). -/
  kind : BitVec 2
  /-- Address space (R314). -/
  asid : Asid
  /-- SEQ (R313). -/
  id : BitVec 24
  /-- SEPOCH (R313). -/
  ep : BitVec 8
  /-- OUT (R313). -/
  out : Nat
  /-- Prompt tokens of a JOIN, read during its check (R314). -/
  prompt : List (BitVec 24)
  /-- SEED (R313). -/
  seed : Word
  deriving DecidableEq, Repr

/-- The reset value of `PStep` (R9, R434). -/
def PStep.init : PStep where
  queue := 0
  serial := 0
  kind := 0
  asid := 0
  id := 0
  ep := 0
  out := 0
  prompt := []
  seed := 0

/-- A column of the step (R118). -/
structure Col where
  /-- TOKEN (R118). -/
  token : BitVec 24
  /-- SLOT (R118). -/
  slot : Nat
  /-- NODE (R118). -/
  node : Nat
  /-- PARENT (R118). -/
  parent : Nat
  /-- DEPTH (R118). -/
  depth : Nat
  /-- PROMPT (R118). -/
  prompt : Bool
  /-- ANC (R118). -/
  anc : BitVec 32
  /-- POS (R118). -/
  pos : Nat
  deriving DecidableEq, Repr

/-- The reset value of `Col` (R9, R434). -/
def Col.init : Col where
  token := 0
  slot := 0
  node := 0
  parent := 0
  depth := 0
  prompt := false
  anc := 0
  pos := 0

/-- A batch slot (R360). -/
structure Batch where
  /-- Record of the slot's sequence (R353). -/
  rec_ : Nat
  /-- Queue of the STEP that runs it (R315). -/
  queue : QId
  /-- Its packet, by fetch order (R315). The model's own. -/
  serial : Nat
  /-- OUT (R315). -/
  out : Nat
  /-- The STEP is a JOIN (R315). -/
  join : Bool
  /-- The sequence generates in this step (R120). -/
  gen : Bool
  /-- Tokens the step commits for it (R122). -/
  toks : List Nat
  /-- Column selected (R122). -/
  winner : Nat
  deriving DecidableEq, Repr

/-- The reset value of `Batch` (R9, R434). -/
def Batch.init : Batch where
  rec_ := 0
  queue := 0
  serial := 0
  out := 0
  join := false
  gen := false
  toks := []
  winner := 0

/-- A model load under way (R107). -/
structure Load where
  /-- Queue (R107). -/
  queue : QId
  /-- Its place in fetch order (R107). -/
  serial : Nat
  /-- IMAGE (R324). -/
  image : Nat
  /-- STATE before the load (R107). -/
  prev : BitVec 4
  /-- LENGTH of the checked image (R106). -/
  len : Nat
  /-- Its MODEL_ID (R106). -/
  modelId : BitVec 64
  /-- Its DIGEST (R106). -/
  dig : BitVec 384
  /-- Its NLAYERS (R106). -/
  nlayers : Nat
  /-- Its NDRAFT (R106). -/
  ndraft : Nat
  /-- Its VOCAB (R106). -/
  vocab : Nat
  /-- Its shard table (R107). -/
  shards : List Shard
  /-- Its tree library (R119). -/
  shapes : List Shape
  /-- Its shape-selection table (R125). -/
  sel : List Nat
  deriving DecidableEq, Repr

/-- The reset value of `Load` (R9, R434). -/
def Load.init : Load where
  queue := 0
  serial := 0
  image := 0
  prev := 0
  len := 0
  modelId := 0
  dig := 0
  nlayers := 0
  ndraft := 0
  vocab := 0
  shards := []
  shapes := []
  sel := []

/-- The instruction-cache space of a PLACED node that has not started (R133). -/
structure NodeFill where
  /-- The node (R133). -/
  node : Nat
  /-- Its checked image (R133). -/
  image : List (BitVec 64)
  deriving DecidableEq, Repr

/-- The reset value of `NodeFill` (R9, R434). -/
def NodeFill.init : NodeFill where
  node := 0
  image := []

/-- The resident model and the step engine. -/
structure Engine where
  /-- FE_MODEL_STAT.STATE (R127). -/
  mst : BitVec 4
  /-- FE_MODEL_STAT.PHASE (R127). -/
  mphase : BitVec 4
  /-- FE_MODEL_STAT.CODE (R127). -/
  mcode : Code
  /-- FE_MODEL_ID (R127). -/
  modelId : BitVec 64
  /-- FE_MODEL_DIG0 to 5 (R127). -/
  dig : BitVec 384
  /-- NLAYERS (R106). -/
  nlayers : Nat
  /-- NDRAFT (R106). -/
  ndraft : Nat
  /-- VOCAB (R106). -/
  vocab : Nat
  /-- Shard table kept from the load (R109). -/
  shards : List Shard
  /-- Tree library (R119). -/
  shapes : List Shape
  /-- Shape-selection table (R125). -/
  sel : List Nat
  /-- Model load under way (R107). -/
  load : Option Load
  /-- LENGTH of the image whose golden copies exist (R106). -/
  imgLen : Nat
  /-- FE_GOLD.V (R368). -/
  goldV : Bool
  /-- FE_GOLD.BASE (R368). -/
  goldBase : Nat
  /-- Lines of golden copy 0 (R108). -/
  gold0 : List Nat
  /-- Lines of golden copy 1 (R108). -/
  gold1 : List Nat
  /-- Step program in effect (R111). -/
  prog : Option Prog
  /-- Step program that waits for the next boundary (R325). -/
  nextProg : Option Prog
  /-- Live sequences by record (R353). -/
  seqs : Tab Seq
  /-- Current epoch of each sequence id (R353). -/
  seqEp : Tab (BitVec 8)
  /-- JOINs admitted (R357). The model's own. -/
  joins : Nat
  /-- STEPs that wait for a boundary, in fetch order (R314). -/
  psteps : List PStep
  /-- FE_KVP_UNITS (R368). -/
  units : Nat
  /-- Units withheld until the next READY (R380). -/
  withheld : List Nat
  /-- FE_STEP_STAT.STATE (R127). -/
  sst : BitVec 2
  /-- Columns of the step (R117). -/
  cols : List Col
  /-- Batch slots (R360). -/
  batch : List Batch
  /-- Nodes started (R114). -/
  started : List Nat
  /-- Nodes completed (R114). -/
  doneN : List Nat
  /-- FE_STEP_COUNT (R127). -/
  count : BitVec 64
  /-- SELECT's target of each column (R121). -/
  targets : List Nat
  /-- Code of the failed step; 0 none (R378). -/
  failCode : Code
  /-- Lowest-numbered node that failed (R378). -/
  failNode : Nat
  /-- Fills of PLACED nodes whose predecessors have started (R133). -/
  fills : List NodeFill
  /-- Ranks of each head for each batch slot, from the DRAFT node (R124). -/
  draftRanks : List (List (List Nat))
  deriving DecidableEq, Repr

/-- The reset value of `Engine` (R9, R434). -/
def Engine.init : Engine where
  mst := 0
  mphase := 0
  mcode := 0
  modelId := 0
  dig := 0
  nlayers := 0
  ndraft := 0
  vocab := 0
  shards := []
  shapes := []
  sel := []
  load := none
  imgLen := 0
  goldV := false
  goldBase := 0
  gold0 := []
  gold1 := []
  prog := none
  nextProg := none
  seqs := .empty
  seqEp := .empty
  joins := 0
  psteps := []
  units := 0
  withheld := []
  sst := 0
  cols := []
  batch := []
  started := []
  doneN := []
  count := 0
  targets := []
  failCode := 0
  failNode := 0
  fills := []
  draftRanks := []

/-- One exchange of a series (R396). -/
structure Exch where
  /-- SEQ (R396). -/
  seq : Nat
  /-- T1 (R396). -/
  t1 : BitVec 64
  /-- T2 (R396). -/
  t2 : BitVec 64
  /-- T3 (R396). -/
  t3 : BitVec 64
  /-- T4 (R396). -/
  t4 : BitVec 64
  /-- The response has come (R396). -/
  done : Bool
  deriving DecidableEq, Repr

/-- The reset value of `Exch` (R9, R434). -/
def Exch.init : Exch where
  seq := 0
  t1 := 0
  t2 := 0
  t3 := 0
  t4 := 0
  done := false

/-- The time base (R411). -/
structure TimeBase where
  /-- Last time code broadcast (R391). -/
  code : BitVec 64
  /-- TB_NOW (R411). -/
  now : BitVec 64
  /-- TB_STAT.SYNC (R411). -/
  sync : Bool
  /-- TB_STAT.LOCK (R411). -/
  lock : Bool
  /-- TB_STAT.HOLD (R411). -/
  hold : Bool
  /-- TB_STAT.ROLE (R411). -/
  role : Bool
  /-- The role is fixed (R394). -/
  roleSet : Bool
  /-- TB_STAT.REFOK (R411). -/
  refok : Bool
  /-- TB_STAT.RESV (R411). -/
  resv : Bool
  /-- TB_STAT.PORT (R411). -/
  port : PortId
  /-- TB_STAT.SERIES (R411). -/
  series : BitVec 8
  /-- TB_OFFSET (R411). -/
  offset : BitVec 64
  /-- TB_RESID (R411). -/
  resid : BitVec 64
  /-- TB_RTT (R411). -/
  rtt : Word
  /-- Exchanges of the series (R396). -/
  exch : List Exch
  /-- When the series began (R396). -/
  exStart : BitVec 64
  /-- Next SEQ (R396). -/
  exNext : Nat
  /-- A series is running (R396). -/
  exOn : Bool
  /-- The counter runs (R390). -/
  running : Bool
  deriving DecidableEq, Repr

/-- The reset value of `TimeBase` (R9, R434). -/
def TimeBase.init : TimeBase where
  code := 0
  now := 0
  sync := false
  lock := false
  hold := false
  role := false
  roleSet := false
  refok := false
  resv := false
  port := 0
  series := 0
  offset := 0
  resid := 0
  rtt := 0
  exch := []
  exStart := 0
  exNext := 0
  exOn := false
  running := false

/-- An entry of the PC-sample or trace FIFO. -/
structure FifoEnt where
  /-- Words (R402). -/
  words : List Word
  /-- Words whose parity fails (R24). -/
  pois : BitVec 8
  /-- A gap marker (R23). -/
  gap : Bool
  deriving DecidableEq, Repr

/-- The reset value of `FifoEnt` (R9, R434). -/
def FifoEnt.init : FifoEnt where
  words := []
  pois := 0
  gap := false

/-- A watch record that waits at its root (R409). -/
structure TwRec where
  /-- The root's router (R409). -/
  root : Clu
  /-- Descriptor (R409). -/
  desc : DescId
  /-- ROWG (R410). -/
  rowg : BitVec 16
  /-- The record (R410). -/
  words : List Word
  /-- TIME[63:32] of the record (R409). -/
  hi : Word
  deriving DecidableEq, Repr

/-- The reset value of `TwRec` (R9, R434). -/
def TwRec.init : TwRec where
  root := 0
  desc := 0
  rowg := 0
  words := []
  hi := 0

/-- The debug module page (R412). -/
structure Debug where
  /-- DG_PCS_CTRL.EN (R412). -/
  pcsEn : Bool
  /-- DG_PCS_CTRL.ALL (R412). -/
  pcsAll : Bool
  /-- DG_PCS_CTRL.FLOE (R412). -/
  pcsFloe : Floe
  /-- DG_PCS_CTRL.CSTR (R412). -/
  pcsCstr : BitVec 3
  /-- DG_PCS_CTRL.PER (R412). -/
  pcsPer : BitVec 5
  /-- PC-sample FIFO, oldest first (R401). -/
  pcs : List FifoEnt
  /-- DG_PCS_STAT.UNDERRUN (R412). -/
  pcsUnder : Bool
  /-- DG_PCS_STAT.GAP (R412). -/
  pcsGap : Bool
  /-- DG_PCS_STAT.POISON (R412). -/
  pcsPois : BitVec 8
  /-- DG_PCS_TOTAL (R412). -/
  pcsTotal : BitVec 64
  /-- DG_PCS_LOST (R412). -/
  pcsLost : BitVec 64
  /-- DG_PCS_POP0 to 3 (R412). -/
  pcsPop : List Word
  /-- TIME[63:32] of the previous stored entry since EN (R401). -/
  pcsHi : Option Word
  /-- Time code at which the collector last accepted a sample, for its 16 cycles (R401). -/
  pcsAt : Option (BitVec 64)
  /-- DG_TRIG_AT (R412). -/
  trigAt : BitVec 64
  /-- DG_TRIG_CTL.ACT (R412). -/
  trigAct : BitVec 2
  /-- An action is armed (R406). -/
  armed : Bool
  /-- AT of the armed action (R406). -/
  armAt : BitVec 64
  /-- ACT of the armed action (R406). -/
  armAct : BitVec 2
  /-- AT and ACT of every action armed since the last reset, oldest first (R406). -/
  acts : List (BitVec 64 × BitVec 2)
  /-- Armed actions since reset whose markers the trace FIFO has recorded (R406). -/
  trigMark : Nat
  /-- DG_TRIG_CTL.FROZEN (R412). -/
  trigFrozen : Bool
  /-- DG_TW_CTRL.DEC (R412). -/
  twDec : BitVec 3
  /-- V of DG_TW_SEL0 to 3 (R412). -/
  twV : BitVec 4
  /-- ID of DG_TW_SEL0 to 3 (R412). -/
  twId : Tab DescId
  /-- DG_TW_DROP (R412). -/
  twDrop : Word
  /-- Trace FIFO, oldest first (R409). -/
  tr : List FifoEnt
  /-- DG_TR_STAT.UNDERRUN (R412). -/
  trUnder : Bool
  /-- DG_TR_STAT.GAP (R412). -/
  trGap : Bool
  /-- DG_TR_STAT.POISON (R412). -/
  trPois : BitVec 8
  /-- DG_TR_TOTAL (R412). -/
  trTotal : BitVec 64
  /-- DG_TR_POP0 to 7 (R412). -/
  trPop : List Word
  /-- TIME[63:32] of the previous stored entry (R409). -/
  trHi : Option Word
  /-- DG_ERR.VALID (R412). -/
  errV : Bool
  /-- DG_ERR.CODE (R412). -/
  errCode : Code
  /-- DG_AO_BUSY (R412). -/
  aoBusy : BitVec 64
  /-- DG_AO_ISSUE (R412). -/
  aoIssue : BitVec 64
  /-- DG_AO_MX (R412). -/
  aoMx : BitVec 64
  /-- DG_AO_STRETCH (R412). -/
  aoStretch : BitVec 64
  /-- DG_AO_GATED (R412). -/
  aoGated : BitVec 64
  /-- DG_AO_REPLAY (R412). -/
  aoReplay : Word
  /-- DG_AO_POISON (R412). -/
  aoPoison : Word
  /-- Watch records that wait to leave their roots (R409). -/
  waiting : List TwRec
  deriving DecidableEq, Repr

/-- The reset value of `Debug` (R9, R434). -/
def Debug.init : Debug where
  pcsEn := false
  pcsAll := false
  pcsFloe := 0
  pcsCstr := 0
  pcsPer := 16
  pcs := []
  pcsUnder := false
  pcsGap := false
  pcsPois := 0
  pcsTotal := 0
  pcsLost := 0
  pcsPop := [0, 0, 0, 0]
  pcsHi := none
  pcsAt := none
  trigAt := 0
  trigAct := 0
  armed := false
  armAt := 0
  armAct := 0
  acts := []
  trigMark := 0
  trigFrozen := false
  twDec := 0
  twV := 0
  twId := .empty
  twDrop := 0
  tr := []
  trUnder := false
  trGap := false
  trPois := 0
  trTotal := 0
  trPop := [0, 0, 0, 0, 0, 0, 0, 0]
  trHi := none
  errV := false
  errCode := 0
  aoBusy := 0
  aoIssue := 0
  aoMx := 0
  aoStretch := 0
  aoGated := 0
  aoReplay := 0
  aoPoison := 0
  waiting := []

/-- One nunatak's page and its firmware processor (R435). -/
structure Nunatak where
  /-- NT_BOOT.STAGE (R435). -/
  stage : Nat
  /-- NT_BOOT.HOLD (R435). -/
  hold : Bool
  /-- NT_BOOT.HWHY (R435). -/
  hwhy : BitVec 4
  /-- NT_BOOT.RESULT (R435). -/
  result : BitVec 4
  /-- NT_BOOT.SWAIT (R435). -/
  swait : BitVec 4
  /-- NT_STRAP.LIVE (R435). -/
  live : Bool
  /-- NT_STRAP.LATCH (R435). -/
  latch : Bool
  /-- The strap reading has been latched (R427). -/
  latchSet : Bool
  /-- NT_STRAP.PEER (R435). -/
  peer : Bool
  /-- NT_STRAP.PVALID (R435). -/
  pvalid : Bool
  /-- NT_STRAP.SEQ (R435). -/
  pseq : BitVec 16
  /-- Time of the last valid frame (R429). -/
  lastFrame : BitVec 64
  /-- NT_IMGVER (R435). -/
  imgver : Word
  /-- NT_MEAS0 to 5 (R435). -/
  meas : BitVec 384
  /-- The peer's measurement (R425). -/
  peerMeas : BitVec 384
  /-- NT_ID.STATE (R435). -/
  idst : BitVec 2
  /-- NT_QNONCE0 to 3 (R435). -/
  nonce : BitVec 256
  /-- NT_QCTL.BUSY (R435). -/
  qbusy : Bool
  /-- NT_QCTL.DONE (R435). -/
  qdone : Bool
  /-- NT_QCTL.REFUSED (R435). -/
  qref : Bool
  /-- NT_QBUF0 to 45; an absent byte is 0 (R435). -/
  qbuf : List Byte
  /-- NT_REP_SEL (R435). -/
  repSel : Floe
  /-- Firmware runs (R428). -/
  fwOn : Bool
  /-- Time of the last NT_HB_KICK write since firmware started (R428). -/
  kick : Option (BitVec 64)
  /-- Device identity key, within the identity engine (R424). -/
  idKey : BitVec 384
  /-- SEQ of the next heartbeat frame (R428). -/
  seq : BitVec 16
  /-- Boot window (R435). -/
  window : Memory
  /-- Its ROM has accepted the image (R421). -/
  accepted : Bool
  /-- Its host port is trained (R430). -/
  portUp : Bool
  /-- Heartbeat frames sent, oldest first (R428). The model's own. -/
  frames : List (BitVec 64)
  deriving DecidableEq, Repr

/-- The reset value of `Nunatak` (R9, R434). -/
def Nunatak.init : Nunatak where
  stage := 0
  hold := false
  hwhy := 0
  result := 0
  swait := 0
  live := false
  latch := false
  latchSet := false
  peer := false
  pvalid := false
  pseq := 0
  lastFrame := 0
  imgver := 0
  meas := 0
  peerMeas := 0
  idst := 0
  nonce := 0
  qbusy := false
  qdone := false
  qref := false
  qbuf := []
  repSel := 0
  fwOn := false
  kick := none
  idKey := 0
  seq := 0
  window := ⟨[]⟩
  accepted := false
  portUp := false
  frames := []

/-- A record of the configuration EEPROM (R423). -/
structure EepRecord where
  /-- Its bytes but the last four (R423). -/
  data : List Byte
  /-- The CRC-32C at its end (R423). -/
  crc : Word
  deriving DecidableEq, Repr

/-- The reset value of `EepRecord` (R9, R434). -/
def EepRecord.init : EepRecord where
  data := []
  crc := 0

/-- The records of the configuration EEPROM as both nunataks have read them in stage ROM; empty before (R423). -/
structure Eeprom where
  /-- Module record (R423). -/
  modRec : EepRecord
  /-- PUF helper data, west nunatak (R423). -/
  helperW : EepRecord
  /-- PUF helper data, east nunatak (R423). -/
  helperE : EepRecord
  /-- Device certificate of the west nunatak (R423). -/
  certW : EepRecord
  /-- Device certificate of the east nunatak (R423). -/
  certE : EepRecord
  /-- Prearo intermediate certificate (R423). -/
  certP : EepRecord
  deriving DecidableEq, Repr

/-- The reset value of `Eeprom` (R9, R434). -/
def Eeprom.init : Eeprom where
  modRec := .init
  helperW := .init
  helperE := .init
  certW := .init
  certE := .init
  certP := .init

/-- The module record of the configuration EEPROM (R423); its serial number is Config.serialByte. -/
structure ModRecord where
  /-- Magic (R423). -/
  magic : Word
  /-- Format (R423). -/
  format : Nat
  /-- Module stepping, A0 of R1, coded as in a quote (R423). -/
  stepping : BitVec 16
  deriving DecidableEq, Repr

/-- The reset value of `ModRecord` (R9, R434). -/
def ModRecord.init : ModRecord where
  magic := 0x3143454D
  format := 1
  stepping := 0x4100

/-- The management controller (R431). -/
structure Mgmt where
  /-- The module record of the EEPROM (R423). -/
  record : ModRecord
  /-- The last answer frame (R431). The model's own. -/
  answer : List Byte
  /-- Values held from SETTOPO (R432). -/
  topo : Option (ModId × BitVec 31)
  /-- Serial number read from the EEPROM; an absent byte is 0 (R432). -/
  serial : List Byte
  deriving DecidableEq, Repr

/-- The reset value of `Mgmt` (R9, R434). -/
def Mgmt.init : Mgmt where
  record := .init
  answer := []
  topo := none
  serial := []

inductive CplSt where
  /-- No request has been answered yet. -/
  | none
  /-- Completed. -/
  | ok
  /-- Returned as a poisoned TLP (R372). -/
  | poisoned
  /-- Unsupported Request (R451). -/
  | ur
  /-- Request Retry Status (R416). -/
  | crs
  deriving DecidableEq, Repr

inductive HostReq where
  /-- A BAR4 write at an HBM offset, which BASE and the size have given it when it arrived (R165, R451). -/
  | write (at_ : Nat) (bytes : List Byte) (poisoned : Bool)
  /-- A BAR4 read at an HBM offset (R165, R451). -/
  | read (at_ len : Nat)
  /-- A write of DB_WPTR (R306). -/
  | doorbell (q : QId) (w : Word)
  /-- A read of DB_REPLY0 (R334). -/
  | pop (q : QId) (n : RdSize)
  deriving DecidableEq, Repr

/-- The host port. -/
structure HostIf where
  /-- Requests that wait for a line, in the order of their arrival (R165). -/
  waiting : List HostReq
  /-- Status of the last completion (R451). The model's own. -/
  cplSt : CplSt
  /-- Data of the last completion (R8). The model's own. -/
  cpl : List Byte
  /-- The port answers configuration requests (R416). -/
  answers : Bool
  /-- Log2 of the BAR4 size (R450). -/
  barLog : Nat
  /-- AER Poisoned TLP Received (R452). -/
  aerPois : Bool
  /-- AER Unsupported Request (R452). -/
  aerUr : Bool
  /-- AER ECRC Error (R452). -/
  aerEcrc : Bool
  /-- AER Uncorrectable Internal Error (R452). -/
  aerInt : Bool
  /-- AER correctable errors, by their status bits (R452). -/
  aerCor : Word
  /-- Address bits of the BAR registers (R450). -/
  bars : Tab Word
  /-- Power state D3hot (R448). -/
  d3hot : Bool
  /-- Device Control (R452). -/
  devCtl : BitVec 16
  /-- Device Status: correctable, non-fatal, fatal, unsupported request (R452). -/
  devSta : BitVec 4
  /-- ECRC generation and checking enabled (R448). -/
  ecrc : BitVec 2
  /-- Codes of the error messages sent, oldest first (R452). The model's own. -/
  msgs : List (BitVec 8)
  deriving DecidableEq, Repr

/-- The reset value of `HostIf` (R9, R434). -/
def HostIf.init : HostIf where
  waiting := []
  cplSt := .none
  cpl := []
  answers := false
  barLog := 36
  aerPois := false
  aerUr := false
  aerEcrc := false
  aerInt := false
  aerCor := 0
  bars := .empty
  d3hot := false
  devCtl := 0
  devSta := 0
  ecrc := 0
  msgs := []

/-- The power stage and the power page (R460). -/
structure Power where
  /-- The floe, HBM and nunatak rails are up (R440). -/
  on : Bool
  /-- The always-on rail is up (R440). -/
  aon : Bool
  /-- PG_OUT is asserted (R440). -/
  pgOut : Bool
  /-- PW_STAT.LOWV (R460). -/
  lowv : Bool
  /-- PW_STAT.HIGHV (R460). -/
  highv : Bool
  /-- PW_STAT.ILIM (R460). -/
  ilim : Bool
  /-- PW_STAT.COOL (R460). -/
  cool : Bool
  /-- PW_STAT.RFAULT (R460). -/
  rfault : Bool
  /-- PW_STAT.TTRIP (R460). -/
  ttrip : Bool
  /-- PW_IN.VIN (R460). -/
  vin : BitVec 16
  /-- PW_IN.IIN (R460). -/
  iin : BitVec 16
  /-- PW_PIN.W (R460). -/
  pin : BitVec 17
  /-- PW_COOL.OUT (R460). -/
  tout : BitVec 8
  /-- PW_COOL.IN (R460). -/
  tin : BitVec 8
  /-- PW_GATE.EN (R460). -/
  gateEn : Bool
  /-- PW_GATE.IDLE (R460). -/
  gateIdle : BitVec 16
  /-- PW_ISL_SEL (R460). -/
  islSel : Clu
  deriving DecidableEq, Repr

/-- The reset value of `Power` (R9, R434). -/
def Power.init : Power where
  on := true
  aon := true
  pgOut := true
  lowv := false
  highv := false
  ilim := false
  cool := false
  rfault := false
  ttrip := false
  vin := 0
  iin := 0
  pin := 0
  tout := 0
  tin := 0
  gateEn := false
  gateIdle := 100
  islSel := 0

/-- The whole module, and the commands that wait. -/
structure State where
  /-- Commands that wait, first in first out. The model's own. -/
  pending : List Instr
  /-- Count of free values taken. The model's own. -/
  fresh : Nat
  /-- HBM bytes (R13). -/
  mem : Memory
  /-- Poisoned HBM words (offset div 4), sorted (R371). -/
  poison : List Nat
  /-- Weight stores, key window offset (R35) (R65). -/
  ws : Memory
  /-- Cores (R38). -/
  cores : Tab Core
  /-- Clusters (R190). -/
  clus : Tab Cluster
  /-- Firn router pages (R249). -/
  rtrs : Tab Router
  /-- Moraine controllers and home agents (R198). -/
  homes : Tab Home
  /-- Coherence messages in flight (R202). -/
  net : List Msg
  /-- .uc reservations kept at homes: core, group, lane, sector (R214). -/
  ucResv : List (CoreId × BitVec 4 × Nat × Nat)
  /-- Set reduction descriptors (R230). -/
  descs : Tab Desc
  /-- EPOCH of every descriptor id (R236). -/
  descEp : Tab (BitVec 8)
  /-- UP flits in flight (R226). -/
  fnet : List UpMsg
  /-- DN flits in flight (R226). -/
  dnet : List DnMsg
  /-- Operands from other modules of which messages are still to come (R254). The model's own. -/
  upAsm : List UpMsg
  /-- Results from other modules of which messages are still to come (R254). The model's own. -/
  dnAsm : List DnMsg
  /-- Amdon ports whose state differs from reset (R273). -/
  ports : Tab Port
  /-- Amdon module page (R274). -/
  am : Amdon
  /-- Live-channel table: floe x 16 + channel (R281). -/
  live : List Nat
  /-- MR_ILV_SEL (R301). -/
  ilvSel : BitVec 11
  /-- Queues (R302). -/
  queues : Tab Queue
  /-- Address spaces that exist (R338). -/
  spaces : Tab Space
  /-- Front-end registers (R337). -/
  fe : Fe
  /-- Launches that run (R319). -/
  launches : Tab Launch
  /-- Launches started (R362). The model's own. -/
  launchSerial : Nat
  /-- Resident model and step engine (R127). -/
  eng : Engine
  /-- Time base (R411). -/
  tb : TimeBase
  /-- Debug module page (R412). -/
  dg : Debug
  /-- West nunatak (R435). -/
  west : Nunatak
  /-- East nunatak (R435). -/
  east : Nunatak
  /-- Physical clusters that failed self-test (floe x 132 + cluster) (R418). -/
  failedClu : List Nat
  /-- The repair map is in effect (R418). -/
  mapped : Bool
  /-- Management controller (R431). -/
  mgmt : Mgmt
  /-- Records of the configuration EEPROM (R423). -/
  eeprom : Eeprom
  /-- Host port (R448). -/
  host : HostIf
  /-- Power stage (R460). -/
  pw : Power
  deriving DecidableEq, Repr

/-- Why the machine stops with a fault. No command of the model does: every illegal access and every error of the
module has an outcome that the manual gives (R12, R387), so the constructor is for a reader of `Outcome` only; safe. -/
inductive Fault where
  | none
  deriving DecidableEq, Repr

/-- Why a command is refused. `notModelled` is for an arm of `exec` that has no meaning yet; safe. -/
inductive Refusal where
  | notModelled (mnemonic : String)
  deriving DecidableEq, Repr

/-- The module right after reset: the rails are up, boot stage 0 is about to run and nothing has been done (R9, R415,
R434). Values the manual does not give are DESIGN CHOICE or PRESUMED, in the log entries that INVENTORY.md names. -/
def State.reset : State where
  pending := []
  fresh := 0
  mem := ⟨[]⟩
  poison := []
  ws := ⟨[]⟩
  cores := .empty
  clus := .empty
  rtrs := .empty
  homes := .empty
  net := []
  ucResv := []
  descs := .empty
  descEp := .empty
  fnet := []
  dnet := []
  upAsm := []
  dnAsm := []
  ports := .empty
  am := .init
  live := []
  ilvSel := 0
  queues := .empty
  spaces := ⟨[(0, { root := 0, quota := 0xFFFFFFFF, used := 0, pkts := 0, steps := 0 })]⟩
  fe := .init
  launches := .empty
  launchSerial := 0
  eng := .init
  tb := .init
  dg := .init
  west := .init
  east := .init
  failedClu := []
  mapped := false
  mgmt := .init
  eeprom := .init
  host := .init
  pw := .init

end Sys2Proof.Machine
end

