-- ==== Sys2Proof/Machine/Flags.lean ====
section
/-! DEFINITION. Conditions and flags: the compare conditions of R142 and R145 and the sticky array flags of R101. The core keeps no
floating-point exception flags (R68). -/
namespace Sys2Proof.Machine

/-- Registers of 64-bit types are pairs (R137). -/
def wide (t : Ty) : Bool := t == .i64 || t == .u64 || t == .f64

def isFloat (t : Ty) : Bool := t == .f32 || t == .f64

/-- The order of two lane values under a type; none when an operand is NaN (R142). -/
def tyCmp (t : Ty) (a b : BitVec 64) : Option Ordering :=
  match t with
  | .i32 => some (compare (a.setWidth 32).toInt (b.setWidth 32).toInt)
  | .u32 => some (compare (a.setWidth 32).toNat (b.setWidth 32).toNat)
  | .i64 => some (compare a.toInt b.toInt)
  | .u64 => some (compare a.toNat b.toNat)
  | .f32 => (f32 (a.setWidth 32)).cmp (f32 (b.setWidth 32))
  | _ => (f64 a).cmp (f64 b)

/-- The condition of MOD[2:0] (R142): with a NaN operand, ne and unordered hold and no other. -/
def condHolds (c : Nat) (o : Option Ordering) : Bool :=
  match o with
  | none => c == 1 || c == 6
  | some r =>
    match c with
    | 0 => r == .eq
    | 1 => r != .eq
    | 2 => r == .lt
    | 3 => r != .gt
    | 4 => r == .gt
    | 5 => r != .lt
    | _ => false

/-- The scalar compare of R145. -/
def scondHolds (c : SCond) (a b : Word) : Bool :=
  match c with
  | .eq => a == b
  | .ne => a != b
  | .lt => a.toInt < b.toInt
  | .le => a.toInt ≤ b.toInt
  | .gt => b.toInt < a.toInt
  | .ge => b.toInt ≤ a.toInt
  | .ltu => a.toNat < b.toNat
  | .leu => a.toNat ≤ b.toNat
  | .gtu => b.toNat < a.toNat
  | .geu => b.toNat ≤ a.toNat

/-- The sticky flags of MX_FLAGS (R101), with the bit places of MX_FLAGS. -/
structure MxFlags where
  inf : Bool := false
  nan : Bool := false
  trunc : Bool := false
  dsat : Bool := false
  iovf : Bool := false
  deriving DecidableEq, Repr

def MxFlags.toBits (f : MxFlags) : BitVec 5 :=
  flagAt 5 4 f.inf ||| flagAt 5 3 f.nan ||| flagAt 5 2 f.trunc ||| flagAt 5 1 f.dsat ||| flagAt 5 0 f.iovf

/-- Flags are sticky: an operation only sets them. -/
def Arr.raise (a : Arr) (f : MxFlags) : Arr := { a with flags := a.flags ||| f.toBits }

end Sys2Proof.Machine
end

