-- ==== Sys2Proof/Machine/Operands.lean ====
section
/-! DEFINITION. Operands: register files of a group (R40, R42), the operand forms of R136 and R137, immediates (R140) and the lane
addresses of format M (R147, R149). -/
namespace Sys2Proof.Machine

def Group.vreg (gr : Group) (n lane : Nat) : Word := gr.vregs.get (32 * n + lane) 0

def Group.sreg (gr : Group) (n : Nat) : Word := gr.sregs.get n 0

def Group.sreg64 (gr : Group) (n : Nat) : BitVec 64 := gr.sreg (n + 1) ++ gr.sreg n

def Group.setV (gr : Group) (n lane : Nat) (x : Word) : Group :=
  { gr with vregs := gr.vregs.put (32 * n + lane) x, vpois := gr.vpois.filter (· != 32 * n + lane) }

def Group.setS (gr : Group) (n : Nat) (x : Word) : Group :=
  { gr with sregs := gr.sregs.put n x, spois := gr.spois.filter (· != n) }

/-- Writes a scalar register, or the pair from an even one, low word first (R40). -/
def Group.setS64 (gr : Group) (w64 : Bool) (n : Nat) (x : BitVec 64) : Group :=
  if w64 then (gr.setS n (x.setWidth 32)).setS (n + 1) ((x >>> 32).setWidth 32) else gr.setS n (x.setWidth 32)

/-- The value of a source operand in a lane: 32 bits, or a pair when `w` (R136, R137). -/
def Group.rd (gr : Group) (o : Opnd) (w : Bool) (lane : Nat) : BitVec 64 :=
  match o with
  | .v n => if w then gr.vreg (n.toNat + 1) lane ++ gr.vreg n.toNat lane else (gr.vreg n.toNat lane).setWidth 64
  | .s n => if w then gr.sreg64 n.toNat else (gr.sreg n.toNat).setWidth 64
  | .lane => BitVec.ofNat 64 lane
  | .zero => 0
  | .none => 0

/-- IMM24 as a value of the type (R140). -/
def imm24 (t : Ty) (i : BitVec 24) : BitVec 64 :=
  match t with
  | .i64 => i.signExtend 64
  | .u64 => i.signExtend 64
  | .f32 => ((i.setWidth 32) <<< 8).setWidth 64
  | .f64 => (i.setWidth 64) <<< 40
  | _ => (i.signExtend 32).setWidth 64

/-- The second source: a register operand, or IMM24 in format VI. -/
def Group.rd1 (gr : Group) (f : VF) (w : Bool) (lane : Nat) : BitVec 64 :=
  match f.src1 with
  | .op o => gr.rd o w lane
  | .imm i => imm24 f.ty i

/-- A source that reads a poisoned register word in the lane (R372). -/
def Group.opPois (gr : Group) (o : Opnd) (w : Bool) (lane : Nat) : Bool :=
  match o with
  | .v n => gr.vpois.contains (32 * n.toNat + lane) || (w && gr.vpois.contains (32 * (n.toNat + 1) + lane))
  | .s n => gr.spois.contains n.toNat || (w && gr.spois.contains (n.toNat + 1))
  | _ => false

def Group.srcPois (gr : Group) (o : VSrc) (w : Bool) (lane : Nat) : Bool :=
  match o with
  | .op o => gr.opPois o w lane
  | .imm _ => false

/-- A scalar source that is poisoned. -/
def Group.sPois (gr : Group) (w64 : Bool) (n : Nat) : Bool :=
  gr.spois.contains n || (w64 && gr.spois.contains (n + 1))

/-- Lanes of the mask, ascending. -/
def lanesOf (m : BitVec 32) : List Nat := setBits m

/-- Writes one lane of a vector destination, a pair when `w`. -/
def Group.wrLane (gr : Group) (n : Nat) (w : Bool) (lane : Nat) (x : BitVec 64) : Group :=
  if w then (gr.setV n lane (x.setWidth 32)).setV (n + 1) lane ((x >>> 32).setWidth 32)
  else gr.setV n lane (x.setWidth 32)

/-- Writes a vector destination in the lanes of the mask; other lanes keep their value (R50). -/
def Group.wrLanes (gr : Group) (n : Nat) (w : Bool) (m : BitVec 32) (f : Nat → BitVec 64) : Group :=
  (lanesOf m).foldl (fun g l => g.wrLane n w l (f l)) gr

/-- Writes a result to DST: a vector register in the active lanes, or a scalar register. -/
def Group.wrDst (gr : Group) (dst : Opnd) (w : Bool) (f : Nat → BitVec 64) : Group :=
  match dst with
  | .v n => gr.wrLanes n.toNat w gr.exec f
  | .s n => gr.setS64 w n.toNat (f 0)
  | _ => gr

/-- A lane's index value, extended by SIGN (R147). -/
def Group.indexOf (gr : Group) (f : MF) (lane : Nat) : BitVec 64 :=
  match f.index with
  | .none => 0
  | o =>
    let x : Word := (gr.rd o false lane).setWidth 32
    if f.sign then x.signExtend 64 else x.setWidth 64

/-- The byte offset: OFF, or OFF[11:0] in LDR and STC (R149). -/
def offOf (f : MF) (res : Bool) : BitVec 64 :=
  if res then (bits f.off 0 12).signExtend 64 else f.off.signExtend 64

/-- The effective address of a lane (R147). A scratchpad address is its value modulo 2^32. -/
def Group.laneAddr (gr : Group) (f : MF) (res : Bool) (lane : Nat) : BitVec 64 :=
  if f.spad then
    let b : Word :=
      if f.vaddr then (gr.rd f.index false lane).setWidth 32
      else gr.sreg f.sbase.toNat + (((gr.indexOf f lane) <<< f.scl.toNat).setWidth 32)
    (b + (offOf f res).setWidth 32).setWidth 64
  else if f.vaddr then gr.rd f.index true lane + offOf f res
  else gr.sreg64 f.sbase.toNat + ((gr.indexOf f lane) <<< f.scl.toNat) + offOf f res

/-- The registers that form a lane's address, when poisoned. -/
def Group.addrPois (gr : Group) (f : MF) (lane : Nat) : Bool :=
  if f.vaddr then gr.opPois f.index (!f.spad) lane
  else gr.sPois (!f.spad) f.sbase.toNat || gr.opPois f.index false lane

/-- Bytes of an access. -/
def sizeBytes : MSize → Nat
  | .b1 => 1
  | .b2 => 2
  | .b4 => 4
  | .b8 => 8
  | .b16 => 16

/-- The bytes a lane of a store writes, from DATA (R139): low register first. -/
def Group.dataOf (gr : Group) (o : Opnd) (sz : MSize) (lane : Nat) : BitVec 128 :=
  match o with
  | .v n =>
    let r (i : Nat) : Word := gr.vreg (n.toNat + i) lane
    match sz with
    | .b16 => r 3 ++ r 2 ++ r 1 ++ r 0
    | .b8 => (r 1 ++ r 0).setWidth 128
    | _ => (r 0).setWidth 128
  | o => (gr.rd o (sz == .b8) lane).setWidth 128

/-- Writes a loaded value to DATA. -/
def Group.setData (gr : Group) (o : Opnd) (sz : MSize) (lane : Nat) (x : BitVec 128) : Group :=
  match o with
  | .v n =>
    match sz with
    | .b16 => (List.range 4).foldl (fun g i => g.setV (n.toNat + i) lane (x.extractLsb' (32 * i) 32)) gr
    | .b8 => gr.wrLane n.toNat true lane (x.setWidth 64)
    | _ => gr.setV n.toNat lane (x.setWidth 32)
  | _ => gr

def Group.dataPois (gr : Group) (o : Opnd) (sz : MSize) (lane : Nat) : Bool :=
  match o, sz with
  | .v n, .b16 => (List.range 4).any fun i => gr.vpois.contains (32 * (n.toNat + i) + lane)
  | o, .b8 => gr.opPois o true lane
  | o, _ => gr.opPois o false lane

end Sys2Proof.Machine
end

