-- ==== Sys2Proof/Machine/Ops.lean ====
section
/-! DEFINITION. The shared operations: access to the units of State, counters and FIFOs, the issue and retirement of an instruction of a
group (R44, R45, R131, R134), a kernel error (R72, R381), and the classes of an address (R13, R14). -/
namespace Sys2Proof.Machine

def State.core (s : State) (c : CoreId) : Core := s.cores.get c.toNat .init
def State.setCore (s : State) (c : CoreId) (k : Core) : State := { s with cores := s.cores.put c.toNat k }
def State.clu (s : State) (c : Clu) : Cluster := s.clus.get c.toNat .init
def State.setClu (s : State) (c : Clu) (k : Cluster) : State := { s with clus := s.clus.put c.toNat k }
def State.rtr (s : State) (c : Clu) : Router := s.rtrs.get c.toNat .init
def State.setRtr (s : State) (c : Clu) (r : Router) : State := { s with rtrs := s.rtrs.put c.toNat r }
def State.home (s : State) (f : Floe) : Home := s.homes.get f.toNat .init
def State.setHome (s : State) (f : Floe) (h : Home) : State := { s with homes := s.homes.put f.toNat h }

/-- The direction of a port at reset, as AM_CTRL.DIR codes it (R263). -/
def portDir (p : Nat) : BitVec 3 :=
  if p < 5 then 0 else if p < 8 then 4 else if p < 13 then 2 else if p < 15 then 4 else if p = 15 then 6
  else if p < 21 then 1 else if p < 24 then 5 else if p < 29 then 3 else if p < 31 then 5 else 6

def State.port (s : State) (p : PortId) : Port := s.ports.get p.toNat { Port.init with dir := portDir p.toNat }
def State.setPort (s : State) (p : PortId) (x : Port) : State := { s with ports := s.ports.put p.toNat x }
/-- The module is in HOLD once either nunatak is (R429, R430). -/
def State.inHold (s : State) : Bool := s.west.hold || s.east.hold

/-- A queue; in HOLD every queue is in state HOLD, one that nothing has set up among them (R304, R430). -/
def State.queue (s : State) (q : QId) : Queue :=
  s.queues.get q.toNat (if s.inHold then { Queue.init with st := .hold, code := 0x0501 } else .init)

def State.setQueue (s : State) (q : QId) (x : Queue) : State := { s with queues := s.queues.put q.toNat x }
def State.setLaunch (s : State) (l : Nat) (x : Launch) : State := { s with launches := s.launches.put l x }
def State.setDesc (s : State) (d : DescId) (x : Desc) : State := { s with descs := s.descs.put d.toNat x }

/-- The cluster pointer of a core (R199) and the floe of a core and of a cluster (R16). -/
def cluOf (c : CoreId) : Clu := bits c 6 14
def floeOf (c : CoreId) : Floe := bits c 13 7
def floeOfClu (c : Clu) : Floe := bits c 7 7

/-- The module id from AM_MID (R262). -/
def State.mid (s : State) : ModId := s.am.mid


/-- The primary nunatak under the latched strap readings: east when the west nunatak's reading is high (R427). -/
def State.primaryEast (s : State) : Bool := s.west.latch

def State.primary (s : State) : Nunatak := if s.primaryEast then s.east else s.west

/-- NT_BOOT.STAGE is READY (R415). -/
def State.ready (s : State) : Bool := s.primary.stage == 7

/-- Physical clusters of a floe that fail self-test (R33). -/
def State.failedOf (s : State) (f : Nat) : Nat := (s.failedClu.filter fun c => c / 132 == f).length

/-- A floe with fewer than 128 passing clusters is excluded (R33, R34). -/
def State.excluded (s : State) (f : Floe) : Bool := s.mapped && 4 < s.failedOf f.toNat

def State.excludedFloes (s : State) : List Nat := (List.range 128).filter fun f => s.excluded (BitVec.ofNat 7 f)

/-- A fresh free value's number; the state counts the values taken. (DESIGN CHOICE, log entry 30; safe.) -/
def State.take (s : State) : Nat × State := (s.fresh, { s with fresh := s.fresh + 1 })

/-- A parity replay has succeeded (R370, R407). -/
def State.replayed (s : State) : State := { s with dg := { s.dg with aoReplay := satAdd s.dg.aoReplay 1 } }

/-- `n` words have been poisoned at their origin (R370, R407). -/
def State.poisoned (s : State) (n : Nat) : State :=
  if n = 0 then s else { s with dg := { s.dg with aoPoison := satAdd s.dg.aoPoison n } }

/-- Counts `k` occurrences of event `ev` of R404 in a cluster's counters that select it (R405). (DESIGN CHOICE, log entry 35; safe.) -/
def Cluster.count (c : Cluster) (ev : Nat) (k : Nat) : Cluster :=
  if c.frozen then c
  else
    { c with cnt := (List.range 8).foldl (fun t n =>
        if (c.csel.get n 0).toNat = ev && ev != 0 then t.put n (t.get n 0 + BitVec.ofNat 48 k) else t) c.cnt }

def State.count (s : State) (c : Clu) (ev : Nat) (k : Nat) : State := s.setClu c ((s.clu c).count ev k)

/-- An island whose clock runs and that has latched a time code issues (R393, R444, R445). -/
def Cluster.runs (c : Cluster) : Bool := !c.stopped && !c.gated && c.latched

/-- An island's counters under an action of R406. -/
def Cluster.trigger (c : Cluster) (act : BitVec 2) : Cluster :=
  if act == 0 then { c with frozen := true, trigSeen := c.trigSeen + 1 }
  else if act == 1 then { c with frozen := false, trigSeen := c.trigSeen + 1 }
  else { c with cnt := .empty, frozen := false, trigSeen := c.trigSeen + 1 }

/-- The island, running with a code latched, with the armed actions applied whose time that code has reached (R406). -/
def Cluster.upTo (c : Cluster) (acts : List (BitVec 64 × BitVec 2)) (code : BitVec 64) : Cluster :=
  if c.runs then ((acts.drop c.trigSeen).takeWhile fun a => decide (a.1.toNat ≤ code.toNat)).foldl (fun c a => c.trigger a.2) c else c

/-- An island as it stands at the present code. -/
def State.island (s : State) (c : Clu) : Cluster := (s.clu c).upTo s.dg.acts s.tb.code

/-- A time-stamp of an island: 64·B + min(63, ⌊c·10 ÷ 19⌋), never below an earlier one (R392). The count of island
cycles since the latch is a free value. -/
def State.stampOf (s : State) (c : Clu) : BitVec 64 × State :=
  let k := s.clu c
  let t := s.take
  let x := s.tb.code + BitVec.ofNat 64 (min 63 (Config.cycles t.1 * 10 / 19))
  let x := if x < k.stamp then k.stamp else x
  (x, t.2.setClu c { k with stamp := x })

/-- What an instruction finds at its issue. -/
structure Ctx where
  id : CoreId
  g : BitVec 4
  core : Core
  gr : Group
  lid : Nat
  la : Launch

/-- The group's next word: the image's instruction at its PC (R129, R130). -/
def Launch.wordAt (l : Launch) (pc : BitVec 48) : Option (BitVec 64) :=
  if pc.toNat < l.entry || pc.toNat % 8 != 0 then none else l.image[(pc.toNat - l.entry) / 8]?

/-- The group of a core, when a tile of a running launch has started there and the group has neither finished nor waits
at a barrier, and its island runs (R45, R53, R170, R381, R393). -/
def State.runner (s : State) (at_ : GroupAt) : Option Ctx :=
  let c := s.core at_.core
  match c.launch with
  | none => none
  | some l =>
    match s.launches.get? l, c.groups.get? at_.grp.toNat with
    | some la, some gr =>
      if c.started && !la.stopping && !gr.fin && gr.wait == .run && (s.clu (cluOf at_.core)).runs && s.pw.on && !s.inHold then
        some ⟨at_.core, at_.grp, c, gr, l, la⟩
      else none
    | _, _ => none

/-- The issue of a word: a core executes only the instruction of the checked image at the group's PC (R134). (DEDUCED, log entry 7; safe.) -/
def State.issuer (s : State) (at_ : GroupAt) (w : BitVec 64) : Option Ctx :=
  match s.runner at_ with
  | none => none
  | some x => if x.la.wordAt x.gr.pc = some w then some x else none

def Core.setGroup (c : Core) (g : BitVec 4) (gr : Group) : Core := { c with groups := c.groups.put g.toNat gr }

def State.setGroup (s : State) (x : Ctx) (gr : Group) : State := s.setCore x.id (x.core.setGroup x.g gr)

/-- The group is not ready: it keeps its place and reports a stall reason (R46). (DESIGN CHOICE, log entry 5; safe.) -/
def State.stall (s : State) (x : Ctx) (code : BitVec 4) : State := s.setGroup x { x.gr with stall := code }

/-- The vector path carries CLASS 1, 2 and 4; the other classes are scalar (R129). -/
def vectorPath (w : BitVec 64) : Bool := fieldN w 60 4 = 1 || fieldN w 60 4 = 2 || fieldN w 60 4 = 4

/-- An instruction that may stand inside a qualifying loop: CLASS 1, 2 or 5 other than SWRS (R182). -/
def qualifies (w : BitVec 64) : Bool :=
  fieldN w 60 4 = 1 || fieldN w 60 4 = 2 || (fieldN w 60 4 = 5 && fieldN w 52 8 != 0x31)

/-- The group is the one that last issued on the path of a word (R45). -/
def Core.lastOn (c : Core) (w : BitVec 64) (g : BitVec 4) : Core := if vectorPath w then { c with lastV := g } else { c with lastS := g }

/-- The instruction leaves the group: PC `pc'`, reason ISSUED, and the counts of R404 and R407; the group is the one that last issued on
its path (R45). Protection ends at an instruction outside the qualifying-loop classes (R182); LDR sets it after this. -/
def State.retire (s : State) (x : Ctx) (w : BitVec 64) (pc' : BitVec 48) (core : Core) (gr : Group) : State :=
  let gr' := { gr with pc := pc', lastPc := x.gr.pc, stall := 0, part := [], fenceMark := none,
                       prot := if qualifies w then gr.prot else none }
  let s1 := s.setCore x.id ((core.setGroup x.g gr').lastOn w x.g)
  let s2 := s1.count (cluOf x.id) (if vectorPath w then 2 else 3) 1
  { s2 with dg := { s2.dg with aoIssue := s2.dg.aoIssue + 1 } }

/-- The instruction retires at the next address. -/
def State.done (s : State) (x : Ctx) (w : BitVec 64) (core : Core) (gr : Group) : State :=
  s.retire x w (x.gr.pc + 8) core gr

/-- Every core on which a tile of the launch is resident has stopped on a kernel error (R71, R381). -/
def State.stopLaunch (s : State) (l : Nat) : State :=
  { s with cores := s.cores.mapVals fun k => if k.launch == some l then { k with run := 2 } else k }

/-- A kernel error: the core records the first error of the launch (R72) and the front end stops every core of the
launch (R381). The launch keeps the lowest such core and its code for the reply (R319). -/
def State.kernelError (s : State) (c : CoreId) (g : BitVec 4) (pc : BitVec 48) (code : Code) : State :=
  let k := s.core c
  let k1 := if k.errSeen then k else
    { k with errValid := true, errGrp := g, errCode := code, epc := pc, errSeen := true, run := 2 }
  let s1 := s.setCore c k1
  match k.launch with
  | none => s1
  | some l =>
    match s1.launches.get? l with
    | none => s1
    | some la =>
      let rec_ := !k.errSeen && (la.errCode == 0 || c < la.errCore)
      (s1.stopLaunch l).setLaunch l
        { la with stopping := true, errCore := if rec_ then c else la.errCore,
                  errCode := if rec_ then code else la.errCode,
                  anyPoison := la.anyPoison || (!k.errSeen && code == 0x0301) }

/-- A kernel error at the issuing instruction. -/
def State.kerr (s : State) (x : Ctx) (code : Code) : State := s.kernelError x.id x.g x.gr.pc code

/-- The class of a module-physical address (R13, R14). -/
inductive Place where
  | hbm (off : Nat)
  | window (off : Nat)
  | control (off : Nat)
  | remote (m : ModId) (off : Nat)
  | none
  deriving DecidableEq, Repr

def hbmTop : Nat := 0x100000000000
def windowBase : Nat := 0x100000000000
def windowTop : Nat := 0x104000000000
def controlBase : Nat := 0x1FFF00000000
def controlTop : Nat := 0x200000000000

/-- The place of an address whose module-id bits are `m` on module `self`. Bit 48 must be 0 (R147). -/
def placeOf (self : ModId) (a : BitVec 64) : Place :=
  let m : ModId := bits a 49 15
  let off := fieldN a 0 49
  if m != self then (if off < hbmTop then .remote m off else .none)
  else if off < hbmTop then .hbm off
  else if windowBase ≤ off && off < windowTop then .window (off - windowBase)
  else if controlBase ≤ off && off < controlTop then .control (off - controlBase)
  else .none

/-- The number of live channels, NCH (R281). -/
def State.nch (s : State) : Nat := s.live.length

/-- The module's HBM capacity: 8 GiB per live channel (R284). -/
def State.capacity (s : State) : Nat := s.nch * 8589934592

/-- The golden region [base, C) while it is closed (R349). -/
def State.inGolden (s : State) (off : Nat) : Bool := s.eng.goldV && s.eng.goldBase ≤ off && off < s.capacity

end Sys2Proof.Machine
end

