-- ==== Sys2Proof/Machine/Lines.lean ====
section
/-! DEFINITION. A line of HBM as its home sees it: the interleave (R281, R282), reads and writes of the stack with their poison (R279,
R280, R371, R377), the eviction and write-combining buffers (R208, R285 to R287) and the directory entry (R199, R201). -/
namespace Sys2Proof.Machine

/-- Floe and channel of entry `e` of the live-channel table. -/
def State.liveAt (s : State) (i : Nat) : Nat := s.live.getD i 0

/-- Where a line lies: its home's floe, its channel and its in-channel index (R282). -/
structure Loc where
  floe : Floe
  ch : Nat
  q : Nat
  deriving DecidableEq, Repr

def State.locOf (s : State) (line : Nat) : Loc :=
  let n := s.nch
  let q := line / n
  let r := line % n
  let h := ((q % 2048) ^^^ (q / 2048 % 2048) ^^^ (q / 4194304 % 16)) % n
  let e := s.liveAt ((r + h) % n)
  ⟨BitVec.ofNat 7 (e / 16), e % 16, q⟩

/-- The pseudo-channel of an in-channel index, PC = q[3] of its channel (R283). -/
def Loc.pc (l : Loc) : Nat := 2 * l.ch + l.q / 8 % 2

/-- Column group, bank group, bank, SID and row of an in-channel index (R275, R283). Sector `s` of the line is at column 4 × col + s. -/
def Loc.col (l : Loc) : Nat := l.q % 8
def Loc.bankGroup (l : Loc) : Nat := (l.q / 16 % 4) ^^^ (l.q / 512 % 4)
def Loc.bank (l : Loc) : Nat := (l.q / 64 % 4) ^^^ (l.q / 2048 % 4)
def Loc.sid (l : Loc) : Nat := l.q / 256 % 2
def Loc.row (l : Loc) : Nat := l.q / 512 % 131072

/-- The bank among the 64 of its channel: 2 PCs × 2 SIDs × 4 bank groups × 4 banks (R275). -/
def Loc.bankKey (l : Loc) : Nat := 32 * (l.q / 8 % 2) + 16 * l.sid + 4 * l.bankGroup + l.bank

/-- A line below the capacity of R284. -/
def State.lineOk (s : State) (line : Nat) : Bool := 128 * line + 128 ≤ s.capacity

def State.homeOfLine (s : State) (line : Nat) : Home := s.home (s.locOf line).floe

def State.chanOf (s : State) (line : Nat) : Chan :=
  (s.homeOfLine line).chans.get (s.locOf line).ch .init

/-- In STOP no read or write command is issued, and requests wait (R294, R296). -/
def State.hbmRuns (s : State) (line : Nat) : Bool := (s.homeOfLine line).tstate != 3

/-- Updates the home of a line. -/
def State.onHome (s : State) (line : Nat) (f : Home → Home) : State :=
  s.setHome (s.locOf line).floe (f (s.homeOfLine line))

/-- One line access of a pseudo-channel: it counts, with a read-write switch (R300), and its row is open in its bank from then on
(R275). (DESIGN CHOICE, log entry 65; safe.) -/
def Home.access (h : Home) (l : Loc) (write gath : Bool) : Home :=
  let c := h.chans.get l.ch .init
  let p := l.pc % 2
  let last := c.lastWr.getLsbD p
  let c1 := { c with caRun := 0, turn := if last != write then c.turn + 1 else c.turn, rows := c.rows.put l.bankKey l.row,
                     lastWr := if write then c.lastWr ||| (1#2 <<< p) else c.lastWr &&& ~~~(1#2 <<< p) }
  let c2 := if gath then { c1 with gath := c1.gath + 1 }
            else if write then { c1 with wr := c1.wr + 1 } else { c1 with rd := c1.rd + 1 }
  { h with chans := h.chans.put l.ch c2 }

/-- The row of a line is open in its bank. -/
def State.rowOpen (s : State) (line : Nat) : Bool := (s.chanOf line).rows.get? (s.locOf line).bankKey == some (s.locOf line).row

/-- The stack's bytes of a line. -/
def State.memLine (s : State) (line : Nat) : LineData := ofBytes 1024 (s.mem.readBytes (128 * line) 128)

/-- The stack's poison tags of a line; every read of a stopped channel is poisoned (R377). -/
def State.memPois (s : State) (line : Nat) : LinePoison :=
  if (s.chanOf line).stopped then BitVec.allOnes 32
  else BitVec.ofNat 32 ((List.range 32).foldl (fun a i => if s.poison.contains (32 * line + i) then a + 2 ^ i else a) 0)

/-- A line with its poison tags. -/
structure LineVal where
  data : LineData
  pois : LinePoison
  deriving DecidableEq, Repr

def Home.evFind (h : Home) (line : Nat) : Option EvEntry := h.evb.find? (·.line == line)
def Home.wcFind (h : Home) (line : Nat) : Option WcbEntry := h.wcb.find? (·.line == line)

/-- Poison of a word after a write: a write of all four bytes takes the new tag, a shorter one keeps the old too (R371). -/
def mergePois (old new : LinePoison) (mask : LineMask) : LinePoison :=
  let whole := wholeWords mask
  let some_ := anyWords mask
  (old &&& ~~~whole) ||| (new &&& some_)

/-- Masked bytes of a sector, with the poison tags of the words they touch. -/
structure SecPart where
  mask : BitVec 32
  data : BitVec 256
  pois : BitVec 8

def SecPart.zero : SecPart := ⟨0, 0, 0⟩

/-- `y` written over `x`. -/
def SecPart.over (y x : SecPart) : SecPart :=
  let b := spread 8 y.mask
  let words (m : BitVec 32) : BitVec 8 := (anyWords (m.setWidth 128)).setWidth 8
  let whole (m : BitVec 32) : BitVec 8 := (wholeWords (m.setWidth 128)).setWidth 8
  ⟨x.mask ||| y.mask, (x.data &&& ~~~b) ||| (y.data &&& b), (x.pois &&& ~~~(whole y.mask)) ||| (y.pois &&& words y.mask)⟩

/-- An answer reaches the core: it enters the list of what the group has received, under the bytes that the core held when it asked
(R62). One that nothing waits for is dropped. -/
def Core.answered (c : Core) (hit : UcOut → Bool) (r : UcRes) : Core :=
  match c.ucOut.find? hit with
  | none => c
  | some o =>
    let p := (⟨o.mask, o.data, o.pois⟩ : SecPart).over ⟨BitVec.allOnes 32, r.data, r.pois⟩
    { c with ucOut := c.ucOut.filter fun o => !(hit o), ucRes := c.ucRes ++ [{ r with data := p.data, pois := p.pois }] }

/-- Masked bytes, with the poison tags of the words they touch. -/
structure Cover where
  mask : LineMask
  data : LineData
  pois : LinePoison
  deriving DecidableEq, Repr

/-- The masked bytes laid over a line; a word of which the mask covers a part stays poisoned (R287, R371). -/
def Cover.over (c : Cover) (v : LineVal) : LineVal := ⟨mergeLine v.data c.data c.mask, mergePois v.pois c.pois c.mask⟩

def StackReq.cover (r : StackReq) : Cover := ⟨r.mask, r.data, r.pois⟩

/-- The bytes of a line in its eviction-buffer or write-combining entry (R208, R287). -/
def State.bufs (s : State) (line : Nat) : Cover :=
  match (s.homeOfLine line).evFind line with
  | some e => ⟨BitVec.allOnes 128, e.data, e.pois⟩
  | none =>
    match (s.homeOfLine line).wcFind line with
    | some e => ⟨e.mask, e.data, e.pois⟩
    | none => ⟨0, 0, 0⟩

/-- The writes of a line that wait, in the order the controller accepted them (R289). -/
def Home.waitingWrites (h : Home) (line : Nat) : List StackReq := h.wq.filter (·.line == line)

def State.queued (s : State) (line : Nat) (v : LineVal) : LineVal :=
  ((s.homeOfLine line).waitingWrites line).foldl (fun v e => e.cover.over v) v

/-- The home's view of a line: the buffers over the waiting writes over the stack (R208, R287, R289). -/
def State.view (s : State) (line : Nat) : LineVal := (s.bufs line).over (s.queued line ⟨s.memLine line, s.memPois line⟩)

/-! ### What a pseudo-channel may serve -/

/-- The refresh interval in ns: 3.9 µs below 85 °C, 1.95 µs above (R293). -/
def Home.refreshNs (h : Home) : Nat := if h.tstate = 0 then 3900 else 1950

/-- A REFab of a pseudo-channel is due (R293). -/
def State.refreshDue (s : State) (f : Floe) (pc : Nat) : Bool :=
  decide (((s.home f).refs.get pc 0).toNat + (s.home f).refreshNs ≤ s.tb.now.toNat)

/-- A request that waits in a pseudo-channel: its line, its age, and since when a gather has waited. -/
structure Waiter where
  line : Nat
  serial : Nat
  gath : Option (BitVec 64)

def StackReq.waiter (r : StackReq) : Waiter := ⟨r.line, r.serial, none⟩
def GatherReq.waiter (r : GatherReq) : Waiter := ⟨r.sector / 4, r.serial, some r.since⟩

/-- The reads and gathers that wait in the pseudo-channel of a line. -/
def State.waiters (s : State) (line : Nat) : List Waiter :=
  let h := s.homeOfLine line
  (h.rq.map (·.waiter) ++ h.gq.map (·.waiter)).filter fun w => (s.locOf w.line).pc == (s.locOf line).pc

/-- A gather that has waited 256 ns (R288). -/
def State.overdue (s : State) (w : Waiter) : Bool :=
  match w.gath with
  | some t => decide (t.toNat + 256 ≤ s.tb.now.toNat)
  | none => false

/-- A younger request may be taken before an older one: its row is open, and the older one is for another bank, or both are gathers and
the older one's row is closed (R288, R290). No gather passes one that has waited 256 ns. -/
def State.passes (s : State) (young old : Waiter) : Bool :=
  s.rowOpen young.line && !(young.gath.isSome && s.overdue old) &&
    ((s.locOf young.line).bankKey != (s.locOf old.line).bankKey ||
      (young.gath.isSome && old.gath.isSome && !s.rowOpen old.line))

/-- The request has its turn among the reads and gathers of its pseudo-channel: the controller issues commands, no refresh is due, and it
passes every older one; a gather whose row is closed leaves a younger one whose row is open the turn (R288, R290, R293, R294). -/
def State.hasTurn (s : State) (w : Waiter) : Bool :=
  let l := s.locOf w.line
  s.hbmRuns w.line && !s.refreshDue l.floe l.pc &&
    (s.waiters w.line).all fun o =>
      if o.serial < w.serial then s.passes w o
      else !(w.gath.isSome && o.gath.isSome && !s.rowOpen w.line && s.rowOpen o.line && !s.overdue w)

/-- The request may be taken now: it has its turn, and every older write of its line has reached the stack (R289). -/
def State.mayServe (s : State) (w : Waiter) : Bool :=
  s.hasTurn w && !((s.homeOfLine w.line).wq.any fun e => e.line == w.line && decide (e.serial < w.serial))

/-! ### The check of a stack read -/

/-- The parity word of a line's data: bit `i` makes word `i` and the bit hold an even number of ones (R279). The stack's parity word is
this one with the bits inverted that `State.poison` lists (R371). -/
def parityOf (d : LineData) : LinePoison :=
  BitVec.ofNat 32 ((List.range 32).foldl (fun a i => a + if popcount (d.extractLsb' (32 * i) 32) % 2 = 1 then 2 ^ i else 0) 0)

def State.parityWord (s : State) (line : Nat) : LinePoison := parityOf (s.memLine line) ^^^ s.memPois line

def readSev (r : ReadReport) (b : Nat) : BitVec 2 :=
  match b with
  | 0 => r.sev0
  | 1 => r.sev1
  | 2 => r.sev2
  | _ => r.sev3

/-- Data words that fail: those whose parity fails and those of a burst with an uncorrected error (R279, R280). -/
def readFailing (r : ReadReport) : LinePoison :=
  (List.range 4).foldl (fun m b => if readSev r b = 2 then m ||| (0xFF#32 <<< (8 * b)) else m) r.par

/-- Bursts with severity "corrected". -/
def readCorrected (r : ReadReport) : Nat := ((List.range 4).filter fun b => readSev r b == 1).length

/-- A burst that carries a word of the directory entry fails: bursts 1 to 3 (R279). -/
def readEntryFails (r : ReadReport) : Bool := (List.range 3).any fun b => readSev r (b + 1) == 2

def cleanRead : ReadReport := ⟨0, 0, 0, 0, 0⟩

/-- What the next stack read of the line reports: what a HBM_READ that no request waited for has left, otherwise a clean read.
(DESIGN CHOICE, log entry 29; unsafe.) -/
def State.report (s : State) (line : Nat) : StackReport :=
  ((s.homeOfLine line).reps.find? (·.line == line)).getD ⟨line, cleanRead, cleanRead⟩

/-- What a stack read delivers: the bytes, the tags, and whether a word of the directory entry is lost. -/
structure StackRead where
  v : LineVal
  entryBad : Bool

/-- Words poisoned at their origin: those that fail both reads, other than those stored poisoned (R370, R407). -/
def newPoison (r : ReadReport) (stored : LinePoison) : Nat := popcount (readFailing r &&& ~~~stored)

/-- A stack read of a line, with the reports of its first and second read (R276, R279, R280). The words that fail are those reported and
those stored with inverted parity, which fail both times (R371). The second read is one more line read, and no second gather (R300); a clean one
is a replay that succeeds (R370, R407). A stopped channel delivers every word poisoned (R377). -/
def State.stackRead (s : State) (line : Nat) (gath : Bool) (r : StackReport) : StackRead × State :=
  let l := s.locOf line
  let d := s.memLine line
  let stored := s.memPois line
  let take (gath : Bool) (h : Home) (r : ReadReport) : Home :=
    let h1 := h.access l false gath
    { h1 with odecc := h1.odecc + BitVec.ofNat 64 (readCorrected r) }
  if (s.chanOf line).stopped then
    (⟨⟨d, BitVec.allOnes 32⟩, true⟩, s.onHome line fun h => h.access l false gath)
  else
    let s1 := s.onHome line fun h => { take gath h r.first with reps := h.reps.filter (·.line != line) }
    if readFailing r.first ||| stored = 0 then (⟨⟨d, 0⟩, false⟩, s1)
    else
      let bad := readFailing r.second ||| stored
      let s2 := (if bad = 0 then s1.replayed else s1.poisoned (newPoison r.second stored)).onHome line fun h =>
        let h1 := take false h r.second
        if bad = 0 then { h1 with reread := satAdd h1.reread 1 } else { h1 with parerr := satAdd h1.parerr 1 }
      (⟨⟨d, bad⟩, readEntryFails r.second⟩, s2)

/-! ### Writes to the stack -/

/-- The poison list with the words of a line that `words` names set to `p`. -/
def setPoison (l : List Nat) (line : Nat) (words p : LinePoison) : List Nat :=
  (List.range 32).foldl (fun a i =>
    if words.getLsbD i then
      (if p.getLsbD i then insertNat a (32 * line + i) else a.filter (· != 32 * line + i))
    else a) l

/-- The words of an entry with the parity of the last one wrong. -/
def DirWords.spoilt (w : DirWords) : DirWords := if popcount w.w2 % 2 = 1 then w else { w with w2 := w.w2 ^^^ 1 }

/-- The write reaches the stack: the masked bytes with their tags, and the directory entry it carries. A read-merge-write reads the line
first: a word of it that fails and that the mask does not cover is written back poisoned, and a word of the directory entry that fails keeps
failing (R279, R286). A write to a stopped channel is discarded and counted (R377). -/
def State.writeMem (s : State) (e : StackReq) : State :=
  if (s.chanOf e.line).stopped then
    s.onHome e.line fun h =>
      let c := h.chans.get (s.locOf e.line).ch .init
      { h with chans := h.chans.put (s.locOf e.line).ch { c with disc := satAdd c.disc 1 } }
  else
    let r := if e.merge then s.stackRead e.line false (s.report e.line) else (⟨⟨s.memLine e.line, s.memPois e.line⟩, false⟩, s)
    let words := if e.merge then BitVec.allOnes 32 else anyWords e.mask
    let mem := (setBits e.mask).foldl (fun m i => m.write (128 * e.line + i) (e.data.extractLsb' (8 * i) 8)) r.2.mem
    let s1 := { r.2 with mem := mem, poison := setPoison r.2.poison e.line words (mergePois r.1.v.pois e.pois e.mask) }
    s1.onHome e.line fun h =>
      let h1 := h.access (s.locOf e.line) true false
      match e.dir with
      | some w => { h1 with dir := h1.dir.put e.line w }
      | none => if r.1.entryBad then { h1 with dir := h1.dir.put e.line (h1.dir.get e.line .init).spoilt } else h1

/-- A read or gather of the line that the controller accepted earlier still waits (R289). -/
def Home.readAhead (h : Home) (line serial : Nat) : Bool :=
  (h.rq.any fun r => r.line == line && decide (r.serial < serial)) ||
    h.gq.any fun r => r.sector / 4 == line && decide (r.serial < serial)

/-- The writes that wait in the pseudo-channel of a line, oldest first. -/
def State.pcWrites (s : State) (line : Nat) : List StackReq :=
  (s.homeOfLine line).wq.filter fun e => (s.locOf e.line).pc == (s.locOf line).pc

/-- The pseudo-channel turns to writes: at least 8 line writes wait, or one has waited 1 µs (R290). -/
def State.writesDue (s : State) (line : Nat) : Bool :=
  decide (8 ≤ (s.pcWrites line).length) || (s.pcWrites line).any fun e => decide (e.since.toNat + 1000 ≤ s.tb.now.toNat)

/-- The pseudo-channel of a line serves writes until none wait, once they are due (R290); a write whose line has an older read in the queues
stays behind it (R289). A refresh that is due comes first (R290), and in STOP none is issued (R294). -/
def State.pumpWrites (s : State) (line : Nat) : State :=
  if !s.hbmRuns line || !s.writesDue line || s.refreshDue (s.locOf line).floe (s.locOf line).pc then s
  else
    (s.pcWrites line).foldl (fun s e =>
      if (s.homeOfLine e.line).readAhead e.line e.serial then s
      else (s.onHome e.line fun h => { h with wq := h.wq.erase e }).writeMem e) s

/-- The writes of a pseudo-channel go before a read whose line has one of them waiting (R289, R290). -/
def State.flushWrites (s : State) (line : Nat) : State :=
  if ((s.homeOfLine line).waitingWrites line).isEmpty then s
  else (s.pcWrites line).foldl (fun s e => (s.onHome e.line fun h => { h with wq := h.wq.erase e }).writeMem e) s

/-- A read that the front end, the host or firmware makes of a line at rest, as a whole step: an eviction-buffer entry serves it, otherwise
the stack does, with what a read of the directory entry has brought already (R198), under the write-combining entry (R208, R280, R287). -/
def State.readLine (s : State) (line : Nat) (got : Option LineVal) : LineVal × State :=
  match (s.homeOfLine line).evFind line with
  | some e => (⟨e.data, e.pois⟩, s)
  | none =>
    match got with
    | some v => ((s.bufs line).over v, s)
    | none =>
      let s0 := s.flushWrites line
      let r := s0.stackRead line false (s0.report line)
      ((s0.bufs line).over r.1.v, r.2)

/-- A line write enters its pseudo-channel's queue (R290). -/
def State.putWrite (s : State) (line : Nat) (c : Cover) (merge : Bool) (dir : Option DirWords) : State :=
  (s.onHome line fun h =>
    { h with wq := h.wq ++ [{ line := line, serial := h.stackSerial, since := s.tb.now, mask := c.mask, data := c.data, pois := c.pois,
                              merge := merge, dir := dir, entry := false }],
             stackSerial := h.stackSerial + 1 }).pumpWrites line

/-- A write-combining entry leaves: whole lines are written without a read, a partial one by a read-merge-write (R285, R286). -/
def State.wcbOut (s : State) (e : WcbEntry) : State :=
  (s.onHome e.line fun h => { h with wcb := h.wcb.filter (·.line != e.line) }).putWrite e.line ⟨e.mask, e.data, e.pois⟩
    (e.mask != BitVec.allOnes 128) none

/-- Clears reservations that a write to the sectors of a line touches: those of every agent but the writer (R180), and at the home also the
writer's own of kind .uc, which every write transaction clears (R214). -/
def State.wrote (s : State) (line : Nat) (secs : BitVec 4) (by_ : Option (CoreId × BitVec 4)) (home : Bool) : State :=
  let hit (sector : Nat) : Bool := sector / 4 == line && secs.getLsbD (sector % 4)
  let core (p : Nat × Core) : Nat × Core :=
    (p.1, { p.2 with groups := ⟨p.2.groups.entries.map fun q =>
      (q.1, if by_ == some (BitVec.ofNat 20 p.1, BitVec.ofNat 4 q.1) then q.2
        else { q.2 with resv := ⟨q.2.resv.entries.filter fun r => !(hit r.2.sector)⟩ })⟩ })
  { s with cores := ⟨s.cores.entries.map core⟩,
           ucResv := s.ucResv.filter fun r => !(hit r.2.2.2 && (home || by_ != some (r.1, r.2.1))) }

/-- A UCW performed at the home: the bytes merge into the line's eviction-buffer entry, or into its write-combining
entry, which is written whole once its mask is full; the 65th entry of a channel makes the least recently written one
leave (R208, R285, R286). -/
def State.ucwAt (s : State) (line : Nat) (mask : LineMask) (v : LineVal) : State :=
  let old := s.view line
  let pois := mergePois old.pois v.pois mask
  match (s.homeOfLine line).evFind line with
  | some e =>
    s.onHome line fun h => { h with evb := h.evb.map fun x =>
      if x.line = line then
        { e with data := mergeLine e.data v.data mask, pois := pois, dirty := e.dirty ||| anySectors mask }
      else x }
  | none =>
    let prev := (s.homeOfLine line).wcFind line
    let e0 : WcbEntry := prev.getD { WcbEntry.init with line := line }
    let e : WcbEntry := { line := line, mask := e0.mask ||| mask, data := mergeLine e0.data v.data mask,
                          pois := (e0.pois &&& ~~~(anyWords mask)) ||| (pois &&& anyWords mask), last := s.tb.now }
    let s1 := s.onHome line fun h => { h with wcb := h.wcb.filter (·.line != line) }
    if e.mask = BitVec.allOnes 128 then s1.putWrite line ⟨e.mask, e.data, e.pois⟩ false none
    else
      let mates := (s1.homeOfLine line).wcb.filter fun x => (s.locOf x.line).ch == (s.locOf line).ch
      let s2 := match mates.head? with
        | some x => if 64 ≤ mates.length then s1.wcbOut x else s1
        | none => s1
      s2.onHome line fun h => { h with wcb := h.wcb ++ [e] }

/-- An eviction-buffer entry drains to HBM, writing its dirty sectors only (R208). -/
def State.evDrain (s : State) (e : EvEntry) : State :=
  let s1 := s.onHome e.line fun h => { h with evb := h.evb.filter (·.line != e.line) }
  if e.dirty = 0 then s1 else s1.putWrite e.line ⟨sectorMask e.dirty, e.data, e.pois⟩ false none

/-- A line enters the eviction buffer, in place of an entry it already has (R208). -/
def Home.evPut (h : Home) (line : Nat) (v : LineVal) (dirty : BitVec 4) : Home :=
  match h.evFind line with
  | some e => { h with evb := h.evb.map fun x =>
      if x.line = line then { x with data := v.data, pois := v.pois, dirty := e.dirty ||| dirty } else x }
  | none => { h with evb := h.evb ++ [{ line := line, data := v.data, dirty := dirty, pois := v.pois }] }

/-- Dirty data enters the eviction buffer, whose oldest entry drains first when all 256 are in use (R208). (DEDUCED, log entry 18; unsafe.) -/
def State.evIn (s : State) (line : Nat) (v : LineVal) (dirty : BitVec 4) : State :=
  let h := s.homeOfLine line
  let s1 := if (h.evFind line).isNone && 256 ≤ h.evb.length then
      match h.evb.head? with
      | some e => s.evDrain e
      | none => s
    else s
  s1.onHome line fun h => h.evPut line v dirty

/-! ### The directory -/

def dstCode : Dst → Nat
  | .unc => 0
  | .shr => 1
  | .shc => 2
  | .own => 3
  | .ows => 4
  | .owc => 5

def odd {n : Nat} (x : BitVec n) : Bool := popcount x % 2 == 1

/-- The three words of an entry with their parity bits (R199). -/
def DirEntry.words (e : DirEntry) : DirWords :=
  let w0 : Word := place 32 29 (BitVec.ofNat 3 (dstCode e.dst)) ||| place 32 15 e.p0 ||| place 32 1 e.p1
  let w1 : Word := place 32 18 e.p2 ||| place 32 16 e.nsh ||| place 32 0 e.coarse
  let w2 : Word := place 32 16 e.gen ||| flagAt 32 2 (odd w0) ||| flagAt 32 1 (odd w1)
  ⟨w0, w1, w2 ||| flagAt 32 0 (odd w2)⟩

/-- The entry that three words hold; `bad` when the parity of one fails or DST is reserved (R199). -/
def DirWords.entry (w : DirWords) : DirEntry :=
  let d := fieldN w.w0 29 3
  let dst : Dst := match d with
    | 1 => .shr
    | 2 => .shc
    | 3 => .own
    | 4 => .ows
    | 5 => .owc
    | _ => .unc
  { dst := dst, p0 := bits w.w0 15 14, p1 := bits w.w0 1 14, p2 := bits w.w1 18 14, nsh := bits w.w1 16 2, coarse := bits w.w1 0 16,
    gen := bits w.w2 16 16,
    bad := odd w.w0 != bitAt w.w2 2 || odd w.w1 != bitAt w.w2 1 || odd w.w2 || decide (6 ≤ d) }

def Home.cached (h : Home) (line : Nat) : Option DirEntry := (h.dcache.find? (·.line == line)).map (·.e)

/-- A line's entry enters the directory cache of 65,536 entries, in place of the one that entered first when all are in use (R198).
(DESIGN CHOICE, log entry 66; safe.) -/
def Home.cacheDir (h : Home) (line : Nat) (e : DirEntry) : Home :=
  let l := h.dcache.filter (·.line != line) ++ [{ line := line, e := e }]
  { h with dcache := l.drop (l.length - 65536) }

/-- The entry that the stack holds or will hold once the waiting writes have reached it. A stopped channel delivers it unreadable
(R377). -/
def State.storedDir (s : State) (line : Nat) : DirEntry :=
  let h := s.homeOfLine line
  let w := ((h.waitingWrites line).filterMap (·.dir)).getLast?.getD (h.dir.get line .init)
  let e := w.entry
  if (s.chanOf line).stopped then { e with bad := true } else e

/-- The directory entry of a line, from the directory cache or the stack (R198); an entry of an older generation reads as UNC (R201). -/
def State.dirOf (s : State) (line : Nat) : DirEntry :=
  let h := s.homeOfLine line
  let e := (h.cached line).getD (s.storedDir line)
  if e.bad then e else if e.gen = h.gen then e else { DirEntry.init with gen := h.gen }

/-- What a read of a line's entry from the stack brings to the directory cache (R198, R199). -/
def State.entryRead (s : State) (line : Nat) (lost : Bool) : State :=
  let e := s.storedDir line
  s.onHome line (·.cacheDir line { e with bad := e.bad || lost })

/-- The directory entry for an access taken as a whole step: from the cache, or read from the stack together with the line (R198, R280). -/
def State.fetchDir (s : State) (line : Nat) : Option LineVal × State :=
  if ((s.homeOfLine line).cached line).isSome then (none, s)
  else
    let s0 := s.flushWrites line
    let r := s0.stackRead line false (s0.report line)
    (some r.1.v, r.2.entryRead line r.1.entryBad)

/-- Writes the directory entry with the current generation: into the directory cache and, when it changes, to the stack, which the
line's write-combining entry reaches first (R279, R286). -/
def State.setDir (s : State) (line : Nat) (e : DirEntry) : State :=
  let e' := { e with gen := (s.homeOfLine line).gen, bad := false }
  if s.dirOf line = e' then s.onHome line (·.cacheDir line e')
  else
    let s1 := match (s.homeOfLine line).wcFind line with
      | some w => s.wcbOut w
      | none => s
    (s1.onHome line (·.cacheDir line e')).putWrite line ⟨0, 0, 0⟩ false (some e'.words)

/-- The floe column of a cluster (R29). -/
def colOf (c : Clu) : Nat := (floeOfClu c).toNat / 8

def colBit (c : Clu) : BitVec 16 := (1#16) <<< colOf c

def dirUnc : DirEntry := .init

def dirOwn (c : Clu) : DirEntry := { DirEntry.init with dst := .own, p0 := c }

/-- The precise sharers of an entry. -/
def DirEntry.sharers (e : DirEntry) : List Clu :=
  match e.dst with
  | .shr => ([e.p0, e.p1, e.p2]).take e.nsh.toNat
  | .ows => ([e.p1, e.p2]).take e.nsh.toNat
  | _ => []

/-- The owner of an entry. -/
def DirEntry.owner (e : DirEntry) : Option Clu :=
  match e.dst with
  | .own => some e.p0
  | .ows => some e.p0
  | .owc => some e.p0
  | _ => none

/-- SHR of the sharers, or SHC when there are more than three (R200). -/
def dirShared (l : List Clu) : DirEntry :=
  if l.length ≤ 3 then
    { DirEntry.init with dst := .shr, p0 := l.getD 0 0, p1 := l.getD 1 0, p2 := l.getD 2 0,
                         nsh := BitVec.ofNat 2 l.length }
  else { DirEntry.init with dst := .shc, coarse := l.foldl (fun m c => m ||| colBit c) 0 }

/-- OWS of the owner and sharers, OWC when there are more than two, OWN when there are none. -/
def dirOwnShared (o : Clu) (l : List Clu) : DirEntry :=
  if l.isEmpty then dirOwn o
  else if l.length ≤ 2 then
    { DirEntry.init with dst := .ows, p0 := o, p1 := l.getD 0 0, p2 := l.getD 1 0, nsh := BitVec.ofNat 2 l.length }
  else { DirEntry.init with dst := .owc, p0 := o, coarse := l.foldl (fun m c => m ||| colBit c) 0 }

/-- Adds a sharer (R200, R212). -/
def DirEntry.addSharer (e : DirEntry) (c : Clu) : DirEntry :=
  match e.dst with
  | .shr => if e.sharers.contains c then e else dirShared (e.sharers ++ [c])
  | .ows => if e.sharers.contains c then e else dirOwnShared e.p0 (e.sharers ++ [c])
  | .shc => { e with coarse := e.coarse ||| colBit c }
  | .owc => { e with coarse := e.coarse ||| colBit c }
  | _ => dirShared [c]

/-- The entry once its owner no longer owns the line and holds nothing (R208). -/
def DirEntry.dropOwner (e : DirEntry) : DirEntry :=
  match e.dst with
  | .own => dirUnc
  | .ows => dirShared e.sharers
  | .owc => { DirEntry.init with dst := .shc, coarse := e.coarse }
  | _ => e

/-- The entry once its owner keeps an S copy (R212: RCL_S). -/
def DirEntry.ownerToSharer (e : DirEntry) : DirEntry :=
  match e.dst with
  | .own => dirShared [e.p0]
  | .ows => dirShared (e.p0 :: e.sharers)
  | .owc => { DirEntry.init with dst := .shc, coarse := e.coarse ||| colBit e.p0 }
  | _ => e

end Sys2Proof.Machine
end

