-- ==== Sys2Proof/Machine/Desc.lean ====
section
/-! DEFINITION. Reduction descriptors: their fields (R230), members (R231, R232), readers (R244), and what each router holds of them (R471). -/
namespace Sys2Proof.Machine

/-- Field `[lo+n-1:lo]` of word `w` of the 64 B descriptor (R230). -/
def Desc.at_ (d : Desc) (w lo n : Nat) : Nat := fieldN (wordAt d.words w) lo n

def Desc.kind (d : Desc) : Nat := d.at_ 0 28 4
def Desc.op (d : Desc) : Nat := d.at_ 0 24 4
def Desc.ao (d : Desc) : Bool := d.at_ 0 23 1 == 1
def Desc.infmt (d : Desc) : Nat := d.at_ 0 20 3
def Desc.outfmt (d : Desc) : Nat := d.at_ 0 17 3
def Desc.deliv (d : Desc) : Nat := d.at_ 0 15 2
def Desc.watch (d : Desc) : Bool := d.at_ 0 14 1 == 1
def Desc.bkchk (d : Desc) : Bool := d.at_ 0 13 1 == 1
def Desc.rootx (d : Desc) : Nat := d.at_ 0 10 3
def Desc.rows (d : Desc) : Nat := d.at_ 1 16 16
def Desc.cols (d : Desc) : Nat := d.at_ 1 5 11
def Desc.layer (d : Desc) : Nat := d.at_ 2 24 8
def Desc.role (d : Desc) : Nat := d.at_ 2 20 4
def Desc.fslot (d : Desc) : Nat := d.at_ 2 16 4
def Desc.comp (d : Desc) : DescId := bits (wordAt d.words 2) 0 16
def Desc.eps (d : Desc) : Word := wordAt d.words 3
def Desc.inv (d : Desc) : Word := wordAt d.words 4
def Desc.list (d : Desc) : Nat := d.at_ 5 0 32 + 2 ^ 32 * d.at_ 6 0 16
def Desc.nent (d : Desc) : Nat := d.at_ 7 0 24
def Desc.rootCore (d : Desc) : CoreId := bits (wordAt d.words 8) 0 20
def Desc.rootMod (d : Desc) : ModId := bits (wordAt d.words 9) 0 15
def Desc.blkBase (d : Desc) : Nat := d.at_ 10 16 16

def Desc.isShard (d : Desc) : Bool := d.kind == 1
def Desc.isBarrier (d : Desc) : Bool := d.kind == 2

/-- Bytes of an element of INFMT (R227). -/
def inSize (f : Nat) : Nat := if f = 1 then 2 else if 3 ≤ f then 8 else 4

/-- Bytes of a contribution. -/
def Desc.inBytes (d : Desc) : Nat := if d.isBarrier then 0 else d.rows * d.cols * inSize d.infmt

/-- Bytes of a result element. -/
def outSize (f : Nat) : Nat := if f = 1 then 2 else if f = 3 then 8 else if f = 4 then 1 else 4

/-- Bytes of one K block, 32 rows, of a result: in the B-tile layout with its scale sector for MXINT8 (R76, R243). -/
def Desc.blockBytes (d : Desc) : Nat := (if d.outfmt = 4 then 32 else 0) + 32 * d.cols * outSize d.outfmt

/-- Bytes of a result. -/
def Desc.outBytes (d : Desc) : Nat :=
  if d.isBarrier then 0
  else if d.outfmt = 4 then d.rows / 32 * d.blockBytes
  else d.rows * d.cols * outSize d.outfmt

/-- A contributor: its core and module, and its backup worker. -/
structure Member where
  core : CoreId
  mod_ : ModId
  bk : Option (CoreId × ModId)
  deriving DecidableEq, Repr

/-- Inserts a shard in ascending KBLK0 and then ascending core id (R232). -/
def insertShard (x : Shard) : List Shard → List Shard
  | [] => [x]
  | y :: t => if x.kblk0 < y.kblk0 || (x.kblk0 == y.kblk0 && x.core < y.core) then x :: y :: t else y :: insertShard x t

/-- A shard holds an instance of (layer, role) (R104). -/
def Shard.holds (x : Shard) (layer role : Nat) : Bool :=
  x.role == role && (if x.layer0 = 0xFF then layer == 0xFF else x.layer0 ≤ layer && layer < x.layer0 + x.nlayer)

/-- The layer that names the members: the descriptor's, or for 0xFE that of the node in use (R230). -/
def Desc.useLayer (d : Desc) (layer : Nat) : Nat := if d.layer = 0xFE then layer else d.layer

/-- The shards that are members of a SHARD descriptor in a row group, in contributor order. -/
def State.shardsOf (s : State) (d : Desc) (rowg : BitVec 16) (layer : Nat) : List Shard :=
  (s.eng.shards.filter fun x => x.rowg == rowg && x.holds (d.useLayer layer) d.role).foldl (fun l x => insertShard x l) []

/-- The contributors of a reduction in contributor order (R231, R232). -/
def State.members (s : State) (d : Desc) (rowg : BitVec 16) (layer : Nat) : List Member :=
  if d.isShard then (s.shardsOf d rowg layer).map fun x => ⟨x.core, s.mid, none⟩
  else (d.entries.filter (·.c)).map fun e => ⟨e.core, e.mod_, if e.b then some (e.bcore, e.bmod) else none⟩

/-- The row groups of a descriptor: those of a SHARD descriptor's members at any layer it may name, else 0. -/
def State.rowgs (s : State) (d : Desc) : List (BitVec 16) :=
  if d.isShard then
    (s.eng.shards.filter fun x => x.role == d.role && (d.layer == 0xFE || x.holds d.layer d.role)).foldl
      (fun l x => if l.contains x.rowg then l else l ++ [x.rowg]) []
  else [0]

/-- The row group in which a core contributes. -/
def State.rowgOf (s : State) (d : Desc) (c : CoreId) (layer : Nat) : Option (BitVec 16) :=
  if d.isShard then
    (s.eng.shards.find? fun x => x.core == c && x.holds (d.useLayer layer) d.role).map (·.rowg)
  else some 0

/-- A core of this module as contributor: its index, and whether it is the backup worker (R234). -/
def contributor (ms : List Member) (c : CoreId) (self : ModId) : Option (Nat × Bool) :=
  match (List.range ms.length).find? fun i => (ms[i]?.map fun m => m.core == c && m.mod_ == self).getD false with
  | some i => some (i, false)
  | none =>
    ((List.range ms.length).find? fun i => (ms[i]?.map fun m => m.bk == some (c, self)).getD false).map fun i => (i, true)

/-- The K block of a row group's first 32 rows (R243). -/
def Desc.blk0 (d : Desc) (rowg : BitVec 16) : Nat := if d.isShard then rowg.toNat * d.rows / 32 else d.blkBase

/-- K blocks that a row group produces. -/
def Desc.nblk (d : Desc) : Nat := (d.rows + 31) / 32

/-- A core's forward window in a slot (R249). -/
def State.fwinOf (s : State) (slot : Nat) (c : CoreId) : Option Fwin :=
  match (s.rtr (cluOf c)).fwin.get? (64 * slot + c.toNat % 64) with
  | some w => if w.v then some w else none
  | none => none

/-- A window covers a K block of a row group. -/
def Fwin.covers (w : Fwin) (d : Desc) (rowg : BitVec 16) : Bool :=
  decide (w.kblk0.toNat < d.blk0 rowg + d.nblk) && decide (d.blk0 rowg < w.kblk0.toNat + w.nblk.toNat)

/-- The windows of a slot: core and window. -/
def State.windows (s : State) (slot : Nat) : List (CoreId × Fwin) :=
  (s.rtrs.entries.map fun p => (p.2.fwin.entries.filter fun q => q.1 / 64 == slot && q.2.v).map fun q =>
    ((BitVec.ofNat 20 (64 * p.1 + q.1 % 64)), q.2)).flatten

/-- The cores of this module that read a row group's result: under FWD every core with a valid window (R244); for a BARRIER, the cores that
contribute (R246). -/
def State.readers (s : State) (d : Desc) (rowg : BitVec 16) (layer : Nat) : List CoreId :=
  if d.isBarrier then
    ((s.members d rowg layer).map fun m =>
      (if m.mod_ == s.mid then [m.core] else []) ++
        (match m.bk with
          | some (c, b) => if b == s.mid then [c] else []
          | none => [])).flatten
  else if d.deliv = 1 then (s.windows d.fslot).map (·.1)
  else if d.deliv = 2 then []
  else if d.isShard then (s.members d rowg layer).map (·.core)
  else (d.entries.filter fun e => e.r && e.mod_ == s.mid).map (·.core)

def dedupClu (l : List Clu) : List Clu := l.foldl (fun m c => if m.contains c then m else m ++ [c]) []

/-- The routers that take the result. -/
def State.readerClus (s : State) (d : Desc) (rowg : BitVec 16) (layer : Nat) : List Clu :=
  dedupClu ((s.readers d rowg layer).map cluOf)

/-- The root's router (R230, R232). -/
def State.rootClu (s : State) (d : Desc) (rowg : BitVec 16) (layer : Nat) : Clu :=
  if d.isShard then ((s.members d rowg layer).head?.map fun m => cluOf m.core).getD 0 else cluOf d.rootCore

/-- Other modules that the list names (R268). -/
def State.otherMods (s : State) (d : Desc) : List ModId :=
  if d.isShard then []
  else
    let all := d.rootMod :: (d.entries.map fun e => e.mod_ :: (if e.b then [e.bmod] else [])).flatten
    all.foldl (fun l m => if m == s.mid || l.contains m then l else l ++ [m]) []

/-- The routers of this module at which a descriptor's row group takes a table entry (R471): contributors, backups,
readers, and the root, where the module's combines are placed. -/
def State.routersOf (s : State) (d : Desc) (rowg : BitVec 16) (layer : Nat) : List Clu :=
  let ms := s.members d rowg layer
  let here := (ms.map fun m => (if m.mod_ == s.mid then [cluOf m.core] else []) ++
    (match m.bk with
      | some (c, b) => if b == s.mid then [cluOf c] else []
      | none => [])).flatten
  dedupClu ((if d.isShard || d.rootMod == s.mid then [s.rootClu d rowg layer] else []) ++ here ++ s.readerClus d rowg layer)

/-- Layers that a SHARD descriptor of LAYER 0xFE may be used under: every layer some shard of its role has. -/
def State.layersOf (s : State) (d : Desc) : List Nat :=
  if d.isShard && d.layer == 0xFE then
    (s.eng.shards.filter (·.role == d.role)).foldl (fun l x =>
      (List.range x.nlayer).foldl (fun l i =>
        let y := if x.layer0 = 0xFF then 0xFF else x.layer0 + i
        if l.contains y then l else l ++ [y]) l) []
  else [d.layer]

/-- The routers of a row group over every layer it may be used under. -/
def State.allRouters (s : State) (d : Desc) (rowg : BitVec 16) : List Clu :=
  dedupClu ((s.layersOf d).map fun l => s.routersOf d rowg l).flatten

/-- Result memory, in 32 B units, that a row group reserves at a router for two rounds (R471). -/
def State.resultUnits (s : State) (d : Desc) (rowg : BitVec 16) (c : Clu) : Nat :=
  if d.isBarrier || d.deliv = 2 then 0
  else if d.deliv = 1 then
    let ws := (s.windows d.fslot).filter fun p => cluOf p.1 == c
    let n := ((List.range d.nblk).filter fun k => ws.any fun p =>
      decide (p.2.kblk0.toNat ≤ d.blk0 rowg + k) && decide (d.blk0 rowg + k < p.2.kblk0.toNat + p.2.nblk.toNat)).length
    2 * ceilDiv (n * d.blockBytes) 32
  else if (s.layersOf d).any fun l => (s.readerClus d rowg l).contains c then 2 * ceilDiv d.outBytes 32
  else 0

/-- Descriptor entries, result memory and staging in use at a router (R249). -/
def State.dtab (s : State) (c : Clu) : Nat :=
  (s.descs.vals.map fun d => ((s.rowgs d).filter fun g => (s.allRouters d g).contains c).length).sum

def State.resultMem (s : State) (c : Clu) : Nat :=
  (s.descs.vals.map fun d => ((s.rowgs d).map fun g => s.resultUnits d g c).sum).sum

/-! ### Where a round is combined (R238 to R241, R269) -/

/-- Values of level `l` of a tree over `n` contributions (R238). -/
def levelWidth (n l : Nat) : Nat := ceilDiv n (2 ^ l)

/-- The level whose single value is the result. -/
def topLevel (n : Nat) : Nat := ((List.range 32).find? fun l => levelWidth n l ≤ 1).getD 0

/-- A combine position's number: levels from the leaves up, positions in ascending order, modulo 256 (R254). -/
def nodeNumber (n l p : Nat) : Nat := (((List.range l).map (levelWidth n)).sum + p) % 256

/-- An odd last value passes up unchanged (R238): the level and position at which it has a sibling, or is the result. -/
def loneUp (n : Nat) : Nat → Nat → Nat → Nat × Nat
  | 0, l, p => (l, p)
  | k + 1, l, p =>
    if levelWidth n l ≤ 1 then (l, p)
    else if p % 2 = 0 && levelWidth n l ≤ p + 1 then loneUp n k (l + 1) (p / 2)
    else (l, p)

/-- The position of the other operand of a value's combine. -/
def siblingPos (p : Nat) : Nat := if p % 2 = 0 then p + 1 else p - 1

/-- A router of a module. -/
structure FnPlace where
  mod_ : ModId
  clu : Clu
  deriving DecidableEq, Repr

def modAt (ms : List Member) (i : Nat) : ModId := (ms[i]?.map (·.mod_)).getD 0

def cluAt (ms : List Member) (i : Nat) : Clu := (ms[i]?.map fun m => cluOf m.core).getD 0

def backed (ms : List Member) (i : Nat) : Bool := (ms[i]?.map (·.bk.isSome)).getD false

/-- The place of a contributor's router. -/
def placeAt (ms : List Member) (i : Nat) : FnPlace := ⟨modAt ms i, cluAt ms i⟩

/-- The place of the root (R230, R232). -/
def State.rootPlace (s : State) (d : Desc) (rowg : BitVec 16) (layer : Nat) : FnPlace :=
  ⟨if d.isShard then s.mid else d.rootMod, s.rootClu d rowg layer⟩

/-- The contributors without a backup on a module, and the router that collects for their module under AO: that of the lowest of them. -/
def plainOn (ms : List Member) (m : ModId) : List Nat :=
  (List.range ms.length).filter fun i => modAt ms i == m && !backed ms i

/-- The place where the value of level `l`, position `p` is combined. Under FO the combine of two operands is placed with the left one,
at the router of that operand's lowest contributor, and the result goes to the root (R238, R269). Under AO (R240) the levels are the
model's own: a contribution (0) is combined with its cluster's others at their router (1), then with its module's (2), the values of other
modules in the port of the root's module that they arrive at (4), and all at the root (3); one with a backup goes to the root as it is (R241).
(DEDUCED, log entry 25; unsafe.) -/
def State.combineAt (s : State) (d : Desc) (rowg : BitVec 16) (layer : Nat) (ms : List Member) (l p : Nat) : FnPlace :=
  let root := s.rootPlace d rowg layer
  if d.ao then
    let m := modAt ms p
    if l = 0 then (if backed ms p then root else placeAt ms p)
    else if l = 1 && m != root.mod_ then placeAt ms ((plainOn ms m).headD p)
    else root
  else
    let q := loneUp ms.length 32 l p
    if levelWidth ms.length q.1 ≤ 1 then root else placeAt ms (q.2 / 2 * 2 * 2 ^ q.1)

/-- The module that the right operand of a value's combine comes from. -/
def rightMod (ms : List Member) (l p : Nat) : ModId :=
  let q := loneUp ms.length 32 l p
  modAt ms ((q.2 / 2 * 2 + 1) * 2 ^ q.1)

/-- The combine of a value is placed at a port's ALU (R269): under FO where its operands are of two modules, under AO for the value of a module
other than the root's. -/
def Desc.inPort (d : Desc) (ms : List Member) (l p : Nat) : Bool :=
  let q := loneUp ms.length 32 l p
  if d.ao then l == 2 && modAt ms p != d.rootMod
  else 1 < levelWidth ms.length q.1 && modAt ms (q.2 / 2 * 2 * 2 ^ q.1) != rightMod ms l p

/-- Staging space that a value takes, in 32 B units. -/
def stageUnits (data : List Byte) : Nat := ceilDiv data.length 32

/-- A held operand takes staging space at a router: under FO where its combine is placed, under AO, whose levels above 0 name what has
accumulated (R240), where the values of the level below are combined; a port's ALU holds its own. -/
def State.stagedAt (s : State) (d : Desc) (r : Round) (ms : List Member) (c : Clu) (x : Part) : Bool :=
  if d.ao then x.level != 4 && s.combineAt d r.rowg r.layer ms (x.level - 1) x.pos == ⟨s.mid, c⟩
  else !d.inPort ms x.level x.pos && s.combineAt d r.rowg r.layer ms x.level x.pos == ⟨s.mid, c⟩

/-- Staging in use at a router (R239, R249): the operands that wait there for their sibling. (DESIGN CHOICE, log entry 62; safe.) -/
def State.staged (s : State) (c : Clu) : Nat :=
  (s.descs.vals.map fun d => (d.rounds.map fun r =>
    let ms := s.members d r.rowg r.layer
    ((r.parts.filter (s.stagedAt d r ms c)).map fun p => stageUnits p.data).sum).sum).sum

/-- A round of the descriptor is open (R233, R250): an operand of it is held or on its way, or a core of this module has issued a
contribution to a round that has not completed here (R235). -/
def State.roundOpen (s : State) (did : DescId) (d : Desc) : Bool :=
  let flies (m : UpMsg) : Bool := m.h.desc == did && m.h.epoch == s.descEp.get did.toNat 0
  !d.rounds.isEmpty || s.fnet.any flies || s.upAsm.any flies ||
    d.put_.entries.any fun e => (s.layersOf d).any fun l =>
      match s.rowgOf d (BitVec.ofNat 20 e.1) l with
      | some g => decide (d.round.get g.toNat 0 < e.2)
      | none => false

/-- The modules to which this one sends a round's result on: those that the list names whose route back from the root passes here last of the
named modules, so that a result is replicated where its paths part at a named module (R244, R269). (DEDUCED, log entry 26; unsafe.) -/
def State.dnMods (s : State) (d : Desc) (route : ModId → List ModId) : List ModId :=
  let all := s.otherMods d
  all.filter fun m => m != d.rootMod &&
    (((route m).filter fun x => x == d.rootMod || x == s.mid || all.contains x).head? == some s.mid)

/-- Rounds completed since the id was set: the fewest of any row group (R250). -/
def State.roundsDone (s : State) (d : Desc) : Nat :=
  match (s.rowgs d).map fun g => d.round.get g.toNat 0 with
  | [] => 0
  | x :: t => t.foldl min x

end Sys2Proof.Machine
end

