-- ==== Sys2Proof/Machine/Registers.lean ====
section
/-! DEFINITION. Reading control space (R462 to R464, R468): the value of the 32-bit word at each offset from the control-space
base, page by page as each chapter lays it out. A read here changes nothing; what a read clears or pops, and what a write
does, stand with the accesses. -/
namespace Sys2Proof.Machine

def lowW (x : BitVec 64) : Word := x.setWidth 32
def highW (x : BitVec 64) : Word := (x >>> 32).setWidth 32

/-- The word of a field value placed at bit `lo`. -/
def fld (lo : Nat) {w : Nat} (x : BitVec w) : Word := place 32 lo x

def fldN (lo w n : Nat) : Word := place 32 lo (BitVec.ofNat w n)

/-- CO_STATE.GACT: the groups of the current block that have not finished, those of a block that has not started yet among them (R71). -/
def Core.gact (c : Core) : Nat :=
  if c.launch.isNone then 0
  else if c.started then c.groups.entries.foldl (fun m g => if g.2.fin then m else m + 2 ^ g.1) 0
  else 2 ^ c.ngrp.toNat - 1

/-- The core block (R71). -/
def Core.word (c : Core) (id : CoreId) (o : Nat) : Word :=
  match o with
  | 0x00 => id.setWidth 32
  | 0x08 => flagAt 32 31 c.mode ||| fld 26 c.ngrp ||| fld 17 c.valloc ||| fld 0 c.spadUnits
  | 0x10 => fld 30 c.run ||| fldN 0 16 c.gact
  | 0x18 => flagAt 32 31 c.errValid ||| fld 16 c.errGrp ||| fld 0 c.errCode
  | 0x20 => lowW (c.epc.setWidth 64)
  | 0x24 => highW (c.epc.setWidth 64)
  | 0x28 => fldN 0 6 c.sb.length
  | _ => 0

/-- Sub-array `s` has queued or running work (R101). -/
def Arr.busy (a : Arr) (s : Nat) : Bool := a.queue.any (·.sub == s) || a.folds.any (·.sub == s)

/-- The array block (R101). -/
def Arr.word (a : Arr) (o : Nat) : Word :=
  match o with
  | 0x00 =>
    fld 30 a.pack ||| fldN 16 4 a.queue.length |||
      fldN 0 16 ((List.range 16).foldl (fun m i => if a.busy i then m + 2 ^ i else m) 0)
  | 0x08 => a.flags.setWidth 32
  | 0x10 => lowW a.steps
  | 0x14 => highW a.steps
  | _ => 0

/-- The L2 page (R219). -/
def Cluster.word (c : Cluster) (o : Nat) : Word :=
  match o with
  | 0x00 => fldN 26 6 c.miss.size ||| fldN 22 4 c.wbuf.length ||| fldN 16 6 (c.miss.vals.filter (·.credit)).length |||
      fld 0 c.stale
  | 0x08 => lowW c.hits
  | 0x0C => highW c.hits
  | 0x10 => lowW c.misses
  | 0x14 => highW c.misses
  | _ => 0

/-- The debug page of a cluster (R413). -/
def Cluster.dbgWord (c : Cluster) (o : Nat) : Word :=
  if o < 0x20 then (c.csel.get (o / 4) 0).setWidth 32
  else if 0x40 ≤ o && o < 0x80 then
    let x : BitVec 64 := (c.cnt.get ((o - 0x40) / 8) 0).setWidth 64
    if o % 8 = 0 then lowW x else highW x
  else if o = 0x80 then flagAt 32 30 c.frozen
  else 0

/-- The router page (R249). -/
def State.routerWord (s : State) (c : Clu) (o : Nat) : Word :=
  let r := s.rtr c
  match o with
  | 0x00 => flagAt 32 31 r.par ||| flagAt 32 30 r.bkdiff ||| fldN 13 13 (s.dtab c)
  | 0x08 => fldN 16 14 (s.staged c) ||| fldN 0 15 (s.resultMem c)
  | 0x10 => r.stale
  | 0x18 => r.bkdup
  | 0x20 => lowW r.flits
  | 0x24 => highW r.flits
  | _ =>
    if 0x1000 ≤ o then
      match r.fwin.get? (64 * ((o - 0x1000) / 256) + (o - 0x1000) % 256 / 4) with
      | some e => flagAt 32 31 e.v ||| fld 16 e.nblk ||| fld 0 e.kblk0
      | none => 0
    else 0

/-- The home-agent page (R220), the controller page (R299) and the channel pages (R300) of a floe. -/
def Home.word (h : Home) (o : Nat) : Word :=
  if 0x2000 ≤ o && o < 0x3000 then
    let c := h.chans.get ((o - 0x2000) / 256) .init
    match o % 256 with
    | 0x00 => fld 30 c.st ||| fld 28 c.sp1 ||| fld 26 c.sp0
    | 0x08 => c.rep
    | 0x10 => lowW c.rd
    | 0x14 => highW c.rd
    | 0x18 => lowW c.wr
    | 0x1C => highW c.wr
    | 0x20 => lowW c.gath
    | 0x24 => highW c.gath
    | 0x28 => lowW c.turn
    | 0x2C => highW c.turn
    | 0x30 => c.capar
    | 0x38 => c.disc
    | _ => 0
  else
    match o with
    | 0x0000 => fldN 21 11 (h.slots.vals.filter (·.used)).length ||| fldN 12 9 h.evb.length ||| fldN 3 9 h.txns.length
    | 0x0008 => h.gen.setWidth 32
    | 0x0010 => lowW h.nacks
    | 0x0014 => highW h.nacks
    | 0x0018 => h.stale
    | 0x1000 => flagAt 32 31 h.tvalid ||| fld 8 h.tpeak ||| fld 0 h.tlast
    | 0x1008 => fld 30 h.tstate ||| flagAt 32 29 h.hot
    | 0x1010 => h.stops
    | 0x1018 => fldN 12 11 h.wcb.length ||| fldN 0 12 h.gq.length
    | 0x1020 => lowW h.odecc
    | 0x1024 => highW h.odecc
    | 0x1028 => h.reread
    | 0x1030 => h.parerr
    | _ => 0

/-- The state code of R255. -/
def portCode : PortState → BitVec 4
  | .off => 0
  | .detect => 1
  | .equalise => 2
  | .align => 3
  | .negotiate => 4
  | .identify => 5
  | .active => 6
  | .retrain => 7
  | .down => 8
  | .miswired => 9

/-- The port page (R273). -/
def Port.word (p : Port) (o : Nat) : Word :=
  match o with
  | 0x00 => fld 28 (portCode p.st) ||| fld 26 p.width ||| fld 22 p.ver ||| fld 8 p.laneok ||| fld 0 p.why
  | 0x08 => flagAt 32 31 p.en ||| flagAt 32 29 p.tpar ||| fld 0 p.dir
  | 0x10 => p.swing.setWidth 32
  | 0x18 => fld 21 p.pdir ||| fld 16 p.pport ||| fld 0 p.pmod
  | 0x20 => lowW p.fecCorr
  | 0x24 => highW p.fecCorr
  | 0x28 => p.fecUnc
  | 0x30 => p.crc
  | 0x38 => p.replay
  | 0x40 => p.retrain
  | 0x48 => p.stale
  | 0x50 => p.proto
  | 0x58 => lowW p.flits
  | 0x5C => highW p.flits
  | 0x60 => flagAt 32 31 p.errValid ||| fld 0 p.errCode
  | _ => 0

/-- Remote-request tags in use (R266). -/
def Amdon.inUse (a : Amdon) : Nat := (a.tags.vals.filter (·.use.isSome)).length

/-- The Amdon module page (R274). -/
def Amdon.word (a : Amdon) (o : Nat) : Word :=
  match o with
  | 0x00 => flagAt 32 31 a.lock ||| fld 0 a.topo
  | 0x08 => a.mid.setWidth 32
  | 0x10 => a.rto.setWidth 32
  | 0x18 => fldN 0 11 a.inUse
  | _ => 0

def stateCode : QState → BitVec 3
  | .free => 0
  | .active => 1
  | .failed => 2
  | .lost => 3
  | .hold => 4

/-- A doorbell page (R336); in HOLD it reads STATE 4 and CODE E_HOLD in DB_QSTAT and 0 elsewhere (R304). -/
def Queue.word (q : Queue) (kernel hold : Bool) (o : Nat) : Word :=
  if hold then (if o = 0x018 then fld 29 (4#3) ||| 0x0501#32 else 0)
  else
    match o with
    | 0x000 => q.wptr
    | 0x008 => q.rptr
    | 0x010 => lowW q.done
    | 0x014 => highW q.done
    | 0x018 => fld 29 (stateCode q.st) ||| fld 24 (if q.st == .free then 0#4 else q.ver) ||| fld 16 q.ep ||| fld 0 q.code
    | 0x020 => flagAt 32 31 q.underrun ||| flagAt 32 30 q.gap ||| fld 26 q.poisTag ||| fldN 0 9 q.fcount
    | 0x028 => q.wlim
    | 0x040 => wordAt q.reply 0
    | 0x044 => wordAt q.reply 1
    | 0x048 => wordAt q.reply 2
    | 0x04C => wordAt q.reply 3
    | 0x080 => if kernel then lowW (q.kbase.setWidth 64) else 0
    | 0x084 => if kernel then highW (q.kbase.setWidth 64) else 0
    | 0x088 => if kernel then lowW (q.krply.setWidth 64) else 0
    | 0x08C => if kernel then highW (q.krply.setWidth 64) else 0
    | 0x090 => if kernel then flagAt 32 31 q.ken ||| fld 24 q.kver ||| fld 16 q.krlog else 0
    | _ => 0

/-- The time-base page (R411). -/
def TimeBase.word (t : TimeBase) (o : Nat) : Word :=
  match o with
  | 0x00 => lowW t.now
  | 0x04 => highW t.now
  | 0x08 => flagAt 32 31 t.sync ||| flagAt 32 30 t.lock ||| flagAt 32 29 t.hold ||| flagAt 32 28 t.role |||
      flagAt 32 27 t.refok ||| flagAt 32 26 t.resv ||| fld 16 t.port ||| fld 0 t.series
  | 0x10 => lowW t.offset
  | 0x14 => highW t.offset
  | 0x18 => t.rtt
  | 0x20 => lowW t.resid
  | 0x24 => highW t.resid
  | _ => 0

/-- The power page (R460). -/
def State.powerWord (s : State) (o : Nat) : Word :=
  match o with
  | 0x00 => flagAt 32 31 s.pw.lowv ||| flagAt 32 30 s.pw.highv ||| flagAt 32 29 s.pw.ilim ||| flagAt 32 28 s.pw.cool |||
      flagAt 32 27 s.pw.rfault ||| flagAt 32 26 s.pw.ttrip
  | 0x08 => fld 16 s.pw.iin
  | 0x0C => fld 0 s.pw.vin
  | 0x10 => s.pw.pin.setWidth 32
  | 0x18 => fld 8 s.pw.tout ||| fld 0 s.pw.tin
  | 0x20 => flagAt 32 31 s.pw.gateEn ||| fld 0 s.pw.gateIdle
  | 0x28 => s.pw.islSel.setWidth 32
  | 0x30 =>
    let c := s.clu s.pw.islSel
    flagAt 32 31 c.gated ||| flagAt 32 30 c.stopped ||| fldN 16 6 (max c.sD c.sT) ||| fld 0 c.tj
  | _ => 0

/-- The module debug page (R412). -/
def Debug.word (d : Debug) (pend : Bool) (o : Nat) : Word :=
  if 0x020 ≤ o && o < 0x030 then wordAt d.pcsPop ((o - 0x020) / 4)
  else if 0x080 ≤ o && o < 0x0A0 then wordAt d.trPop ((o - 0x080) / 4)
  else if 0x058 ≤ o && o < 0x068 then
    let n := (o - 0x058) / 4
    flagAt 32 31 (d.twV.getLsbD n) ||| fld 0 (d.twId.get n 0)
  else
    match o with
    | 0x000 => flagAt 32 31 d.pcsEn ||| flagAt 32 30 d.pcsAll ||| fld 23 d.pcsFloe ||| fld 20 d.pcsCstr ||| fld 15 d.pcsPer
    | 0x008 => flagAt 32 31 d.pcsUnder ||| flagAt 32 30 d.pcsGap ||| fld 22 d.pcsPois ||| fldN 0 15 d.pcs.length
    | 0x010 => lowW d.pcsTotal
    | 0x014 => highW d.pcsTotal
    | 0x018 => lowW d.pcsLost
    | 0x01C => highW d.pcsLost
    | 0x040 => lowW d.trigAt
    | 0x044 => highW d.trigAt
    | 0x048 => flagAt 32 30 pend ||| flagAt 32 29 d.trigFrozen ||| fld 24 d.trigAct
    | 0x050 => d.twDec.setWidth 32
    | 0x068 => d.twDrop
    | 0x070 => flagAt 32 31 d.trUnder ||| flagAt 32 30 d.trGap ||| fld 22 d.trPois ||| fldN 0 15 d.tr.length
    | 0x078 => lowW d.trTotal
    | 0x07C => highW d.trTotal
    | 0x0A0 => flagAt 32 31 d.errV ||| fld 0 d.errCode
    | 0x100 => lowW d.aoBusy
    | 0x104 => highW d.aoBusy
    | 0x108 => lowW d.aoIssue
    | 0x10C => highW d.aoIssue
    | 0x110 => lowW d.aoMx
    | 0x114 => highW d.aoMx
    | 0x118 => lowW d.aoStretch
    | 0x11C => highW d.aoStretch
    | 0x120 => lowW d.aoGated
    | 0x124 => highW d.aoGated
    | 0x128 => d.aoReplay
    | 0x130 => d.aoPoison
    | _ => 0

/-- A stack none of whose channels is in service (R298), or a channel stopped since training (R377). -/
def State.stackOut (s : State) (f : Nat) : Bool :=
  let h := s.homes.get f .init
  ((List.range 16).all fun c => (h.chans.get c .init).st != 0) || h.chans.vals.any (·.stopped)

/-- The module reports DEGRADED: an excluded floe, a stack out of service, or a stopped channel (R34, R298, R377). -/
def State.degraded (s : State) : Bool :=
  !s.excludedFloes.isEmpty || s.homes.keys.any s.stackOut

/-- Physical cluster `i` of a floe passed self-test (R418). -/
def State.passed (s : State) (f i : Nat) : Bool := s.mapped && i < 132 && !s.failedClu.contains (132 * f + i)

/-- A nunatak page (R435). -/
def State.nunatakWord (s : State) (n : Nunatak) (o : Nat) : Word :=
  let dw (l : List Byte) (k : Nat) : Word := ofBytes 32 ((l.drop k).take 4)
  if 0x020 ≤ o && o < 0x050 then dw (toBytes 48 n.meas) (o - 0x020)
  else if 0x080 ≤ o && o < 0x0A0 then dw (toBytes 32 n.nonce) (o - 0x080)
  else if 0x100 ≤ o && o < 0x270 then dw n.qbuf (o - 0x100)
  else if 0x310 ≤ o && o < 0x324 then
    let k := (o - 0x310) / 4
    fldN 0 32 ((List.range 32).foldl (fun m i => if s.passed n.repSel.toNat (32 * k + i) then m + 2 ^ i else m) 0)
  else
    match o with
    | 0x000 => fldN 28 4 n.stage ||| flagAt 32 27 n.hold ||| flagAt 32 26 s.degraded ||| flagAt 32 25 n.latch |||
        fld 20 n.hwhy ||| fld 16 n.result ||| fld 12 n.swait
    | 0x010 => flagAt 32 31 n.live ||| flagAt 32 30 n.latch ||| flagAt 32 29 n.peer ||| flagAt 32 28 n.pvalid ||| fld 0 n.pseq
    | 0x018 => n.imgver
    | 0x050 => fld 30 n.idst
    | 0x0A0 => flagAt 32 30 n.qbusy ||| flagAt 32 29 n.qdone ||| flagAt 32 28 n.qref
    | 0x300 => n.repSel.setWidth 32
    | 0x308 => flagAt 32 31 (s.excluded n.repSel) |||
        fldN 23 8 (if s.mapped then 132 - s.failedOf n.repSel.toNat else 0)
    | _ => 0

/-- Units the pool can give out; none while no model is READY (R348, R368). -/
def State.kvFree (s : State) : Nat :=
  (if s.eng.mst = 2 then s.eng.units else 0) - (s.eng.seqs.vals.map (·.units.length)).sum - s.eng.withheld.length

/-- Queues of a space that are not FREE (R368). -/
def State.queuesOf (s : State) (a : Asid) : Nat := (s.queues.vals.filter fun q => q.asid == a && q.st != .free).length

/-- Live sequences of a space. -/
def State.seqsOf (s : State) (a : Asid) : Nat := (s.eng.seqs.vals.filter (·.asid == a)).length

/-- The lowest node of the running step that has not completed (R127). -/
def Engine.lowNode (e : Engine) : Nat :=
  match e.prog with
  | some p => if 2 ≤ e.sst.toNat then ((List.range p.nodes.length).find? fun i => !e.doneN.contains i).getD 0 else 0
  | none => 0

/-- The front-end pages other than the doorbell pages (R463). -/
def State.feWord (s : State) (o : Nat) : Word :=
  let e := s.eng
  let f := s.fe
  match o with
  -- queue page (R337)
  | 0x0000 => fldN 28 4 8 ||| 0x0001#32
  | 0x0008 => fldN 0 15 (s.queues.entries.filter fun q => q.1 < 0x4000 && q.2.st != .free).length
  | 0x0010 => f.qstale
  | 0x0018 => lowW f.qfetch
  | 0x001C => highW f.qfetch
  -- step-engine page (R127)
  | 0x1000 => fld 28 e.mst ||| fld 24 e.mphase ||| fld 0 e.mcode
  | 0x1008 => lowW e.modelId
  | 0x100C => highW e.modelId
  | 0x1040 => fld 30 e.sst ||| fldN 16 12 e.lowNode ||| fldN 0 11 e.cols.length
  | 0x1048 => lowW e.count
  | 0x104C => highW e.count
  -- launch-check page (R135)
  | 0x2000 => flagAt 32 31 f.lchkV ||| fld 20 f.lchkReason ||| fld 0 f.lchkCode
  | 0x2008 => lowW (f.lchkPc.setWidth 64)
  | 0x200C => highW (f.lchkPc.setWidth 64)
  | 0x2010 => fld 16 f.lchkQ ||| fld 0 f.lchkAsid
  -- firn page (R250)
  | 0x3000 => f.dsel.setWidth 32
  | 0x3008 =>
    (match s.descs.get? f.dsel.toNat with
      | some d => fldN 30 2 (if s.roundOpen f.dsel d then 2 else 1) ||| fldN 8 8 (s.roundsDone d)
      | none => 0) ||| fld 16 (s.descEp.get f.dsel.toNat 0)
  -- tenancy page (R368)
  | 0x4000 => lowW (f.kvpBase.setWidth 64)
  | 0x4004 => highW (f.kvpBase.setWidth 64)
  | 0x4008 => f.kvpNpage
  | 0x4010 => fldN 0 32 (if e.mst = 2 then e.units else 0)
  | 0x4018 => fldN 0 32 s.kvFree
  | 0x4020 => lowW (BitVec.ofNat 64 e.goldBase)
  | 0x4024 => flagAt 32 31 e.goldV ||| highW (BitVec.ofNat 64 e.goldBase)
  | 0x4028 => fldN 13 13 f.paused ||| fldN 0 13 e.seqs.size
  | 0x4030 => lowW f.walks
  | 0x4034 => highW f.walks
  | 0x4040 => f.asSel.setWidth 32
  | 0x4048 => flagAt 32 31 (s.spaces.has f.asSel.toNat) ||| fldN 15 15 (s.queuesOf f.asSel) ||| fldN 0 13 (s.seqsOf f.asSel)
  | 0x4050 => lowW ((s.spaces.get f.asSel.toNat .init).root.setWidth 64)
  | 0x4054 => highW ((s.spaces.get f.asSel.toNat .init).root.setWidth 64)
  | 0x4058 => (s.spaces.get f.asSel.toNat .init).quota
  | 0x4060 => fldN 0 32 (s.spaces.get f.asSel.toNat .init).used
  | 0x4068 => lowW (s.spaces.get f.asSel.toNat .init).pkts
  | 0x406C => highW (s.spaces.get f.asSel.toNat .init).pkts
  | 0x4070 => lowW (s.spaces.get f.asSel.toNat .init).steps
  | 0x4074 => highW (s.spaces.get f.asSel.toNat .init).steps
  -- error page (R388)
  | 0x5000 => fld 28 f.rstCause ||| flagAt 32 27 f.rstBusy ||| fld 16 f.rstCount ||| fld 0 f.rstEnded
  | 0x5010 => f.wrefAll
  | 0x5018 => f.wrefC1
  | 0x5020 => fld 20 f.wrefSect ||| fld 0 f.wrefCore
  | 0x5024 => flagAt 32 31 f.wrefV ||| flagAt 32 0 (f.wrefSect.getLsbD 12)
  | 0x5028 => f.psnSteps
  | 0x5030 => lowW f.paddr
  | 0x5034 => highW f.paddr
  | 0x5038 => flagAt 32 31 f.pstatV ||| fld 0 f.pstatCore
  | 0x5040 => f.dirErr
  | 0x5048 => f.fatal.setWidth 32
  | 0x5050 => fld 0 f.hwCode
  | 0x5054 => flagAt 32 31 f.hwV ||| flagAt 32 30 f.hwBar ||| fld 0 f.hwOff
  -- host-port page (R461)
  | 0x6000 => lowW (f.hwin.setWidth 64)
  | 0x6004 => highW (f.hwin.setWidth 64)
  | 0x6008 => flagAt 32 31 f.hwinErrV ||| fld 0 f.hwinErrCode
  | _ =>
    if 0x1010 ≤ o && o < 0x1040 then ofBytes 32 (((toBytes 48 e.dig).drop (o - 0x1010)).take 4) else 0

/-- The block and the place in it that a control-space offset names (R462). -/
inductive Page where
  | fe (o : Nat)
  | kq (k o : Nat)
  | tb (o : Nat)
  | pw (o : Nat)
  | port (p o : Nat)
  | am (o : Nat)
  | nt (east : Bool) (o : Nat)
  | ntGap
  | bootWin (o : Nat)
  | db (q o : Nat)
  | mr (f o : Nat)
  | mrMod (o : Nat)
  | dgClu (c o : Nat)
  | dg (o : Nat)
  | fn (c o : Nat)
  | co (g o : Nat)
  | l2 (c o : Nat)
  | mx (g o : Nat)
  | none
  deriving DecidableEq, Repr

def pageOf (o : Nat) : Page :=
  if o < 0x10_0000 then
    (if 0x8_0000 ≤ o && o < 0x8_8000 then .kq ((o - 0x8_0000) / 0x1000) (o % 0x1000) else .fe o)
  else if o < 0x10_1000 then .tb (o - 0x10_0000)
  else if o < 0x10_2000 then .pw (o - 0x10_1000)
  else if o < 0x14_0000 then .none
  else if o < 0x16_0000 then .port ((o - 0x14_0000) / 0x1000) (o % 0x1000)
  else if o < 0x16_1000 then .am (o - 0x16_0000)
  else if o < 0x20_0000 then .none
  else if o < 0x22_0000 then .nt (0x21_0000 ≤ o) (o % 0x1_0000)
  else if o < 0x60_0000 then .ntGap
  else if o < 0xA0_0000 then .bootWin (o - 0x60_0000)
  else if o < 0x400_0000 then .none
  else if o < 0x800_0000 then .db ((o - 0x400_0000) / 0x1000) (o % 0x1000)
  else if o < 0x880_0000 then .mr ((o - 0x800_0000) / 0x1_0000) (o % 0x1_0000)
  else if o < 0x880_1000 then .mrMod (o % 0x1000)
  else if o < 0x900_0000 then .none
  else if o < 0x940_0000 then .dgClu ((o - 0x900_0000) / 256) (o % 256)
  else if o < 0x940_1000 then .dg (o % 0x1000)
  else if o < 0x1000_0000 then .none
  else if o < 0x1800_0000 then .fn ((o - 0x1000_0000) / 0x2000) (o % 0x2000)
  else if o < 0x2000_0000 then .none
  else if o < 0x3000_0000 then .co ((o - 0x2000_0000) / 256) (o % 256)
  else if o < 0x3040_0000 then .l2 ((o - 0x3000_0000) / 256) (o % 256)
  else if o < 0x4000_0000 then .none
  else if o < 0x5000_0000 then .mx ((o - 0x4000_0000) / 256) (o % 256)
  else .none

/-- The floe of a page that exists per logical core or cluster and is not a router page (R464). -/
def Page.floe? : Page → Option Floe
  | .dgClu c _ => some (BitVec.ofNat 7 (c / 128))
  | .co g _ => some (BitVec.ofNat 7 (g / 8192))
  | .l2 c _ => some (BitVec.ofNat 7 (c / 128))
  | .mx g _ => some (BitVec.ofNat 7 (g / 8192))
  | _ => Option.none

/-- The page belongs to an excluded floe, reads 0 and takes no write (R464). -/
def State.pageOut (s : State) (p : Page) : Bool :=
  match p.floe? with
  | some f => s.excluded f
  | none => false

/-- An armed action has not yet been applied everywhere (R412). -/
def State.trigPend (s : State) : Bool := s.dg.armed

/-- The 32-bit word at a control-space offset that is a multiple of 4; a reserved field or offset reads 0 (R10). -/
def State.regWord (s : State) (o : Nat) : Word :=
  let p := pageOf o
  if s.pageOut p then 0
  else
    match p with
    | .fe o => s.feWord o
    | .kq k o => (s.queue (BitVec.ofNat 16 (0x4000 + k))).word true s.inHold o
    | .tb o => s.tb.word o
    | .pw o => s.powerWord o
    | .port p o => (s.port (BitVec.ofNat 5 p)).word o
    | .am o => s.am.word o
    | .nt e o => s.nunatakWord (if e then s.east else s.west) o
    | .ntGap => 0
    | .bootWin o => if s.primary.stage == 1 then ofBytes 32 (s.primary.window.readBytes o 4) else 0
    | .db q o => (s.queue (BitVec.ofNat 16 q)).word false s.inHold o
    | .mr f o => (s.home (BitVec.ofNat 7 f)).word o
    | .mrMod o =>
      (match o with
        | 0x00 => fldN 0 12 s.nch
        | 0x08 => s.ilvSel.setWidth 32
        | 0x10 =>
          if s.ilvSel.toNat < s.nch then flagAt 32 31 true ||| fldN 0 11 (s.live.getD s.ilvSel.toNat 0) else 0
        | _ => 0)
    | .dgClu c o => (s.island (BitVec.ofNat 14 c)).dbgWord o
    | .dg o => s.dg.word s.trigPend o
    | .fn c o => s.routerWord (BitVec.ofNat 14 c) o
    | .co g o => (s.core (BitVec.ofNat 20 g)).word (BitVec.ofNat 20 g) o
    | .l2 c o => (s.clu (BitVec.ofNat 14 c)).word o
    | .mx g o => (s.core (BitVec.ofNat 20 g)).arr.word o
    | .none => 0

/-- FN_FLITS, which counts every flit that a router forwards: the model follows no flit from hop to hop, and the count has grown by a free
amount when it is read (R249). (DESIGN CHOICE, log entry 9; unsafe.) -/
def State.flitsGrow (s : State) (p : Page) : State :=
  match p with
  | .fn c o =>
    if o == 0x20 || o == 0x24 then
      let t := s.take
      let r := t.2.rtr (BitVec.ofNat 14 c)
      t.2.setRtr (BitVec.ofNat 14 c) { r with flits := r.flits + (Config.freeWord t.1 0).setWidth 64 }
    else s
  | _ => s

/-- The limit of R437 in units of 0.1 A: min(2,070 A, 95 kW ÷ Vin). -/
def inputLimit (mv : Nat) : Nat := if mv = 0 then 20700 else min 20700 (950000000 / mv)

/-- A measurement of the input: a free current and a free power, which the power stage keeps within the limit of R437 and the 95 kW of R436.
No command brings one, so the reader of PW_IN or PW_PIN finds a new one. (DESIGN CHOICE, log entry 30; safe.) -/
def State.measured (s : State) : State :=
  if s.pw.on then
    let t := s.take
    { t.2 with pw := { t.2.pw with
        iin := BitVec.ofNat 16 (min (inputLimit s.pw.vin.toNat) (Config.freeWord t.1 0).toNat)
        pin := BitVec.ofNat 17 (min 95000 (Config.freeWord t.1 1).toNat) } }
  else s

/-- What a read of a register finds moved on: FN_FLITS, PW_IN and PW_PIN. -/
def State.readings (s : State) (p : Page) : State :=
  match p with
  | .pw o => if o == 0x08 || o == 0x10 then s.measured else s
  | _ => s.flitsGrow p

/-- A control-space offset that a row of R462 covers. -/
def regCovered (o : Nat) : Bool := pageOf o != .none

/-- The register word holds an RC field: CO_L2_STAT, MR_HOME_STALE, FN_STALE, FN_BKDUP, FE_QSTALE (R8). -/
def regRc (p : Page) : Bool :=
  match p with
  | .l2 _ o => o == 0
  | .mr _ o => o == 0x18
  | .fn _ o => o == 0x10 || o == 0x18
  | .fe o => o == 0x10
  | _ => false

/-- What a kernel's load of a word returns: 0 from a doorbell page, the nunatak block, a popping register or a register
with an RC field, and the register's value elsewhere (R468). -/
def State.kernelWord (s : State) (o : Nat) : Word :=
  let p := pageOf o
  let blind := match p with
    | .db _ _ => true
    | .kq _ _ => true
    | .nt _ _ => true
    | .ntGap => true
    | .bootWin _ => true
    | .dg o => o == 0x020 || o == 0x080
    | _ => regRc p
  if blind then 0 else s.regWord o

end Sys2Proof.Machine
end

