-- ==== Sys2Proof/Machine/Coherence.lean ====
section
/-! DEFINITION. The home-ordered protocol (R190 to R216): the L2 slice, the transactions of a home, and the meaning of every coherence
message. A message command acts on the message of that name in flight; with none in flight, or while the receiver must
hold it, nothing changes. -/
namespace Sys2Proof.Machine

/-! ### The L2 slice -/

/-- The set of a line: PA[15:7] XOR PA[24:16] (R190). -/
def setOf (line : Nat) : Nat := (line % 512) ^^^ (line / 512 % 512)

def waysOf (line : Nat) : List Nat := (List.range 16).map (16 * setOf line + ·)

/-- The way that holds the line valid. -/
def Cluster.find (c : Cluster) (line : Nat) : Option Nat :=
  (waysOf line).find? fun k => let l := c.l2.get k .init; l.st != .i && l.line == line

def Cluster.line? (c : Cluster) (line : Nat) : Option L2Line := (c.find line).map fun k => c.l2.get k .init

/-- Updates a valid line. -/
def Cluster.upd (c : Cluster) (line : Nat) (f : L2Line → L2Line) : Cluster :=
  match c.find line with
  | some k => { c with l2 := c.l2.put k (f (c.l2.get k .init)) }
  | none => c

def Cluster.wb? (c : Cluster) (line : Nat) : Option WbEntry := c.wbuf.find? (·.line == line)

/-- The tag of the miss entry for a coherent request on a line. -/
def isCoherent : ReqKind → Bool
  | .rds => true
  | .rdx => true
  | .upg => true
  | .rdz => true
  | _ => false

def Cluster.missOf (c : Cluster) (line : Nat) : Option Nat :=
  (c.miss.entries.find? fun p => p.2.line == line && isCoherent p.2.kind).map (·.1)

def Cluster.freeTag (c : Cluster) : Option Nat := (List.range 32).find? fun t => !c.miss.has t

/-- Frees a miss entry; its epoch advances before it is issued again (R203). -/
def Cluster.freeMiss (c : Cluster) (t : Nat) : Cluster :=
  { c with miss := c.miss.del t, missEp := c.missEp.put t (c.missEp.get t 0 + 1) }

/-- The miss entry that a response names, when its epoch matches (R203). -/
def Cluster.missAt (c : Cluster) (tag : BitVec 5) (ep : BitVec 8) : Option Miss :=
  if c.missEp.get tag.toNat 0 = ep then c.miss.get? tag.toNat else none

/-- Whether a group other than `me` holds protection on a sector that satisfies `p` (R182). -/
def State.protectedBy (s : State) (me : Option (CoreId × BitVec 4)) (p : Nat → Bool) : Bool :=
  s.cores.entries.any fun c => c.2.groups.entries.any fun g =>
    match g.2.prot with
    | some pr => p pr.sector && me != some (BitVec.ofNat 20 c.1, BitVec.ofNat 4 g.1)
    | none => false

/-- Whether a group of the cluster holds protection in the line (R182, R210). -/
def State.protectsLine (s : State) (k : Clu) (line : Nat) : Bool :=
  s.cores.entries.any fun c => cluOf (BitVec.ofNat 20 c.1) == k && c.2.groups.entries.any fun g =>
    match g.2.prot with
    | some pr => pr.sector / 4 == line
    | none => false

/-- The victim of a set (R191): the lowest invalid way, else the lowest way of age 3 once every age has been raised
enough; a way that a miss entry or a protection holds is never chosen. -/
def State.victim (s : State) (k : Clu) (line : Nat) : Option (Nat × Tab L2Line) :=
  let c := s.clu k
  let ws := waysOf line
  match ws.find? fun w => (c.l2.get w .init).st == .i with
  | some w => some (w, c.l2)
  | none =>
    let free (w : Nat) : Bool :=
      let l := (c.l2.get w .init).line
      (c.missOf l).isNone && !s.protectsLine k l
    let ok := ws.filter free
    if ok.isEmpty then none
    else
      let top := ok.foldl (fun m w => max m (c.l2.get w .init).age.toNat) 0
      let t := ws.foldl (fun t w =>
        let l := t.get w .init
        t.put w { l with age := BitVec.ofNat 2 (min 3 (l.age.toNat + (3 - top))) }) c.l2
      (ok.find? fun w => (t.get w .init).age == 3).map fun w => (w, t)

def State.send (s : State) (m : Msg) : State := { s with net := s.net ++ [m] }

/-- Reservations of kind .cg on the line of the cluster's cores end when the line is evicted (R180). -/
def State.evictResv (s : State) (k : Clu) (line : Nat) : State :=
  { s with cores := ⟨s.cores.entries.map fun p =>
      if cluOf (BitVec.ofNat 20 p.1) = k then
        (p.1, { p.2 with groups := ⟨p.2.groups.entries.map fun q =>
          (q.1, { q.2 with resv := ⟨q.2.resv.entries.filter fun r => !(r.2.sector / 4 == line && r.2.kind == .cg)⟩ })⟩ })
      else p⟩ }

/-- Places a line in the slice, in the way that holds it or in a victim's. A victim in M or O leaves with WBD, in E with
EVC, and stays in the writeback buffer; an S victim is dropped (R195). None when the writeback buffer has no room. -/
def State.l2Place (s : State) (k : Clu) (l : L2Line) : Option State :=
  let c := s.clu k
  match c.find l.line with
  | some w => some (s.setClu k { c with l2 := c.l2.put w l })
  | none =>
    match s.victim k l.line with
    | none => none
    | some (w, t) =>
      let v := t.get w .init
      let c1 := { c with l2 := t.put w l }
      if v.st == .i then some (s.setClu k c1)
      else
        let s0 := s.evictResv k v.line
        if v.st == .s then some (s0.setClu k c1)
        else if 8 ≤ c.wbuf.length then none
        else
          let e : WbEntry := { line := v.line, st := v.st, data := v.data, dirty := v.dirty, pois := v.pois }
          let s1 := s0.setClu k { c1 with wbuf := c1.wbuf ++ [e] }
          let r : Req := ⟨v.line, .clu k 0 0⟩
          some (if v.st == .e then s1.send (.evc r) else s1.send (.wbd r e))

/-- Sends a request for a line. A request of the slice counts in CO_L2_MISSES (R219). The slice sends none while it
already has one for the line, or while the line is in its writeback buffer, or when no miss entry is free: none. -/
def State.l2Request (s : State) (k : Clu) (kind : ReqKind) (line : Nat) (stream : Bool) (pay : Pay) : Option State :=
  let c := s.clu k
  if isCoherent kind && ((c.missOf line).isSome || (c.wb? line).isSome) then none
  else
    match c.freeTag with
    | none => none
    | some t =>
      let c1 := ({ c with miss := c.miss.put t { line := line, kind := kind, stream := stream, credit := false, pay := pay, fill := none },
                          misses := c.misses + 1 }).count 6 1
      let r : Req := ⟨line, .clu k (BitVec.ofNat 5 t) (c.missEp.get t 0)⟩
      some ((s.setClu k c1).send (.req kind r pay))

/-- A hit that serves `n` accesses: the line's age becomes 0 (R191), and they count in CO_L2_HITS (R219). -/
def State.l2Hits (s : State) (k : Clu) (line n : Nat) : State :=
  s.setClu k ({ (s.clu k).upd line fun l => { l with age := 0 } with hits := (s.clu k).hits + BitVec.ofNat 64 n }.count 5 n)

def State.l2Hit (s : State) (k : Clu) (line : Nat) : State := s.l2Hits k line 1

/-- Writes masked bytes into a line that the slice holds in M or E, which becomes M (R211). -/
def State.l2Write (s : State) (k : Clu) (line : Nat) (mask : LineMask) (v : LineVal) (by_ : Option (CoreId × BitVec 4)) :
    State :=
  (s.setClu k ((s.clu k).upd line fun l =>
    { l with st := .m, data := mergeLine l.data v.data mask, dirty := l.dirty ||| anySectors mask,
             pois := mergePois l.pois v.pois mask })).wrote line (anySectors mask) by_ false

def holdsOwned (c : Cluster) (line : Nat) : Bool :=
  match c.line? line with
  | some l => l.st == .m || l.st == .e
  | none => false

/-- The slice performs the accepted stores of a line it holds in M or E, in the order it accepted them (R215). While it
holds the line in S or O and has no request out, it asks for ownership with an UPG (R211). -/
def State.performStores (s : State) (k : Clu) (line : Nat) : State :=
  let mine := (s.clu k).stq.filter (·.line == line)
  if holdsOwned (s.clu k) line then
    let s1 := mine.foldl (fun s e => s.l2Write k line e.mask ⟨e.data, e.pois⟩ (if e.l1 then none else some (e.core, e.grp))) s
    let c := s1.clu k
    s1.setClu k { c with stq := c.stq.filter (·.line != line) }
  else if mine.isEmpty || ((s.clu k).line? line).isNone then s
  else (s.l2Request k .upg line false .init).getD s

/-! ### Transactions of a home -/

def Home.txn? (h : Home) (line : Nat) : Option Txn := h.txns.find? (·.line == line)

def State.onTxn (s : State) (line : Nat) (f : Txn → Txn) : State :=
  s.onHome line fun h => { h with txns := h.txns.map fun t => if t.line = line then f t else t }

/-- The line has slots whose retries have arrived and wait (R206, R207). -/
def Home.waiting (h : Home) (line : Nat) : List (Nat × SlotRec) :=
  h.slots.entries.filter fun p => p.2.used && p.2.arrived && !p.2.isWbd && p.2.req.line == line

def whoClu : Who → Option Clu
  | .clu c _ _ => some c
  | .remote _ _ _ _ => none

/-- Clusters that hold the line, in the slice or the writeback buffer. -/
def State.holders (s : State) (line : Nat) : List Clu :=
  (s.clus.entries.filter fun p => (p.2.find line).isSome || (p.2.wb? line).isSome).map fun p => BitVec.ofNat 14 p.1

/-- The answers that a multicast to a floe column brings: every logical cluster of each of its eight floes answers, a power-gated one
through its router, and the gateway of an excluded floe answers for all 128 positions (R200, R445). -/
def colCount : Nat := 8 * 128

/-- The columns that COARSE marks. -/
def DirEntry.columns (e : DirEntry) : List Nat := setBits e.coarse

/-- The invalidations that reach every sharer but those in `skip`, and the acknowledgements to wait for: one INV to each precise
sharer, or one multicast to each marked column (R200, R210). -/
def State.invTo (_ : State) (line : Nat) (e : DirEntry) (skip : List Clu) (f : Floe) : List Msg × Nat :=
  let cols := (e.columns.map fun c => Msg.invCol line c skip f, colCount * e.columns.length)
  match e.dst with
  | .shc => cols
  | .owc => cols
  | _ =>
    let l := e.sharers.filter fun k => !skip.contains k
    (l.map fun k => Msg.inv line k f, l.length)

/-- Bytes and tags of an uncached payload in its line. -/
def Pay.lineMask (p : Pay) : LineMask := (p.mask.setWidth 128) <<< (32 * (p.sector % 4))

def Pay.lineVal (p : Pay) : LineVal :=
  ⟨(p.data.setWidth 1024) <<< (256 * (p.sector % 4)), (p.pois.setWidth 32) <<< (8 * (p.sector % 4))⟩

/-- The group of this module that an uncached access comes from; none for another module's. -/
def Pay.owner (p : Pay) : Option (CoreId × BitVec 4) := if p.remote then none else some (p.core, p.grp)

/-- A sector of a line. -/
def LineVal.sector (v : LineVal) (i : Nat) : BitVec 256 := v.data.extractLsb' (256 * i) 256
def LineVal.secPois (v : LineVal) (i : Nat) : BitVec 8 := v.pois.extractLsb' (8 * i) 8

/-- The new value of an atomic (R148): operand `x`, and `y` the value that ACAS swaps in. -/
def atomicNew (op : BitVec 8) (sz : MSize) (old x y : BitVec 64) : BitVec 64 :=
  let w8 := sz == .b8
  let o := lo32of old
  let a := lo32of x
  let r (n : Word) : BitVec 64 := n.setWidth 64
  match op.toNat with
  | 0x10 => if w8 then old + x else r (o + a)
  | 0x11 => old &&& x
  | 0x12 => old ||| x
  | 0x13 => old ^^^ x
  | 0x14 => if w8 then (if old.toInt ≤ x.toInt then old else x) else (if o.toInt ≤ a.toInt then r o else r a)
  | 0x15 => if w8 then (if old.toInt ≤ x.toInt then x else old) else (if o.toInt ≤ a.toInt then r a else r o)
  | 0x16 => if w8 then (if old.toNat ≤ x.toNat then old else x) else (if o.toNat ≤ a.toNat then r o else r a)
  | 0x17 => if w8 then (if old.toNat ≤ x.toNat then x else old) else (if o.toNat ≤ a.toNat then r a else r o)
  | 0x18 => if w8 then x else r a
  | 0x19 => if w8 then (if old = x then y else old) else (if o = a then r (lo32of y) else r o)
  | 0x1A => r (toF32 .rn (FVal.add .rn (f32 o) (f32 a)))
  | _ => old
where
  lo32of (z : BitVec 64) : Word := z.setWidth 32

/-- The value of `n` bytes at byte `lo` of a line. -/
def LineVal.at (v : LineVal) (lo n : Nat) : BitVec 64 :=
  (v.data.extractLsb' (8 * lo) 64) &&& (BitVec.ofNat 64 (2 ^ (8 * n) - 1))

/-- Whether one of `n` bytes at byte `lo` is poisoned. -/
def LineVal.poisAt (v : LineVal) (lo n : Nat) : Bool := v.pois &&& anyWords (byteMask lo n) != 0

/-- Puts a value of `n` bytes at byte `lo` of a line. -/
def putAt (lo : Nat) (x : BitVec 64) : LineVal := ⟨(x.setWidth 1024) <<< (8 * lo), 0⟩

/-- A UCW performed at the home: its bytes are written, and its UCDONE tells of it (R213, R285). -/
def State.ucStore (s : State) (line : Nat) (p : Pay) : State :=
  (s.ucwAt line p.lineMask p.lineVal).wrote line (anySectors p.lineMask) p.owner true

/-- What an uncached access answers: a sector, an old value or a lane's success. -/
structure UcAnswer where
  data : BitVec 256
  pois : BitVec 8
  ok : Bool

/-- A UCR or UCA performed at the home on the line's value in the view of R213 (R214). A UCA that finds a poisoned byte in its old
value writes nothing (R372). A conditional store (opcode 0x04) writes when its granule's .uc reservation of the requesting lane is held
(R179, R214). (DEDUCED, log entry 19; unsafe.) -/
def State.ucAccess (s : State) (kind : ReqKind) (line : Nat) (p : Pay) (v : LineVal) : UcAnswer × State :=
  let sec := p.sector % 4
  match kind with
  | .ucr res =>
    let s1 := if res then
        { s with ucResv := (s.ucResv.filter fun x => !(x.1 == p.core && x.2.1 == p.grp && x.2.2.1 == p.lane)) ++
                    [(p.core, p.grp, p.lane, p.sector)] }
      else s
    (⟨v.sector sec, v.secPois sec, true⟩, s1)
  | .uca op sz =>
    let lo := p.addr % 128
    let n := sizeBytes sz
    let old := v.at lo n
    if op = 0x04 then
      if s.ucResv.contains (p.core, p.grp, p.lane, p.sector) && !s.protectedBy p.owner (· == p.sector) then
        (⟨0, 0, true⟩, (s.ucwAt line (byteMask lo n) (putAt lo (p.data.setWidth 64))).wrote line (anySectors (byteMask lo n)) none true)
      else (⟨0, 0, false⟩, s)
    else if v.poisAt lo n then (⟨old.setWidth 256, 1, true⟩, s)
    else
      let new := atomicNew op sz old (p.data.setWidth 64) ((p.data >>> 64).setWidth 64)
      (⟨old.setWidth 256, 0, true⟩, (s.ucwAt line (byteMask lo n) (putAt lo new)).wrote line (anySectors (byteMask lo n)) p.owner true)
  | _ => (⟨0, 0, true⟩, s)

/-- The transaction closes; its slot is freed and its epoch advanced (R205, R207). -/
def State.closeTxn (s : State) (line : Nat) : State :=
  s.onHome line fun h =>
    let slot := (h.txn? line).bind (·.slot)
    { h with txns := h.txns.filter (·.line != line),
             slots := match slot with
               | some n => let r := h.slots.get n .init; h.slots.put n { SlotRec.init with ep := r.ep + 1 }
               | none => h.slots }

/-- 16 B data segments of a UCDONE (R254). -/
def doneSegs : ReqKind → Nat
  | .ucr _ => 2
  | .uca _ _ => 1
  | _ => 0

/-- The UCDONE of the open transaction, which closes (R205, R213). -/
def State.ucDone (s : State) (t : Txn) (a : UcAnswer) : State :=
  (s.closeTxn t.line).send (.ucdone ⟨t.line, t.who⟩ a.data a.pois a.ok (doneSegs t.kind) 0)

/-- The transaction waits for the requester's CMP. -/
def State.waitCmp (s : State) (line : Nat) : State := s.onTxn line fun t => { t with wait := .cmp }

/-- The transaction has sent its line's owner a forward, and waits for the CMP. -/
def State.forwardTo (s : State) (kind : FwdKind) (t : Txn) (o : Clu) (f : Floe) : State :=
  (s.onTxn t.line fun t => { t with wait := .cmp, fwd := some o }).send (.fwd kind t.line o ⟨t.line, t.who⟩ f)

/-- The line's data is at hand, and the transaction takes the step that needed it (R212, R213). -/
def State.gotLine (s : State) (t : Txn) (v : LineVal) : State :=
  let e := s.dirOf t.line
  let k := (whoClu t.who).getD 0
  let r : Req := ⟨t.line, t.who⟩
  match t.kind with
  | .rds =>
    if e.dst == .unc then ((s.setDir t.line (dirOwn k)).waitCmp t.line).send (.data r .e v.data v.pois)
    else ((s.setDir t.line (e.addSharer k)).waitCmp t.line).send (.data r .s v.data v.pois)
  | .rdx => ((s.setDir t.line (dirOwn k)).waitCmp t.line).send (.data r .m v.data v.pois)
  | .upg => ((s.setDir t.line (dirOwn k)).waitCmp t.line).send (.data r .m v.data v.pois)
  | .ucr res => let a := s.ucAccess (.ucr res) t.line t.pay v; a.2.ucDone t a.1
  | .uca op sz => let a := (s.setDir t.line dirUnc).ucAccess (.uca op sz) t.line t.pay v; a.2.ucDone t a.1
  | _ => s

/-- The transaction asks the stack: for its line's data, or for the directory entry. The buffers' bytes are taken now (R287). -/
def State.askStack (s : State) (line : Nat) (wait : TxnWait) : State :=
  let b := s.bufs line
  (s.onTxn line fun t => { t with wait := wait }).onHome line fun h =>
    { h with rq := h.rq ++ [{ StackReq.init with line := line, serial := h.stackSerial, since := s.tb.now, mask := b.mask,
                                                 data := b.data, pois := b.pois }],
             stackSerial := h.stackSerial + 1 }

/-- The step that needs the line's data: with what the directory's read has already brought, from the eviction buffer, or once the stack
has answered (R198, R208). -/
def State.withLine (s : State) (t : Txn) (v : Option LineVal) : State :=
  match v with
  | some v => s.gotLine t v
  | none =>
    match (s.homeOfLine t.line).evFind t.line with
    | some e => s.gotLine t ⟨e.data, e.pois⟩
    | none => s.askStack t.line .read

/-- The uncached access of the open transaction, once every recall it needs is done (R213). -/
def State.ucFinish (s : State) (t : Txn) (v : Option LineVal) : State :=
  match t.kind with
  | .ucw => ((s.setDir t.line dirUnc).ucStore t.line t.pay).ucDone t ⟨0, 0, true⟩
  | _ => s.withLine t v

/-- The grant of a coherent request once every other holder is invalidated (R210, R212). An UPG takes ownership without data when its
requester holds the line and no other cluster owns it; from another sharer of an owned line it is served as a RDX.
(DEDUCED, log entry 18; unsafe.) -/
def State.grantStep (s : State) (t : Txn) (f : Floe) (v : Option LineVal) : State :=
  let e := s.dirOf t.line
  let me := (whoClu t.who).getD 0
  let grant : State := ((s.setDir t.line (dirOwn me)).waitCmp t.line).send (.grant ⟨t.line, t.who⟩)
  let fetch : State := match e.owner with
    | some o => if o = me then grant else (s.setDir t.line (dirOwn me)).forwardTo .fwdX t o f
    | none => s.withLine t v
  match t.kind with
  | .rdz => grant
  | .upg => if t.hadCopy && (e.owner.isNone || e.owner == some me) then grant else fetch
  | .rdx => fetch
  | _ => s

/-- The slice of a requester holds the line in S or O. (DEDUCED, log entry 18; unsafe.) -/
def State.hasCopy (s : State) (w : Who) (line : Nat) : Bool :=
  match whoClu w with
  | none => false
  | some k =>
    match (s.clu k).line? line with
    | some l => l.st == .s || l.st == .o
    | none => false

/-- The messages go out and the transaction waits for as many acknowledgements; with none to wait for, `go` follows at once. -/
def State.await (s : State) (t : Txn) (wait : TxnWait) (ms : List Msg × Nat) (go : State) : State :=
  if ms.1.isEmpty then go
  else ms.1.foldl State.send (s.onTxn t.line fun t => { t with wait := wait, acks := ms.2 })

/-- The first step of an open transaction whose directory entry the home holds (R205, R212). `v` is the line, when the entry came with
it. A bad entry is recovered first, by RCL_I to all 16 columns (R376). (DEDUCED, log entry 17; unsafe.) -/
def State.firstStep (s : State) (t : Txn) (v : Option LineVal) : State :=
  let line := t.line
  let f := (s.locOf line).floe
  let e := s.dirOf line
  let me := (whoClu t.who).toList
  let own := e.owner.toList
  if e.bad then
    s.await t .recover ((List.range 16).map fun c => Msg.rclCol line c f, 16 * colCount) s
  else
    match t.kind with
    | .rds =>
      (match e.owner with
        | none => s.withLine t v
        | some o => (if e.dst == .own then s else s.setDir line (e.addSharer ((whoClu t.who).getD 0))).forwardTo .fwdS t o f)
    | .ucr _ => s.await t .recall (own.map fun o => .fwd .rclS line o ⟨line, t.who⟩ f, own.length) (s.ucFinish t v)
    | .ucw =>
      let i := s.invTo line e own f
      s.await t .recall (i.1 ++ own.map fun o => .fwd .rclI line o ⟨line, t.who⟩ f, i.2 + own.length) (s.ucFinish t v)
    | .uca _ _ =>
      let i := s.invTo line e own f
      s.await t .recall (i.1 ++ own.map fun o => .fwd .rclI line o ⟨line, t.who⟩ f, i.2 + own.length) (s.ucFinish t v)
    | .wbk => s.closeTxn line
    | .rdz =>
      let i := s.invTo line e (me ++ own) f
      let o := own.filter fun k => !me.contains k
      s.await t .acks (i.1 ++ o.map fun k => .inv line k f, i.2 + o.length) (s.grantStep t f v)
    | _ => s.await t .acks (s.invTo line e (me ++ own) f) (s.grantStep t f v)

/-- Opens a transaction on a line (R205): its first step, or, when the directory cache misses, the read of the entry (R198). -/
def State.openTxn (s : State) (kind : ReqKind) (r : Req) (pay : Pay) (slot : Option Nat) : State :=
  let t : Txn := { Txn.init with line := r.line, kind := kind, who := r.who, slot := slot, pay := pay, hadCopy := s.hasCopy r.who r.line }
  let s1 := s.onHome r.line fun h => { h with txns := h.txns ++ [t] }
  if ((s.homeOfLine r.line).cached r.line).isSome then s1.firstStep t none else s1.askStack r.line .dir

/-- What a stack read brings to the transaction that waits for it (R198, R289); an eviction-buffer entry that has come in the meantime goes
before it (R208). -/
def State.stackAnswers (s : State) (t : Txn) (v : LineVal) (entryBad : Bool) : State :=
  let v1 := (((s.homeOfLine t.line).evFind t.line).map fun e => (⟨e.data, e.pois⟩ : LineVal)).getD v
  match t.wait with
  | .read => s.gotLine t v1
  | .dir => (s.entryRead t.line entryBad).firstStep t (some v1)
  | _ => s

/-- A protection of kind .uc holds a granule of the line (R182). -/
def State.protectsUc (s : State) (line : Nat) : Bool :=
  s.cores.entries.any fun c => c.2.groups.entries.any fun g =>
    match g.2.prot with
    | some pr => pr.uc && pr.sector / 4 == line
    | none => false

/-- Whether a request must wait for another agent's protection (R182): a store, atomic or LDR for its granule, a request for ownership
for its line. A conditional store is tried at once, and fails. -/
def State.deferred (s : State) (kind : ReqKind) (line : Nat) (p : Pay) : Bool :=
  match kind with
  | .ucr false => false
  | .uca 0x04 _ => false
  | .ucr true => s.protectedBy p.owner (· == p.sector)
  | .ucw => s.protectedBy p.owner (· == p.sector)
  | .uca _ _ => s.protectedBy p.owner (· == p.sector)
  | .rds => false
  | _ => s.protectsUc line

/-- The lowest free credit slot of a home (R206). -/
def Home.freeSlot (h : Home) : Option Nat := (List.range 1024).find? fun n => !(h.slots.get n .init).used

/-- Refuses a request with a NACK that carries a credit; with no slot free the request waits in the ingress: none (R206). -/
def State.refuse (s : State) (r : Req) (rec_ : SlotRec) : Option State :=
  let h := s.homeOfLine r.line
  let f := (s.locOf r.line).floe
  match h.freeSlot with
  | none => none
  | some n =>
    let ep := (h.slots.get n .init).ep
    let s1 := s.onHome r.line fun h =>
      { h with slots := h.slots.put n { rec_ with ep := ep, used := true, order := h.nackSerial, arrived := false, req := r },
               nackSerial := h.nackSerial + 1, nacks := h.nacks + 1 }
    some (s1.send (.nack r f n ep rec_.isWbd))

/-- The home can act on the line: it exists and its controller is not in STOP (R284, R296). -/
def State.homeActs (s : State) (line : Nat) : Bool := s.lineOk line && s.hbmRuns line

/-- What the ordering stage does with a message: it serves it, holds it and what follows it in the ingress, or sets it aside. -/
inductive Served where
  | done (s : State)
  | hold
  | aside (s : State)

def Served.ofOption : Option State → Served
  | some s => .done s
  | none => .hold

def sameModule : Who → Who → Bool
  | .remote m _ _ _, .remote m' _ _ _ => m == m'
  | _, _ => false

/-- A refused request of the same other module for the line, refused before `n`, has not been served: its accesses to one address keep
their order (R187). -/
def Home.refusedBefore (h : Home) (r : Req) (n : Nat) : Bool :=
  h.slots.vals.any fun p => p.used && !p.isWbd && p.req.line == r.line && sameModule p.req.who r.who && decide (p.order < n)

/-- A request is taken by the ordering stage (R204 to R206): held during a device reset, when only other modules send any (R385), and while 256 transactions are open, set aside while a protection defers it
(R182), refused while its line is busy. -/
def State.accept (s : State) (kind : ReqKind) (r : Req) (pay : Pay) : Served :=
  let h := s.homeOfLine r.line
  if !s.lineOk r.line then .done s
  else if s.deferred kind r.line pay then .aside s
  else if s.fe.rstBusy || 256 ≤ h.txns.length then .hold
  else if (h.txn? r.line).isSome || !(h.waiting r.line).isEmpty || h.refusedBefore r h.nackSerial then .ofOption (s.refuse r { SlotRec.init with kind := kind, pay := pay })
  else .done (s.openTxn kind r pay none)

/-- A forward of the line to cluster `k` is outstanding, so that the home applies the CMP before a writeback of it (R209). -/
def Home.fwdPending (h : Home) (line : Nat) (k : Clu) : Bool :=
  match h.txn? line with
  | some t => t.wait == .cmp && t.fwd == some k
  | none => false

/-- A read of the line's directory entry alone, for a writeback; one read serves every writeback and transaction that waits for it
(R198). -/
def State.askEntry (s : State) (line : Nat) : State :=
  let h := s.homeOfLine line
  if (h.rq.any fun r => r.line == line && r.entry) || (h.txn? line).any (·.wait == .dir) then s
  else
    s.onHome line fun h =>
      { h with rq := h.rq ++ [{ StackReq.init with line := line, serial := h.stackSerial, since := s.tb.now, entry := true }],
               stackSerial := h.stackSerial + 1 }

/-- The recovery of a bad entry that a writeback has found, as a transaction of its own (R376). (DEDUCED, log entry 18; unsafe.) -/
def State.openRecovery (s : State) (r : Req) : State :=
  let t : Txn := { Txn.init with line := r.line, kind := .wbk, who := r.who }
  (s.onHome r.line fun h => { h with txns := h.txns ++ [t] }).firstStep t none

/-- What a writeback of a line waits for before its directory entry is known and good: the read of the entry (R198), or its recovery (R376);
none when it is. -/
def State.entryWait (s : State) (r : Req) : Option State :=
  let h := s.homeOfLine r.line
  match h.cached r.line with
  | none => some (s.askEntry r.line)
  | some e => if !e.bad then none else if (h.txn? r.line).isSome || 256 ≤ h.txns.length then some s else some (s.openRecovery r)

/-- The home absorbs a victim line (R208), or discards it when the sender is not the owner (R209). A full eviction buffer
refuses it with a credit (R206). One whose entry the directory cache does not hold waits for its read (R198). `slot` is the slot of a
retry. -/
def State.absorb (s : State) (r : Req) (w : WbEntry) (slot : Option Nat) : Served :=
  let line := r.line
  let h := s.homeOfLine line
  let e := s.dirOf line
  let k := (whoClu r.who).getD 0
  let free (s : State) : State := match slot with
    | some n => s.onHome line fun h => { h with slots := h.slots.put n { SlotRec.init with ep := (h.slots.get n .init).ep + 1 } }
    | none => s
  if h.fwdPending line k then .aside s
  else
    match s.entryWait r with
    | some s1 => .aside s1
    | none =>
      if e.owner != some k then .done (free (s.send (.wback line k)))
      else if (h.evFind line).isNone && 256 ≤ h.evb.length then
        (match slot with
          | some _ => .hold
          | none => .ofOption (s.refuse r { SlotRec.init with isWbd := true, wb := w }))
      else
        let s1 := s.onHome line fun h => h.evPut line ⟨w.data, w.pois⟩ w.dirty
        .done (free ((s1.setDir line e.dropOwner).send (.wback line k)))

/-- A clean eviction: the sender leaves as owner (R209, R212). -/
def State.evict (s : State) (r : Req) : Served :=
  let k := (whoClu r.who).getD 0
  let e := s.dirOf r.line
  if (s.homeOfLine r.line).fwdPending r.line k then .aside s
  else
    match s.entryWait r with
    | some s1 => .aside s1
    | none =>
      let s1 := if e.owner == some k then s.setDir r.line e.dropOwner else s
      .done (s1.send (.wback r.line k))

/-- The ordering stage of a home takes a message of REQ (R204). -/
def State.order (s : State) : Msg → Served
  | .req k r p => s.accept k r p
  | .wbd r w => s.absorb r w none
  | .evc r => s.evict r
  | _ => .done s

/-- The home serves the waiting retries of idle lines, in the order their NACKs were sent (R207). -/
def State.pumpSlots : Nat → Floe → State → State
  | 0, _, s => s
  | n + 1, f, s =>
    let h := s.home f
    let due := h.slots.entries.filter fun p =>
      p.2.used && p.2.arrived && !p.2.isWbd && (h.txn? p.2.req.line).isNone &&
        !s.deferred p.2.kind p.2.req.line p.2.pay && !h.refusedBefore p.2.req p.2.order
    if 256 ≤ h.txns.length then s
    else
      match due with
      | [] => s
      | w :: ws =>
        let p := ws.foldl (fun a b => if b.2.order < a.2.order then b else a) w
        let s1 := s.setHome f { h with slots := h.slots.put p.1 { p.2 with arrived := false } }
        pumpSlots n f (s1.openTxn p.2.kind p.2.req p.2.pay (some p.1))

/-- Retries of refused writebacks are absorbed once they can be (R207). -/
def State.pumpWbds (s : State) (f : Floe) : State :=
  ((s.home f).slots.entries.filter fun p => p.2.used && p.2.arrived && p.2.isWbd).foldl (fun s p =>
    match s.absorb p.2.req p.2.wb (some p.1) with
    | .done s' => s'
    | .aside s' => s'
    | .hold => s) s

/-- Messages that were set aside are taken again. -/
def State.pumpAside (s : State) (f : Floe) : State :=
  (s.home f).parked.foldl (fun s m =>
    match s.order m with
    | .done s' => s'.setHome f { s'.home f with parked := (s'.home f).parked.erase m }
    | .aside s' => s'
    | .hold => s) s

/-- The ingress gives up its messages in the order they arrived, as far as the ordering stage takes them (R204, R205). -/
def State.pumpIngress : Nat → Floe → State → State
  | 0, _, s => s
  | n + 1, f, s =>
    match (s.home f).ingress with
    | [] => s
    | m :: rest =>
      match s.order m with
      | .hold => s
      | .aside s' => pumpIngress n f (s'.setHome f { s'.home f with ingress := rest, parked := (s'.home f).parked ++ [m] })
      | .done s' => pumpIngress n f (s'.setHome f { s'.home f with ingress := rest })

/-- The home goes on with what waits: retries ahead of later requests for their lines (R207), then what was set aside, then its
ingress. -/
def State.pumpHome (s : State) (f : Floe) : State :=
  let s1 := ((s.pumpSlots 1024 f).pumpWbds f).pumpAside f
  State.pumpIngress (s1.home f).ingress.length f s1

/-- A message of REQ reaches its home's ingress: behind those that the home holds there, or at the ordering stage (R204). -/
def State.arrive (s : State) (line : Nat) (m : Msg) : State :=
  let f := (s.locOf line).floe
  let put (s : State) : State := s.setHome f { s.home f with ingress := (s.home f).ingress ++ [m] }
  if !(s.home f).ingress.isEmpty then put s
  else
    match s.order m with
    | .hold => put s
    | .aside s' => s'.setHome f { s'.home f with parked := (s'.home f).parked ++ [m] }
    | .done s' => s'

/-- Takes the first message in flight that satisfies `p`. -/
def takeMsg (p : Msg → Bool) : List Msg → Option (Msg × List Msg)
  | [] => none
  | m :: t => if p m then some (m, t) else (takeMsg p t).map fun r => (r.1, m :: r.2)

/-- A message command: `act` answers the new state from the message and the state without it, or none while the message
must wait. -/
def State.onMsg (s : State) (p : Msg → Bool) (act : Msg → State → Option State) : State :=
  match takeMsg p s.net with
  | none => s
  | some (m, rest) => (act m { s with net := rest }).getD s

/-- The sender of a REQ message, and its line. -/
def reqFrom : Msg → Option (Nat × Nat)
  | .req _ r _ => some (fromWho r.who, r.line)
  | .wbd r _ => some (fromWho r.who, r.line)
  | .evc r => some (fromWho r.who, r.line)
  | _ => none
where
  fromWho : Who → Nat
    | .clu k _ _ => k.toNat
    | .remote m _ _ _ => 16384 + m.toNat

/-- The first REQ message that satisfies `p`, unless an older one of the same sender for the same line is still on its way: the mesh keeps
the order of one sender's messages to one home (R187, R221). (DEDUCED, log entry 67; unsafe.) -/
def takeReq (p : Msg → Bool) (older : List Msg) : List Msg → Option Msg
  | [] => none
  | m :: t => if p m then (if older.any fun o => reqFrom o == reqFrom m then none else some m) else takeReq p (older ++ [m]) t

/-- A REQ command: the message reaches its home. One that the home already holds is taken when it can be. -/
def State.onReq (s : State) (line : Nat) (p : Msg → Bool) : State :=
  match takeReq p [] s.net with
  | some m => ({ s with net := s.net.erase m }).arrive line m
  | none => s.pumpHome (s.locOf line).floe

def isReq (k : ReqKind → Bool) (r : Req) : Msg → Bool
  | .req k' r' _ => k k' && r' == r
  | _ => false

def isUcr : ReqKind → Bool
  | .ucr _ => true
  | _ => false
def isUca : ReqKind → Bool
  | .uca _ _ => true
  | _ => false

def execRds (r : Req) (s : State) : Host.Outcome State Fault Refusal := .next (s.onReq r.line (isReq (· == .rds) r))
def execRdx (r : Req) (s : State) : Host.Outcome State Fault Refusal := .next (s.onReq r.line (isReq (· == .rdx) r))
def execUpg (r : Req) (s : State) : Host.Outcome State Fault Refusal := .next (s.onReq r.line (isReq (· == .upg) r))
def execRdz (r : Req) (s : State) : Host.Outcome State Fault Refusal := .next (s.onReq r.line (isReq (· == .rdz) r))
def execUcr (r : Req) (s : State) : Host.Outcome State Fault Refusal := .next (s.onReq r.line (isReq isUcr r))
def execUcw (r : Req) (s : State) : Host.Outcome State Fault Refusal := .next (s.onReq r.line (isReq (· == .ucw) r))
def execUca (r : Req) (s : State) : Host.Outcome State Fault Refusal := .next (s.onReq r.line (isReq isUca r))

def isWbd (r : Req) : Msg → Bool
  | .wbd r' _ => r' == r
  | _ => false

def isEvc (r : Req) : Msg → Bool
  | .evc r' => r' == r
  | _ => false

def execWbd (r : Req) (s : State) : Host.Outcome State Fault Refusal := .next (s.onReq r.line (isWbd r))
def execEvc (r : Req) (s : State) : Host.Outcome State Fault Refusal := .next (s.onReq r.line (isEvc r))

/-- A retry arrives: with a stale slot epoch it is dropped and counted; otherwise it waits in its slot until the line is
free, and a refused writeback until the eviction buffer has room (R203, R207). -/
def State.retry (s : State) (home : Floe) (slot : Nat) (ep : BitVec 8) : State :=
  let h := s.home home
  let rec_ := h.slots.get slot .init
  if !rec_.used || rec_.ep != ep then s.setHome home { h with stale := satAdd h.stale 1 }
  else (s.setHome home { h with slots := h.slots.put slot { rec_ with arrived := true } }).pumpHome home

def execRty (home : Floe) (slot : BitVec 10) (ep : BitVec 8) (s : State) : Host.Outcome State Fault Refusal :=
  .next (s.onMsg (fun m => match m with | .rty h n e _ _ => h == home && n == slot.toNat && e == ep | _ => false)
    fun m s => match m with
      | .rty h n e _ _ => some (s.retry h n e)
      | _ => none)

/-! ### Forwards, recalls and invalidations at a slice -/

/-- What a slice answers a forward or recall from: its line, or the entry of its writeback buffer with the M-row action
(R211). -/
inductive HeldAt where
  | line (l : L2Line)
  | buffer (w : WbEntry)
  | none

def Cluster.heldAt (c : Cluster) (line : Nat) : HeldAt :=
  match c.wb? line with
  | some w => .buffer w
  | Option.none =>
    match c.line? line with
    | some l => .line l
    | Option.none => .none

/-- The slice drops its copy. -/
def Cluster.drop (c : Cluster) (line : Nat) : Cluster := c.upd line fun l => { l with st := .i, age := 3 }

/-- A line leaves the slice, for the drain of R197 or to be fetched again after a parity failure (R370): M and O with WBD, E with EVC, S dropped.
It stays while a request for it is out or the writeback buffer is full. -/
def State.drainLine (s : State) (c : Clu) (w : Nat) (l : L2Line) : State :=
  let k := s.clu c
  if (k.missOf l.line).isSome then s
  else
    let gone (s : State) : State := s.setClu c { s.clu c with l2 := (s.clu c).l2.del w }
    let s0 := s.evictResv c l.line
    if l.st == .i || l.st == .s then gone s0
    else if 8 ≤ k.wbuf.length then s
    else
      let e : WbEntry := { line := l.line, st := l.st, data := l.data, dirty := l.dirty, pois := l.pois }
      let s1 := gone s0
      let s2 := s1.setClu c { s1.clu c with wbuf := (s1.clu c).wbuf ++ [e] }
      let r : Req := ⟨l.line, .clu c 0 0⟩
      if l.st == .e then s2.send (.evc r) else s2.send (.wbd r e)

/-- A group of the cluster waits for a line that the slice has been granted and has not used it yet (R211). -/
def State.unused (s : State) (k : Clu) (line : Nat) : Bool :=
  s.cores.entries.any fun c => cluOf (BitVec.ofNat 20 c.1) == k &&
    (match c.2.launch with
      | some l => !(s.launches.get l .init).stopping
      | none => false) &&
    c.2.ucOut.any fun o => !o.uc && !o.store && fieldN o.addr 0 49 / 128 == line

/-- A response for the line has come to the slice and is not installed yet. -/
def Cluster.filling (c : Cluster) (line : Nat) : Bool := c.miss.vals.any fun m => m.line == line && m.fill.isSome

/-- The slice defers its answer: a granule of the line is protected (R210), or the line's grant is still to be installed or used
(R211). -/
def State.defers (s : State) (k : Clu) (line : Nat) : Bool :=
  s.protectsLine k line || (s.clu k).filling line || (holdsOwned (s.clu k) line && s.unused k line)

/-- The owner sends the line to the requester and keeps a copy in S or O (FWD_S), or does not (FWD_X) (R211). None while it defers the
answer, or while the line's grant has not arrived. -/
def State.forward (s : State) (x : Bool) (line : Nat) (k : Clu) (r : Req) : Option State :=
  let c := s.clu k
  if s.defers k line then none
  else
    match c.heldAt line with
    | .none => none
    | .buffer w =>
      let s1 := if x then s else
        s.setClu k { c with wbuf := c.wbuf.map fun y => if y.line = line then { y with st := .o } else y }
      some (s1.send (.dataF r w.data true (if x then w.dirty else 0) w.pois x))
    | .line l =>
      let dirty := l.st == .m || l.st == .o
      if x then some ((s.setClu k (c.drop line)).send (.dataF r l.data dirty l.dirty l.pois true))
      else
        some ((s.setClu k (c.upd line fun y => { y with st := if dirty then .o else .s })).send
          (.dataF r l.data dirty 0 l.pois false))

/-- The owner returns dirty data to the home and keeps an S copy (RCL_S), or does not (RCL_I) (R211). -/
def State.recall (s : State) (inv : Bool) (line : Nat) (k : Clu) (f : Floe) : Option State :=
  let c := s.clu k
  if s.defers k line then none
  else
    match c.heldAt line with
    | .none => some (s.send (.ack line k 1 none 0 f))
    | .buffer w => some (s.send (.ack line k 1 (some w.data) w.pois f))
    | .line l =>
      let dirty := l.st == .m || l.st == .o
      let s1 := s.setClu k (if inv then c.drop line else c.upd line fun y => { y with st := .s, dirty := 0 })
      some (s1.send (.ack line k 1 (if dirty then some l.data else none) l.pois f))

/-- A sharer, or the owner under an RDZ, invalidates its copy and acknowledges; a slice with no copy acknowledges too
(R200, R211, R212). -/
def State.invalidate (s : State) (line : Nat) (k : Clu) (f : Floe) : Option State :=
  if s.defers k line then none else some ((s.setClu k ((s.clu k).drop line)).send (.ack line k 1 none 0 f))

/-- The clusters of a floe column that hold a copy of the line, or have been sent one. -/
def State.colHolders (s : State) (line col : Nat) : List Clu :=
  ((s.clus.entries.filter fun p => (p.2.find line).isSome || (p.2.wb? line).isSome || p.2.filling line).map fun p =>
    BitVec.ofNat 14 p.1).filter fun k => colOf k == col

/-- The cluster under which a column's combined ACK reports: the first of its first floe. -/
def colHead (col : Nat) : Clu := BitVec.ofNat 14 (1024 * col)

/-- A multicast INV: every cluster of the column drops its copy but the requester and the owner, which acknowledge without effect, and the
routers combine the acknowledgements into one (R200). None while a cluster of the column defers its answer. -/
def State.invalidateCol (s : State) (line col : Nat) (skip : List Clu) (f : Floe) : Option State :=
  let hs := (s.colHolders line col).filter fun k => !skip.contains k
  if hs.any fun k => s.defers k line then none
  else
    some ((hs.foldl (fun s k => s.setClu k ((s.clu k).drop line)) s).send
      (.ack line (colHead col) colCount none 0 f))

/-- A multicast RCL_I: a cluster of the column that holds the line in M or O returns its data, and the routers combine the other
answers into one (R376). -/
def State.recallCol (s : State) (line col : Nat) (f : Floe) : Option State :=
  let hs := s.colHolders line col
  if hs.any fun k => s.defers k line then none
  else
    let dirty := hs.filterMap fun k => match (s.clu k).heldAt line with
      | .buffer w => if w.st == .e then none else some (k, w.data, w.pois)
      | .line l => if l.st == .m || l.st == .o then some (k, l.data, l.pois) else none
      | .none => none
    let s1 := hs.foldl (fun s k => s.setClu k ((s.clu k).drop line)) s
    let s2 := dirty.foldl (fun s x => s.send (.ack line x.1 1 (some x.2.1) x.2.2 f)) s1
    some (s2.send (.ack line (colHead col) (colCount - dirty.length) none 0 f))

/-- The slice's answer to a message of FWD; none while it defers it. -/
def State.answerFwd (s : State) : Msg → Option State
  | .fwd .fwdS l k r _ => s.forward false l k r
  | .fwd .fwdX l k r _ => s.forward true l k r
  | .fwd .rclS l k _ f => s.recall false l k f
  | .fwd .rclI l k _ f => s.recall true l k f
  | .inv l k f => s.invalidate l k f
  | .invCol l c sk f => s.invalidateCol l c sk f
  | .rclCol l c f => s.recallCol l c f
  | _ => some s

/-- The slice answers what it has deferred, as far as it can now. -/
def State.pumpSlice (s : State) (k : Clu) : State :=
  (s.clu k).held.foldl (fun s m =>
    match s.answerFwd m with
    | some s' => s'.setClu k { s'.clu k with held := (s'.clu k).held.erase m }
    | none => s) s

/-- A message of FWD is consumed when it comes; the slice keeps one whose answer it defers (R202, R210, R211). A command for one that
it keeps has it try again. -/
def State.onFwd (s : State) (k : Clu) (p : Msg → Bool) : State :=
  match takeMsg p s.net with
  | none => s.pumpSlice k
  | some (m, rest) =>
    let s1 := { s with net := rest }
    (s1.answerFwd m).getD (s1.setClu k { s1.clu k with held := (s1.clu k).held ++ [m] })

def isFwd (kind : FwdKind) (line : Nat) (dst : Clu) : Msg → Bool
  | .fwd k l t _ _ => k == kind && l == line && t == dst
  | _ => false

/-- A RCL_I to the cluster, or the multicast to its column. -/
def isRclI (line : Nat) (dst : Clu) : Msg → Bool
  | .fwd .rclI l t _ _ => l == line && t == dst
  | .rclCol l c _ => l == line && c == colOf dst
  | _ => false

def isInv (line : Nat) (dst : Clu) : Msg → Bool
  | .inv l t _ => l == line && t == dst
  | .invCol l c _ _ => l == line && c == colOf dst
  | _ => false

def execFwdS (line : Nat) (dst : Clu) (s : State) : Host.Outcome State Fault Refusal := .next (s.onFwd dst (isFwd .fwdS line dst))
def execFwdX (line : Nat) (dst : Clu) (s : State) : Host.Outcome State Fault Refusal := .next (s.onFwd dst (isFwd .fwdX line dst))
def execRclS (line : Nat) (dst : Clu) (s : State) : Host.Outcome State Fault Refusal := .next (s.onFwd dst (isFwd .rclS line dst))
def execRclI (line : Nat) (dst : Clu) (s : State) : Host.Outcome State Fault Refusal := .next (s.onFwd dst (isRclI line dst))
def execInv (line : Nat) (dst : Clu) (s : State) : Host.Outcome State Fault Refusal := .next (s.onFwd dst (isInv line dst))

/-! ### Responses at a slice -/

def State.staleAt (s : State) (k : Clu) : State :=
  s.setClu k { s.clu k with stale := satAdd (s.clu k).stale 1 }

/-- The line that a miss entry has received is installed, when its set and the writeback buffer have room, and the stores that wait for
it are performed. A streaming fill enters with age 3, any other with age 0 (R192). -/
def State.tryInstall (s : State) (k : Clu) (tag : Nat) : State :=
  match (s.clu k).miss.get? tag with
  | none => s
  | some m =>
    match m.fill with
    | none => s
    | some x =>
      let l : L2Line := { line := m.line, st := x.st, data := x.data, dirty := x.dirty, pois := x.pois, age := if m.stream then 3 else 0 }
      match s.l2Place k l with
      | none => s
      | some s1 => ((s1.setClu k ((s1.clu k).freeMiss tag)).performStores k m.line).pumpSlice k

/-- A response that brings a line is consumed: its miss entry keeps the line until it is installed, and CMP answers the home
(R202, R205). -/
def State.filled (s : State) (r : Req) (k : Clu) (tag : BitVec 5) (m : Miss) (x : Fill) (cmpDirty : Bool) : State :=
  ((s.setClu k { s.clu k with miss := (s.clu k).miss.put tag.toNat { m with fill := some x, credit := false } }).send
    (.cmp r cmpDirty)).tryInstall k tag.toNat

/-- A response to a miss entry: dropped and counted when its epoch is stale (R203). -/
def State.respond (s : State) (r : Req) (act : Clu → BitVec 5 → Miss → State → State) : State :=
  match r.who with
  | .clu k tag ep =>
    match (s.clu k).missAt tag ep with
    | some m => if m.fill.isSome then s.staleAt k else act k tag m s
    | none => s.staleAt k
  | .remote _ _ _ _ => s

def execData (r : Req) (s : State) : Host.Outcome State Fault Refusal :=
  .next (s.onMsg (fun m => match m with | .data r' _ _ _ => r' == r | _ => false)
    fun m s => match m with
      | .data r st d p => some (s.respond r fun k tag ms s => s.filled r k tag ms ⟨st, d, 0, p⟩ false)
      | _ => none)

/-- Ownership without data: the held line becomes M, or a zero line is installed (R196, R211). -/
def State.granted (s : State) (r : Req) (k : Clu) (tag : BitVec 5) (m : Miss) : State :=
  let zero : Fill := ⟨.m, 0, 15, 0⟩
  match (s.clu k).line? r.line with
  | some l => s.filled r k tag m (if m.kind == .rdz then zero else ⟨.m, l.data, l.dirty, l.pois⟩) false
  | none => s.filled r k tag m zero false

def execGrant (r : Req) (s : State) : Host.Outcome State Fault Refusal :=
  .next (s.onMsg (fun m => match m with | .grant r' => r' == r | _ => false)
    fun m s => match m with
      | .grant r => some (s.respond r fun k tag ms s => s.granted r k tag ms)
      | _ => none)

def execDataF (r : Req) (s : State) : Host.Outcome State Fault Refusal :=
  .next (s.onMsg (fun m => match m with | .dataF r' _ _ _ _ _ => r' == r | _ => false)
    fun m s => match m with
      | .dataF r d dirty dsec p x =>
        some (s.respond r fun k tag ms s => s.filled r k tag ms ⟨if x then .m else .s, d, if x then dsec else 0, p⟩ dirty)
      | _ => none)

/-- The slice receives a refusal with a credit and sends its RTY at once (R206). The refusal names the request's miss entry and epoch, or
the line of a writeback that the buffer still holds; any other is stale (R203). -/
def State.refused (s : State) (r : Req) (home : Floe) (slot : Nat) (ep : BitVec 8) (wbd : Bool) : State :=
  match r.who with
  | .clu k tag e =>
    let c := (s.clu k).count 7 1
    if wbd then
      (if (c.wb? r.line).isSome then (s.setClu k c).send (.rty home slot ep .rds r) else s.staleAt k)
    else
      match c.missAt tag e with
      | some m =>
        if m.fill.isSome then s.staleAt k
        else (s.setClu k { c with miss := c.miss.put tag.toNat { m with credit := true } }).send (.rty home slot ep m.kind r)
      | none => s.staleAt k
  | .remote _ _ _ _ => s.send (.rty home slot ep .rds r)

def execNack (r : Req) (s : State) : Host.Outcome State Fault Refusal :=
  .next (s.onMsg (fun m => match m with | .nack r' _ _ _ _ => r' == r | _ => false)
    fun m s => match m with
      | .nack r f n ep w => some (s.refused r f n ep w)
      | _ => none)

/-- WBACK frees the writeback-buffer entry (R195), and lines that waited for room are installed. -/
def State.wbackAt (s : State) (line : Nat) (dst : Clu) : State :=
  let s1 := s.setClu dst { s.clu dst with wbuf := (s.clu dst).wbuf.filter (·.line != line) }
  (s1.clu dst).miss.keys.foldl (fun s t => s.tryInstall dst t) s1

/-! ### Acknowledgements and completions at the home -/

/-- The line recovered from a bad directory entry: the one dirty copy, or, when two return, a line with every word
poisoned; with none the eviction buffer or memory already holds it. The entry becomes UNC, the recovery counts in
FE_DIRERR, and the transaction that found it goes on, with no copy left at its requester (R376). -/
def State.recovered (s : State) (t : Txn) : State :=
  let s1 := match t.dirties with
    | [] => s
    | [d] => s.evIn t.line ⟨d, t.dirtyPois⟩ 15
    | d :: _ => s.evIn t.line ⟨d, BitVec.allOnes 32⟩ 15
  let s2 := s1.setDir t.line dirUnc
  let s3 := { s2 with fe := { s2.fe with dirErr := satAdd s2.fe.dirErr 1 } }
  let again (t : Txn) : Txn := { t with dirties := [], dirtyPois := 0, hadCopy := false }
  (s3.onTxn t.line again).firstStep (again t) none

/-- What follows when the last expected acknowledgement of a transaction has come. -/
def State.acksDone (s : State) (t : Txn) (f : Floe) : State :=
  match t.wait with
  | .acks => s.grantStep t f none
  | .recall =>
    let e := s.dirOf t.line
    let s1 := match t.kind with
      | .ucr _ => s.setDir t.line e.ownerToSharer
      | _ => s
    s1.ucFinish t none
  | .recover => s.recovered t
  | _ => s

/-- The home counts an acknowledgement; data returned by a recall enters the eviction buffer (R208, R210). -/
def State.acked (s : State) (line : Nat) (n : Nat) (d : Option LineData) (p : LinePoison) : State :=
  match (s.homeOfLine line).txn? line with
  | none => s.onHome line fun h => { h with stale := satAdd h.stale 1 }
  | some t =>
    let s1 : State := match d with
      | none => s
      | some x =>
        if t.wait == TxnWait.recover then
          s.onTxn line fun t => { t with dirties := t.dirties ++ [x], dirtyPois := t.dirtyPois ||| p }
        else s.evIn line ⟨x, p⟩ 15
    let s2 := s1.onTxn line fun t => { t with acks := t.acks - n }
    match (s2.homeOfLine line).txn? line with
    | some t' => if t'.acks = 0 then s2.acksDone t' (s2.locOf line).floe else s2
    | none => s2

def execAck (line : Nat) (src : Clu) (s : State) : Host.Outcome State Fault Refusal :=
  .next (s.onMsg (fun m => match m with | .ack l k _ _ _ _ => l == line && k == src | _ => false)
    fun m s => match m with
      | .ack l _ n d p _ => some ((s.acked l n d p).pumpHome (s.locOf l).floe)
      | _ => none)

/-- CMP closes the transaction. After a FWD_S to an owner in OWN, DIRTY decides between OWS and SHR (R205, R212). -/
def State.completed (s : State) (r : Req) (dirty : Bool) : State :=
  let stale : State := s.onHome r.line fun h => { h with stale := satAdd h.stale 1 }
  match (s.homeOfLine r.line).txn? r.line with
  | some t =>
    if t.who = r.who && t.wait == .cmp then
      let e := s.dirOf r.line
      let k := (whoClu r.who).getD 0
      let s1 := if t.kind == .rds && e.dst == .own && e.p0 != k then
          s.setDir r.line (if dirty then dirOwnShared e.p0 [k] else dirShared [e.p0, k])
        else s
      (s1.closeTxn r.line).pumpHome (s.locOf r.line).floe
    else stale
  | none => stale

def execCmp (r : Req) (s : State) : Host.Outcome State Fault Refusal :=
  .next (s.onMsg (fun m => match m with | .cmp r' _ => r' == r | _ => false)
    fun m s => match m with
      | .cmp r d => some (s.completed r d)
      | _ => none)

/-! ### Whole accesses of the front end, the host and firmware -/

/-- The line is at rest: it exists, no transaction is open on it, no retry of it waits, no slice has still to install it, and its
pseudo-channel can serve a read of it now, behind every older write of the line (R289, R290). A write of the line that came since the last
time code does not hold it back: it may be the accessing command's own, and that is taken as a whole step. (DEDUCED, log entry 8; unsafe.) -/
def State.lineRests (s : State) (line : Nat) : Bool :=
  s.homeActs line && ((s.homeOfLine line).txn? line).isNone && ((s.homeOfLine line).waiting line).isEmpty &&
    !(s.clus.vals.any (·.filling line)) && s.hasTurn ⟨line, (s.homeOfLine line).stackSerial, none⟩ &&
    !((s.homeOfLine line).wq.any fun e => e.line == line && e.since != s.tb.now)

/-- The clusters that share a line, for an access taken as a whole step: the precise ones, or every holder in the marked columns. -/
def State.sharersOf (s : State) (line : Nat) (e : DirEntry) : List Clu :=
  match e.dst with
  | .shc => (s.holders line).filter fun c => e.coarse.getLsbD (colOf c)
  | .owc => (s.holders line).filter fun c => e.coarse.getLsbD (colOf c) && c != e.p0
  | _ => e.sharers

/-- Recalls every L2 copy of a line to its home, as the transitions of R212 do: dirty data enters the eviction buffer;
`inv` invalidates every copy, otherwise an owner keeps an S copy. The accesses of the front end, the host and firmware are
taken as whole steps in which the messages of the recall pass. (DEDUCED, log entry 8; unsafe.) -/
def State.recallAll (s : State) (line : Nat) (inv : Bool) : State :=
  let e := s.dirOf line
  let take (all : Bool) (s : State) (k : Clu) : State :=
    let c := s.clu k
    match c.heldAt line with
    | .none => s
    | .buffer w =>
      if w.st == .e then s else s.evIn line ⟨w.data, w.pois⟩ w.dirty
    | .line l =>
      let s1 := s.setClu k (if all then c.drop line else c.upd line fun y => { y with st := .s, dirty := 0 })
      if l.st == .m || l.st == .o then s1.evIn line ⟨l.data, l.pois⟩ l.dirty else s1
  if e.bad then
    let dirty := (s.holders line).filter fun k => match (s.clu k).heldAt line with
      | .none => false
      | .buffer w => w.st != .e
      | .line l => l.st == .m || l.st == .o
    let s1 := (s.holders line).foldl (take true) s
    let s2 := if 1 < dirty.length then
        s1.onHome line fun h => { h with evb := h.evb.map fun x =>
          if x.line = line then { x with dirty := 15, pois := BitVec.allOnes 32 } else x }
      else s1
    let s3 := s2.setDir line dirUnc
    { s3 with fe := { s3.fe with dirErr := satAdd s3.fe.dirErr 1 } }
  else
    let s1 := match e.owner with
      | some o => take inv s o
      | none => s
    if inv then
      let s2 := (s1.sharersOf line e).foldl (fun s k => s.setClu k ((s.clu k).drop line)) s1
      s2.setDir line dirUnc
    else if e.owner.isSome then s1.setDir line e.ownerToSharer
    else s1

/-- A .uc load of a line by the front end, the host or firmware (R213). -/
def State.hostLine (s : State) (line : Nat) : LineVal × State :=
  let r := s.fetchDir line
  (r.2.recallAll line false).readLine line r.1

/-- A store of masked bytes of a line by such an agent: a UCW (R213). -/
def State.hostStore (s : State) (line : Nat) (mask : LineMask) (v : LineVal) : State :=
  ((((s.fetchDir line).2).recallAll line true).ucwAt line mask v).wrote line (anySectors mask) none true

/-- Every copy of a line is invalidated without returning its data, as an RDZ does (R196, R212). -/
def State.zeroLine (s : State) (line : Nat) : State :=
  ((s.holders line).foldl (fun s k => s.setClu k ((s.clu k).drop line)) s).setDir line dirUnc

/-- The grant of an RDZ to the slice that takes a line which the front end has written whole: the line enters it in M as a streaming fill, with the
bytes written, and the slice owns it (R192, R196, R212). Which slice takes it is a free value; one that does not run, has business with the
line or has no room takes none. (DEDUCED, log entry 8; unsafe.) -/
def State.zeroFill (s : State) (line : Nat) (v : LineVal) : State :=
  let t := s.take
  let k := Config.feSlice t.1
  let c := t.2.clu k
  if !c.runs || c.draining || t.2.excluded (floeOfClu k) || (c.missOf line).isSome || (c.wb? line).isSome then t.2
  else
    match t.2.l2Place k { line := line, st := .m, data := v.data, dirty := 15, pois := v.pois, age := 3 } with
    | none => t.2
    | some u => (u.setClu k ({ u.clu k with misses := (u.clu k).misses + 1 }.count 6 1)).setDir line (dirOwn k)

/-- A store of the front end in COPY or COMMIT: of a whole line an RDZ, after which a slice holds the line in M and its bytes are at the home too, where
a .nw load finds what COPY and COMMIT write; of fewer bytes a UCW (R155, R196, R213, R285). (DEDUCED, log entry 8; unsafe.) -/
def State.feStore (s : State) (line : Nat) (mask : LineMask) (v : LineVal) : State :=
  let s0 := (s.fetchDir line).2
  if mask = BitVec.allOnes 128 && !(s0.dirOf line).bad then
    (((s0.zeroLine line).ucwAt line mask v).wrote line (anySectors mask) none true).zeroFill line v
  else s.hostStore line mask v

/-- A streaming fill of the instruction cache: a line that the slice does not hold is read for it as a RDS, as a whole step, and enters
with age 3; a line that it holds is a hit (R191, R192, R212, R218). None while the line is not at rest, or its set or the writeback buffer has
no room. (DEDUCED, log entry 68; safe.) -/
def State.streamFill (s : State) (k : Clu) (line : Nat) : Option State :=
  let c := s.clu k
  if (c.line? line).isSome then some (s.setClu k (c.upd line fun l => { l with age := 0 }))
  else if (c.missOf line).isSome || (c.wb? line).isSome || !s.lineRests line then none
  else
    let d := s.fetchDir line
    let s0 := if (d.2.dirOf line).bad then d.2.recallAll line false else d.2
    let e := s0.dirOf line
    let enter (v : LineVal) (st : Moesi) (s : State) : Option State :=
      (s.l2Place k { line := line, st := st, data := v.data, dirty := 0, pois := v.pois, age := 3 }).map fun s =>
        s.setClu k ({ s.clu k with misses := (s.clu k).misses + 1 }.count 6 1)
    match e.owner with
    | some o =>
      (match (s0.clu o).line? line with
        | some l =>
          let dirty := l.st == .m || l.st == .o
          let s1 := s0.setClu o ((s0.clu o).upd line fun y => { y with st := if dirty then .o else .s })
          enter ⟨l.data, l.pois⟩ .s (s1.setDir line (if e.dst == .own then (if dirty then dirOwnShared o [k] else dirShared [o, k])
            else e.addSharer k))
        | none => none)
    | none =>
      let v := s0.readLine line d.1
      if e.dst == .unc then enter v.1 .e (v.2.setDir line (dirOwn k)) else enter v.1 .s (v.2.setDir line (e.addSharer k))

/-- The slice goes on with the fills of the instruction cache, as far as they can be made now (R218). -/
def State.pumpFills (s : State) (k : Clu) : State :=
  (s.clu k).fillq.foldl (fun s l =>
    match s.streamFill k l with
    | some s1 => s1.setClu k { s1.clu k with fillq := (s1.clu k).fillq.filter (· != l) }
    | none => s) s

def execWback (line : Nat) (dst : Clu) (s : State) : Host.Outcome State Fault Refusal :=
  .next (s.onMsg (fun m => match m with | .wback l t => l == line && t == dst | _ => false)
    fun m s => match m with
      | .wback l t => some ((s.wbackAt l t).pumpFills t)
      | _ => none)

/-- The lines that `n` bytes from an offset touch. -/
def linesOf (off n : Nat) : List Nat :=
  if n = 0 then [] else (List.range ((off + n - 1) / 128 - off / 128 + 1)).map (off / 128 + ·)

/-- Every touched line is at rest and no group protects a granule of one (R182, R210). -/
def State.rangeRests (s : State) (off n : Nat) : Bool :=
  (linesOf off n).all s.lineRests && !s.protectedBy none fun sec => off / 128 ≤ sec / 4 && sec / 4 ≤ (off + n - 1) / 128

/-- Bytes with the poison of the word each lies in. -/
structure Bytes where
  data : List Byte
  pois : List Bool
  deriving DecidableEq, Repr

/-- Reads bytes by .uc loads. -/
def State.readRange (s : State) (off n : Nat) : Bytes × State :=
  let r := (linesOf off n).foldl (fun (a : List (Nat × LineVal) × State) l =>
    let v := a.2.hostLine l; (a.1 ++ [(l, v.1)], v.2)) ([], s)
  let val (i : Nat) : LineVal := lookL r.1 ((off + i) / 128) ⟨0, 0⟩
  (⟨(List.range n).map fun i => (val i).data.extractLsb' (8 * ((off + i) % 128)) 8,
    (List.range n).map fun i => (val i).pois.getLsbD ((off + i) % 128 / 4)⟩, r.2)

/-- Writes bytes line by line, each by the store `put`; `pois` marks bytes whose word is written as poisoned. -/
def State.writeWith (put : State → Nat → LineMask → LineVal → State) (s : State) (off : Nat) (bs : List Byte) (pois : List Bool) : State :=
  (linesOf off bs.length).foldl (fun s l =>
    let lo := max off (128 * l)
    let hi := min (off + bs.length) (128 * l + 128)
    let part := (bs.drop (lo - off)).take (hi - lo)
    let pp := (List.range 32).foldl (fun (m : Nat) w =>
      if (List.range 4).any fun b =>
          let a := 128 * l + 4 * w + b
          off ≤ a && a < off + bs.length && pois.getD (a - off) false then m + 2 ^ w else m) 0
    put s l (byteMask (lo - 128 * l) (hi - lo))
      ⟨(ofBytes 1024 part) <<< (8 * (lo - 128 * l)), BitVec.ofNat 32 pp⟩) s

/-- Writes bytes by .uc stores. -/
def State.writeRange (s : State) (off : Nat) (bs : List Byte) (pois : List Bool) : State := s.writeWith State.hostStore off bs pois

/-- The front end's writes in COPY and COMMIT. -/
def State.copyRange (s : State) (off : Nat) (bs : List Byte) (pois : List Bool) : State := s.writeWith State.feStore off bs pois

def Bytes.anyPois (b : Bytes) : Bool := b.pois.any id
def Bytes.words (b : Bytes) : List Word := wordsOf b.data (b.data.length / 4)

end Sys2Proof.Machine
end

