-- ==== Sys2Proof/Machine/Xlate.lean ====
section
/-! DEFINITION. Translation of packet addresses (R328, R329, R338 to R344), and the front end's reads and writes through it. -/
namespace Sys2Proof.Machine

/-- An access of the front end: it waits for a line that is not at rest, fails with a code once it has made the reads of `s`, or answers. -/
inductive Acc (α : Type) where
  | wait
  | fail (c : Code) (s : State)
  | ok (a : α) (s : State)

def Acc.bind {α β : Type} (x : Acc α) (f : α → State → Acc β) : Acc β :=
  match x with
  | .wait => .wait
  | .fail c s => .fail c s
  | .ok a s => f a s

/-- An access made for its answer, which leaves the state to the caller. -/
def Acc.val {α : Type} (x : Acc α) : Option α :=
  match x with
  | .ok a _ => some a
  | _ => none

/-- The access waits. -/
def Acc.waits {α : Type} (x : Acc α) : Bool :=
  match x with
  | .wait => true
  | _ => false

/-- Whether HBM offsets `[off, off + n)` lie below the capacity and outside the closed golden region (R339). -/
def State.openRange (s : State) (off n : Nat) : Bool :=
  decide (off + n ≤ s.capacity) && (!s.eng.goldV || decide (off + n ≤ s.eng.goldBase))

/-- Whether `[off, off + n)` overlaps the KV pool (R347); an empty pool overlaps nothing. -/
def State.poolOverlap (s : State) (off n : Nat) : Bool :=
  s.fe.kvpNpage != 0 &&
    decide (off < s.fe.kvpBase.toNat + 65536 * s.fe.kvpNpage.toNat) && decide (s.fe.kvpBase.toNat < off + n)

/-- Reads bytes at an offset when its lines are at rest. -/
def State.takeRange (s : State) (off n : Nat) : Acc Bytes :=
  if s.rangeRests off n then let r := s.readRange off n; .ok r.1 r.2 else .wait

/-- Bytes covered by an entry of a level, and the size of the table it may point to (R341). -/
def levelSpan (l : Nat) : Nat := if l = 0 then 2 ^ 39 else if l = 1 then 2 ^ 30 else if l = 2 then 2 ^ 21 else 2 ^ 16

def tableSize (l : Nat) : Nat := if l = 3 then 256 else 4096

def levelIndex (l va : Nat) : Nat := va / levelSpan l % (if l = 3 then 32 else 512)

def pteValid (e : BitVec 64) : Bool := bitAt e 0
def pteLeaf (e : BitVec 64) : Bool := bitAt e 1
def pteW (e : BitVec 64) : Bool := bitAt e 2
def pteAddr (e : BitVec 64) : Nat := 256 * fieldN e 8 40
def pteRsvd (e : BitVec 64) : Bool := fieldN e 48 16 != 0 || fieldN e 3 5 != 0

/-- The structural conditions of R343 on a valid entry of level `l`. -/
def State.pteOk (s : State) (l : Nat) (e : BitVec 64) : Bool :=
  let size := if pteLeaf e then levelSpan l else tableSize (l + 1)
  !pteRsvd e &&
    !(pteLeaf e && l < 2) && !(!pteLeaf e && l == 3) && !(!pteLeaf e && pteW e) &&
    pteAddr e % size == 0 && decide (pteAddr e + size ≤ s.capacity) &&
    !(pteLeaf e && (s.poolOverlap (pteAddr e) size || !s.openRange (pteAddr e) size))

/-- The walk from a table of level `l` (R341, R343): the leaf's page, its size and W. A poisoned entry fails it (R372), and so does a
table in the closed golden region (R349). -/
def State.walkFrom : Nat → State → Nat → Nat → Nat → Acc (Nat × Nat × Bool)
  | 0, s, _, _, _ => .fail 0x0302 s
  | k + 1, s, l, tab, va =>
    if !s.openRange tab (tableSize l) then .fail 0x0302 s
    else
      (s.takeRange (tab + 8 * levelIndex l va) 8).bind fun b s =>
        let e : BitVec 64 := ofBytes 64 b.data
        if b.anyPois || !pteValid e || !s.pteOk l e then .fail 0x0302 s
        else if pteLeaf e then .ok (pteAddr e, levelSpan l, pteW e) s
        else walkFrom k s (l + 1) (pteAddr e) va

/-- A mapped page: its HBM offset, its size, and whether it may be written. -/
structure PageMap where
  off : Nat
  size : Nat
  w : Bool

/-- The page of a virtual address under a space: identity under space 0 (R339), the translation cache or a walk under a
tenant space (R341 to R344). (DESIGN CHOICE, log entry 40; safe.) -/
def State.page (s : State) (a : Asid) (va : Nat) : Acc PageMap :=
  if a = 0 then
    (if va < 2 ^ 48 && s.openRange va 1 then .ok ⟨va / 65536 * 65536, 65536, true⟩ s else .fail 0x0302 s)
  else
    match s.fe.xc.find? fun e => e.asid == a && decide (e.va ≤ va) && decide (va < e.va + e.size) with
    | some e => .ok ⟨e.pa, e.size, e.w⟩ s
    | none =>
      match s.spaces.get? a.toNat with
      | none => .fail 0x0302 s
      | some sp =>
        if 2 ^ 48 ≤ va || s.capacity < sp.root.toNat + 4096 || sp.root.toNat % 4096 ≠ 0 then .fail 0x0302 s
        else
          let s0 := { s with fe := { s.fe with walks := s.fe.walks + 1 } }
          (s0.walkFrom 4 0 sp.root.toNat va).bind fun r s =>
            let e : XcEntry := { asid := a, va := va / r.2.1 * r.2.1, size := r.2.1, pa := r.1, w := r.2.2 }
            let old := if 4096 ≤ s.fe.xc.length then s.fe.xc.drop 1 else s.fe.xc
            .ok ⟨r.1, r.2.1, r.2.2⟩ { s with fe := { s.fe with xc := old ++ [e] } }

/-- A piece of HBM: offset and length. -/
abbrev Piece := Nat × Nat

/-- The HBM pieces of `n` virtual bytes, page by page of 64 KiB; `w` asks for write permission (R329, R343). -/
def State.pieces (s : State) (a : Asid) (va n : Nat) (w : Bool) : Acc (List Piece) :=
  if n = 0 then .ok [] s
  else if 2 ^ 48 < va + n then .fail 0x0302 s
  else
    (List.range ((va + n - 1) / 65536 - va / 65536 + 1)).foldl (fun acc i =>
      acc.bind fun ps s =>
        let lo := max va (65536 * (va / 65536 + i))
        let hi := min (va + n) (65536 * (va / 65536 + i + 1))
        (s.page a lo).bind fun p s =>
          if w && !p.w then .fail 0x0302 s
          else
            let off := p.off + lo % p.size
            if !s.openRange off (hi - lo) then .fail 0x0302 s else .ok (ps ++ [(off, hi - lo)]) s) (.ok [] s)

/-- The probe of R329: the range translates, writable where it will be written. -/
def State.probe (s : State) (a : Asid) (va n : Nat) (w : Bool) : Acc Unit := (s.pieces a va n w).bind fun _ s => .ok () s

/-- Reads virtual bytes by .uc loads. -/
def State.vread (s : State) (a : Asid) (va n : Nat) : Acc Bytes :=
  (s.pieces a va n false).bind fun ps s =>
    ps.foldl (fun acc p => acc.bind fun b s =>
      (s.takeRange p.1 p.2).bind fun c s => .ok ⟨b.data ++ c.data, b.pois ++ c.pois⟩ s) (.ok ⟨[], []⟩ s)

/-- Writes virtual bytes, each piece by `put`. -/
def State.vput (put : State → Nat → List Byte → List Bool → State) (s : State) (a : Asid) (va : Nat) (bs : List Byte) (pois : List Bool) : Acc Unit :=
  (s.pieces a va bs.length true).bind fun ps s =>
    if ps.all fun p => s.rangeRests p.1 p.2 then
      let r := ps.foldl (fun (t : State × Nat) p =>
        (put t.1 p.1 ((bs.drop t.2).take p.2) ((pois.drop t.2).take p.2), t.2 + p.2)) (s, 0)
      .ok () r.1
    else .wait

/-- Writes virtual bytes by .uc stores. -/
def State.vwrite (s : State) (a : Asid) (va : Nat) (bs : List Byte) (pois : List Bool) : Acc Unit := s.vput State.writeRange a va bs pois

end Sys2Proof.Machine
end

