-- ==== Sys2Proof/Machine/HostPort.lean ====
section
/-! DEFINITION. The host port: accesses through BAR4 (R165, R372, R385, R416, R430, R451), its window and size, configuration requests (R416, R449) and
PERST# (R417), and the write of the KV pool settings (R347, R389). -/
namespace Sys2Proof.Machine

/-- The port carries memory requests: the module is powered, the port has been trained and is not in D3hot (R416, R448). -/
def State.portOpen (s : State) : Bool := s.pw.on && s.host.answers && !s.host.d3hot

/-- A write through BAR0 or BAR2 that a register's rules refuse (R389). -/
def State.hwErr (s : State) (bar2 : Bool) (off : Nat) : State :=
  if s.fe.hwV then s
  else { s with fe := { s.fe with hwV := true, hwBar := bar2, hwOff := BitVec.ofNat 26 off, hwCode := 0x0104 } }

def State.complete (s : State) (st : CplSt) (bs : List Byte) : State := { s with host := { s.host with cplSt := st, cpl := bs } }

/-- The port has logged an error: its class is marked in Device Status, and a message goes to the host when Device Control enables it. `cls` is
0 for a correctable, 1 for a non-fatal and 2 for a fatal error, with message codes 0x30, 0x31 and 0x33 (R452). (PRESUMED, log entry 51; unsafe.) -/
def HostIf.logged (h : HostIf) (cls : Nat) : HostIf :=
  { h with devSta := h.devSta ||| ((1#4) <<< cls),
           msgs := if h.devCtl.getLsbD cls then h.msgs ++ [if cls = 0 then 0x30 else if cls = 1 then 0x31 else 0x33] else h.msgs }

/-- A request completes as Unsupported Request and is logged (R451, R452). -/
def State.unsupported (s : State) : State :=
  { s with host := { (s.host.logged 1) with cplSt := .ur, cpl := [], aerUr := true, devSta := (s.host.logged 1).devSta ||| 8 } }

/-- Poisoned TLP Received and Uncorrectable Internal Error (R452). -/
def State.logPoisoned (s : State) : State := { s with host := { (s.host.logged 1) with aerPois := true } }
def State.logInternal (s : State) : State := { s with host := { (s.host.logged 2) with aerInt := true } }

/-- BAR4 reaches memory: READY, not in HOLD and not in a device reset (R385, R416, R430). -/
def State.bar4Open (s : State) : Bool := s.ready && !s.inHold && !s.fe.rstBusy

/-- The HBM offset of `n` bytes at a BAR4 offset, within the window (R451). -/
def State.bar4At (s : State) (off n : Nat) : Option Nat :=
  if n = 0 || 2 ^ s.host.barLog < off + n then none else some (s.fe.hwin.toNat + off)

/-- A BAR4 write: a .uc store at its home; a poisoned TLP's words are stored poisoned and logged (R165, R372, R452). None while a line is
not at rest. -/
def State.bar4Write (s : State) (a : Nat) (bytes : List Byte) (poisoned : Bool) : Option State :=
  let n := bytes.length
  if !s.bar4Open then some s
  else if !s.openRange a n then some s.unsupported
  else if !s.rangeRests a n then none
  else
    let s1 := s.writeRange a bytes (List.replicate n poisoned)
    some (if poisoned then s1.logPoisoned else s1)

/-- A BAR4 read: a .uc load; a completion with a poisoned word is a poisoned TLP (R165, R372). None while a line is not at rest. -/
def State.bar4Read (s : State) (a len : Nat) : Option State :=
  if !s.bar4Open then some (s.complete .ok (List.replicate len 0xFF))
  else if !s.openRange a len then some s.unsupported
  else if !s.rangeRests a len then none
  else
    let r := s.readRange a len
    some (r.2.complete (if r.1.anyPois then .poisoned else .ok) r.1.data)

/-- BAR2 reaches the pages other than those of the nunataks: READY and not in HOLD (R416, R430). -/
def State.bar2Open (s : State) : Bool := s.pw.on && s.ready && !s.inHold

/-- A write of FE_HWIN: BASE is set, or the write is rejected and FE_HWIN_ERR keeps E_RANGE (R451). -/
def feHwinWriteOp (v : BitVec 64) (s : State) : State :=
  let base := 2 ^ 30 * fieldN v 30 14
  let size := 2 ^ s.host.barLog
  if base % size != 0 || 2 ^ 44 < base + size then
    { s with fe := { s.fe with hwinErrV := true, hwinErrCode := if s.fe.hwinErrV then s.fe.hwinErrCode else 0x0104 } }
  else { s with fe := { s.fe with hwin := BitVec.ofNat 44 base } }

/-- FE_HWIN_WRITE: the host's write, through BAR2. -/
def execFeHwinWrite (v : BitVec 64) (s : State) : Host.Outcome State Fault Refusal := .next (if s.bar2Open then feHwinWriteOp v s else s)

/-! ### Configuration space

The header has the places that PCI Express gives it. Each capability register stands at a place of the device's own (Config.cfgPlace), and a word
that is neither reads 0. (PRESUMED, log entry 51; unsafe.) -/

/-- A word whose bits under `mask` are fixed, and free elsewhere. -/
def fixedBits (mask v free : Word) : Word := (v &&& mask) ||| (free &&& ~~~mask)

/-- The capability registers (R448). -/
def cfgRegs : List CfgReg :=
  [.pmHead, .pmCtl, .pcieHead, .devCap, .devCtl, .linkCap, .aerHead, .aerUnc, .aerCor, .aerCap, .rebarHead, .rebarCap, .rebarCtl, .marginHead]

/-- The capability register at a configuration word. -/
def cfgRegAt (o : Nat) : Option CfgReg := cfgRegs.find? fun r => (Config.cfgPlace r).toNat / 4 * 4 == o

/-- The address bits that a BAR register holds: BAR0 of 64 MiB, BAR2 of 16 MiB and BAR4 of its present size, each with its high half (R450). -/
def HostIf.barMask (h : HostIf) (i : Nat) : Word :=
  let size := if i / 2 = 0 then 26 else if i / 2 = 1 then 24 else h.barLog
  if i % 2 = 0 then (if size < 32 then BitVec.ofNat 32 (2 ^ 32 - 2 ^ size) else 0) else BitVec.ofNat 32 (2 ^ 32 - 2 ^ (size - 32))

/-- A BAR register: its address bits and, in the low half, the type: 64-bit, and prefetchable for BAR4 (R450). -/
def HostIf.barWord (h : HostIf) (i : Nat) : Word :=
  (h.bars.get i 0 &&& h.barMask i) ||| (if i % 2 = 1 then 0 else if i = 4 then 0xC else 4)

/-- A capability register: the fields that R448 to R452 settle, and free values in the others. Max Payload Size Supported is 512 B, ASPM is absent, and
the rate and width are 128 GT/s and x16; the sizes of BAR4 are 2^30 to 2^44. -/
def HostIf.capWord (h : HostIf) (r : CfgReg) (free : Word) : Word :=
  match r with
  | .pmHead => fixedBits 0xFF 0x01 free
  | .pmCtl => fixedBits 3 (if h.d3hot then 3 else 0) free
  | .pcieHead => fixedBits 0xFF 0x10 free
  | .devCap => fixedBits 7 2 free
  | .devCtl => (h.devSta.setWidth 32 <<< 16) ||| h.devCtl.setWidth 32
  | .linkCap => fixedBits 0xFFF 0x107 free
  | .aerHead => fixedBits 0xFFFF 0x0001 free
  | .aerUnc => flagAt 32 12 h.aerPois ||| flagAt 32 19 h.aerEcrc ||| flagAt 32 20 h.aerUr ||| flagAt 32 22 h.aerInt
  | .aerCor => h.aerCor
  | .aerCap => fixedBits 0x1E0 (0xA0 ||| flagAt 32 6 (h.ecrc.getLsbD 0) ||| flagAt 32 8 (h.ecrc.getLsbD 1)) free
  | .rebarHead => fixedBits 0xFFFF 0x0015 free
  | .rebarCap => 0x1FFFC000
  | .rebarCtl => fixedBits 0x3FE7 (BitVec.ofNat 32 (4 + 32 + 256 * (h.barLog - 20))) free
  | .marginHead => fixedBits 0xFFFF 0x0027 free

/-- A configuration word: the identifiers of R449, the BARs of R450, one function and no interrupt (R448), and the capability registers. -/
def HostIf.configWord (h : HostIf) (off : BitVec 12) (free : Word) : Word :=
  let o := off.toNat / 4 * 4
  if o = 0 then 0x0A011F7E else if o = 8 then 0x12000000 else if o = 0xC then fixedBits 0xFF0000 0 free
  else if 0x10 ≤ o && o < 0x28 then h.barWord (o / 4 - 4) else if o = 0x3C then fixedBits 0xFF00 0 free else if o < 0x40 then free
  else ((cfgRegAt o).map fun r => h.capWord r free).getD 0

/-- BAR4_RESIZE: 1 GiB to 16 TiB; BASE becomes 0 in the same step (R450, R451). -/
def State.resize (s : State) (log2 : Nat) : State :=
  if log2 < 30 || 44 < log2 then s else { s with host := { s.host with barLog := log2 }, fe := { s.fe with hwin := 0 } }

def bar4ResizeOp (log2 : BitVec 6) (s : State) : State := if s.pw.on && s.host.answers then s.resize log2.toNat else s

def execBar4Resize (log2 : BitVec 6) (s : State) : Host.Outcome State Fault Refusal := .next (bar4ResizeOp log2 s)

/-- A write of a capability register: D0 or D3hot, Device Control and its status bits, AER's status bits, each cleared by a 1, ECRC, and the size of
BAR4. The other registers keep what they hold. -/
def State.capWrite (s : State) (r : CfgReg) (v : Word) : State :=
  let h := s.host
  match r with
  | .pmCtl => if bits v 0 2 == (0#2) || bits v 0 2 == (3#2) then { s with host := { h with d3hot := bitAt v 0 } } else s
  | .devCtl => { s with host := { h with devCtl := bits v 0 16, devSta := h.devSta &&& ~~~bits v 16 4 } }
  | .aerUnc => { s with host := { h with
      aerPois := h.aerPois && !bitAt v 12, aerEcrc := h.aerEcrc && !bitAt v 19, aerUr := h.aerUr && !bitAt v 20,
      aerInt := h.aerInt && !bitAt v 22 } }
  | .aerCor => { s with host := { h with aerCor := h.aerCor &&& ~~~v } }
  | .aerCap => { s with host := { h with ecrc := flagAt 2 0 (bitAt v 6) ||| flagAt 2 1 (bitAt v 8) } }
  | .rebarCtl => s.resize (20 + fieldN v 8 6)
  | _ => s

/-- The errors that the port has logged since the last configuration request, of packets and flits that are no commands: correctable ones, and a failed
ECRC (R452). (DESIGN CHOICE, log entry 30; safe.) -/
def State.portErrors (s : State) (e : Word × Bool) : State :=
  let h := s.host
  let h1 := if e.1 = 0 then h else { (h.logged 0) with aerCor := h.aerCor ||| e.1 }
  { s with host := if e.2 then { (h1.logged 1) with aerEcrc := true } else h1 }

/-- CONFIG_REQUEST: a read, or with `write` a write, of a configuration word. It is answered once the port has first answered in stage 1, with
Request Retry Status before (R416, R448 to R452). -/
def configRequestOp (off : BitVec 12) (write : Option Word) (s : State) : State :=
  if !s.pw.on then s
  else if !s.host.answers then s.complete .crs []
  else
    let t := s.take
    let s1 := t.2.portErrors (Config.portErrors t.1)
    let o := off.toNat / 4 * 4
    match write with
    | none => s1.complete .ok (toBytes 4 (s1.host.configWord off (Config.freeWord t.1 0)))
    | some v =>
      let s2 :=
        if 0x10 ≤ o && o < 0x28 then { s1 with host := { s1.host with bars := s1.host.bars.put (o / 4 - 4) (v &&& s1.host.barMask (o / 4 - 4)) } }
        else if o < 0x40 then s1
        else match cfgRegAt o with
          | some r => s1.capWrite r v
          | none => s1
      s2.complete .ok []

def execConfigRequest (off : BitVec 12) (write : Option Word) (s : State) : Host.Outcome State Fault Refusal :=
  .next (configRequestOp off write s)

/-- A change of both nunataks. -/
def State.onNunataks (s : State) (f : Nunatak → Nunatak) : State := { s with west := f s.west, east := f s.east }

/-- A nunatak goes back to WAITIMG with an empty boot window (R417, R420, R421). -/
def Nunatak.waitImg (n : Nunatak) : Nunatak := { n with stage := 1, window := ⟨[]⟩, accepted := false }

/-- A request that asks for no completion. -/
def HostReq.posted : HostReq → Bool
  | .write _ _ _ => true
  | .doorbell _ _ => true
  | _ => false

/-- PERST#: the link and the configuration space are reset, BAR4's size with it; in stage 1 or 2 the boot window is cleared and STAGE
returns to WAITIMG (R417). Where the size changes BASE becomes 0, as in a resize (R451; log entry 60). (DEDUCED, log entry 60; unsafe.) -/
def perstOp (s : State) : State :=
  if !s.pw.on then s
  else
    let s1 := { s with
      host := { s.host with answers := false, barLog := 36, aerPois := false, aerUr := false, aerEcrc := false, aerInt := false,
                            aerCor := 0, bars := .empty, d3hot := false, devCtl := 0, devSta := 0, ecrc := 0, waiting := s.host.waiting.filter HostReq.posted },
      fe := { s.fe with hwin := if s.host.barLog = 36 then s.fe.hwin else 0 } }
    let s2 := s1.onNunataks fun n => { n with portUp := false }
    if s2.primary.stage == 1 || s2.primary.stage == 2 then s2.onNunataks Nunatak.waitImg else s2

def execPerst (s : State) : Host.Outcome State Fault Refusal := .next (perstOp s)

/-- FE_KVP_BASE and FE_KVP_NPAGE: they take effect only while STATE is NONE; otherwise `refused` says what becomes of the write (R347, R389). -/
def State.kvpSet (s : State) (npage : Bool) (v : BitVec 64) (refused : State → State) : State :=
  if s.eng.mst != 0 then refused s
  else if npage then { s with fe := { s.fe with kvpNpage := v.setWidth 32 } }
  else { s with fe := { s.fe with kvpBase := v.setWidth 48 &&& 0xFFFFFFFF0000#48 } }

/-- FE_KVP_WRITE: the host's write, through BAR2. -/
def feKvpWriteOp (npage : Bool) (v : BitVec 64) (s : State) : State :=
  if s.bar2Open then s.kvpSet npage v (·.hwErr true (if npage then 0x4008 else 0x4000)) else s

def execFeKvpWrite (npage : Bool) (v : BitVec 64) (s : State) : Host.Outcome State Fault Refusal := .next (feKvpWriteOp npage v s)

end Sys2Proof.Machine
end

