-- ==== Sys2Proof/Machine/Queues.lean ====
section
/-! DEFINITION. Queues (R302 to R308, R336), the order of a host's requests (R165), packets from fetch to retirement (R309, R312) and reply FIFOs (R332 to R334). -/
namespace Sys2Proof.Machine

def isKernelQ (q : QId) : Bool := 0x4000 ≤ q.toNat && q.toNat < 0x4008

def isUserQ (q : QId) : Bool := q.toNat < 0x4000

/-! ### Packet fields (R309) -/

def Pkt.w (p : Pkt) (i : Nat) : Word := wordAt p.words i
def Pkt.f (p : Pkt) (i lo n : Nat) : Nat := fieldN (p.w i) lo n
def Pkt.opcode (p : Pkt) : Nat := p.f 0 0 8
def Pkt.quiet (p : Pkt) : Bool := p.f 0 13 1 == 1
def Pkt.ord (p : Pkt) : Bool := p.f 0 12 1 == 1
def Pkt.tag (p : Pkt) : Word := p.w 2

/-- The 48-bit address in words `i` and `i + 1`. -/
def Pkt.va (p : Pkt) (i : Nat) : Nat := p.f i 0 32 + 2 ^ 32 * p.f (i + 1) 0 16

/-- A cold-path packet (R311). -/
def Pkt.cold (p : Pkt) : Bool := 0x10 ≤ p.opcode

/-- A WAIT or a cold-path packet, before which no later packet starts (R312). -/
def Pkt.blocks (p : Pkt) : Bool := p.cold || p.opcode == 0x04

/-! ### Reply FIFO -/

/-- The reply-page address of slot `n` (R333). -/
def Queue.slotVa (q : Queue) (n : Nat) : Nat := q.rply + 16 * (n % 256)

/-- Appends a reply entry: when the FIFO is full, the newest stored entry becomes a gap marker, and further entries are dropped while it
is the newest (R23, R333; log entry 36). An entry that enters an empty FIFO is also the head entry held on-chip. None while the reply
page's line is not at rest. -/
def State.pushReply (s : State) (q : QId) (words : List Word) : Option State :=
  let x := s.queue q
  let put (s : State) (slot : Nat) (ws : List Word) (f : Queue → Queue) : Option State :=
    match s.vwrite x.asid (x.slotVa slot) ((ws.map (toBytes 4)).flatten) [] with
    | .wait => none
    | .fail _ t => some (t.setQueue q (f (t.queue q)))
    | .ok _ s1 => some (s1.setQueue q (f (s1.queue q)))
  if x.fcount < 256 then
    put s (x.fhead + x.fcount) words fun y =>
      { y with fcount := y.fcount + 1, gapTop := false, head := if y.fcount = 0 then some ⟨words, 0⟩ else y.head }
  else if x.gapTop then some s
  else put s (x.fhead + 255) [0x0107, 0, x.done.setWidth 32, 0] fun y => { y with gapTop := true, gap := true }

/-- The front end fetches the head entry from the reply page, each word with its poison tag; the words of a page that no longer translates
are free values (R24, R333). None while the page's line is not at rest. -/
def State.fetchHead (s : State) (q : QId) : Option State :=
  let x := s.queue q
  if x.fcount = 0 || x.head.isSome then some s
  else
    match s.vread x.asid (x.slotVa x.fhead) 16 with
    | .wait => none
    | .fail _ u =>
      let t := u.take
      some (t.2.setQueue q { x with head := some ⟨(List.range 4).map (Config.freeWord t.1), 0⟩ })
    | .ok b s1 =>
      let tags : BitVec 4 := BitVec.ofNat 4 ((List.range 4).foldl (fun m i => if b.pois.getD (4 * i) false then m + 2 ^ i else m) 0)
      some (s1.setQueue q { x with head := some ⟨wordsOf b.data 4, tags⟩ })

/-- A read of DB_REPLY0 (R22, R334): it pops the head entry and latches its words and poison tags, or repeats the last word delivered and
sets UNDERRUN. -/
def State.popReply (s : State) (q : QId) : Option (List Word × State) :=
  let x := s.queue q
  if x.fcount = 0 then some (x.reply, s.setQueue q { x with underrun := true })
  else
    (s.fetchHead q).map fun s1 =>
      let y := s1.queue q
      let h := y.head.getD .init
      let s2 := s1.setQueue q
        { y with fcount := y.fcount - 1, fhead := y.fhead + 1, head := none, reply := h.words, poisTag := h.pois,
                 gapTop := if y.fcount = 1 then false else y.gapTop }
      (h.words, (s2.fetchHead q).getD s2)

/-- The entry of a packet (R332). -/
def Pkt.entry (p : Pkt) (done : BitVec 64) : List Word :=
  [place 32 24 (BitVec.ofNat 8 p.opcode) ||| place 32 20 p.ntok ||| place 32 16 p.stat ||| place 32 0 p.code, p.tag,
   done.setWidth 32, p.result]

/-! ### Completion -/

/-- The packet with a fetch serial completes (R312): its code, STAT, NTOK and RESULT go to its reply. -/
def State.finishPkt (s : State) (q : QId) (serial : Nat) (code : Code) (stat ntok : BitVec 4) (result : Word) : State :=
  let x := s.queue q
  s.setQueue q { x with pkts := x.pkts.map fun p =>
    if p.serial = serial then { p with st := .done, code := code, stat := stat, ntok := ntok, result := result } else p }

def State.finish (s : State) (q : QId) (serial : Nat) (code : Code) : State := s.finishPkt q serial code 0 0 0

/-- Marks a packet started. -/
def State.startPkt (s : State) (q : QId) (serial : Nat) : State :=
  let x := s.queue q
  s.setQueue q { x with pkts := x.pkts.map fun p =>
    if p.serial = serial then { p with st := .started, start := s.tb.now, wlim := x.wlim } else p }

/-- The packets of one queue epoch before a packet, in ring order. -/
def Queue.before (q : Queue) (p : Pkt) : List Pkt := (q.pkts.takeWhile fun x => x.serial != p.serial).filter fun x => x.ep == p.ep

/-- R312: whether a packet of the queue may start. -/
def Queue.mayStart (q : Queue) (p : Pkt) : Bool :=
  let b := q.before p
  (b.all fun x => x.st == .started || x.st == .done) && (b.all fun x => !x.blocks || x.st == .done) &&
    (!(p.ord || p.opcode == 0x05) || b.all fun x => x.st == .done)

/-- The queue still runs packets: it is ACTIVE, or FAILED by a ring fetch; packets of a destroyed queue run to completion
(R322, R325, R331). (DEDUCED, log entry 38; unsafe.) -/
def Queue.runs (q : Queue) (p : Pkt) : Bool := q.st == .active || q.st == .failed || p.ep != q.ep

/-- No cold-path packet that was fetched earlier is still to complete (R325). -/
def State.coldTurn (s : State) (p : Pkt) : Bool :=
  s.queues.vals.all fun q => q.pkts.all fun x => !x.cold || x.st == .done || p.serial ≤ x.serial || !q.runs x

/-- A packet fetched after the MODEL_LOAD under way is held (R107). -/
def State.heldPkt (s : State) (p : Pkt) : Bool :=
  match s.eng.load with
  | some l => l.serial < p.serial
  | none => false

/-- The packet of a queue that starts now as opcode `op`: checked, and in its turn. Packets of an earlier epoch of the queue take their
turns apart from the present one's (R312, R325). -/
def State.starting (s : State) (q : QId) (op : Nat) : Option Pkt :=
  let x := s.queue q
  if s.inHold || !s.pw.on || s.fe.rstBusy then none
  else
    x.pkts.find? fun p =>
      p.st == .accepted && p.opcode == op && x.runs p && x.mayStart p && !s.heldPkt p && (!p.cold || s.coldTurn p)

/-! ### Doorbells and fetching -/

/-- A queue is ready while its latch is set or it has packets to fetch (R307). -/
def Queue.ready (q : Queue) : Bool := q.st == .active && (q.latch || q.rptr != q.wptr)

/-- A write of DB_WPTR (R306): a rejected one appends a doorbell-error entry. None while that entry waits for its line. -/
def State.ring (s : State) (q : QId) (w : Word) : Option State :=
  let x := s.queue q
  if s.inHold || x.st != .active then some s
  else if (w - x.rptr).toNat ≤ 2 ^ x.rlog then some (s.setQueue q { x with wptr := w, latch := true })
  else s.pushReply q [0x0104, 0, x.done.setWidth 32, w]

/-- The first bytes of a popped entry. -/
def popBytes (n : RdSize) (ws : List Word) : List Byte := ((ws.map (toBytes 4)).flatten).take n.bytes

/-- A host's read of DB_REPLY0: 8 B and 16 B reads return words of the same entry (R334). Before READY and in HOLD the register reads 0
(R304, R416), and in a device reset BAR0 reads all ones (R385). -/
def State.hostPop (s : State) (q : QId) (n : RdSize) : Option State :=
  if s.inHold || !s.ready then some (s.complete .ok (List.replicate n.bytes 0))
  else if s.fe.rstBusy && isUserQ q then some (s.complete .ok (List.replicate n.bytes 0xFF))
  else (s.popReply q).map fun r => r.2.complete .ok (popBytes n r.1)

/-! ### The order of a host's requests

A doorbell that follows BAR4 writes is processed after they have been performed (R165, R308): a request whose line is not at rest waits,
and later ones wait behind it, in the order of their arrival. (DEDUCED, log entry 8; unsafe.) -/

def HostReq.run (s : State) : HostReq → Option State
  | .write a bytes poisoned => s.bar4Write a bytes poisoned
  | .read a len => s.bar4Read a len
  | .doorbell q w => s.ring q w
  | .pop q n => s.hostPop q n

/-- The requests that wait are taken as far as they can be. -/
def State.pumpHost : Nat → State → State
  | 0, s => s
  | n + 1, s =>
    match s.host.waiting with
    | [] => s
    | r :: t =>
      match r.run s with
      | none => s
      | some s1 => State.pumpHost n { s1 with host := { s1.host with waiting := t } }

def State.pumpRequests (s : State) : State := s.pumpHost s.host.waiting.length

/-- A request of the host arrives. -/
def State.hostAsk (s : State) (r : HostReq) : State :=
  let s0 := s.pumpRequests
  match (if s0.host.waiting.isEmpty then r.run s0 else none) with
  | some s1 => s1
  | none => { s0 with host := { s0.host with waiting := s0.host.waiting ++ [r] } }

/-- DOORBELL: a write of DB_WPTR (R306). -/
def doorbellOp (q : QId) (w : Word) (s : State) : State := s.hostAsk (.doorbell q w)

def execDoorbell (q : QId) (w : Word) (s : State) : Host.Outcome State Fault Refusal := .next (doorbellOp q w s)

/-- DB_REPLY0_POP (R334). -/
def dbReply0PopOp (q : QId) (n : RdSize) (s : State) : State := s.hostAsk (.pop q n)

def execDbReply0Pop (q : QId) (n : RdSize) (s : State) : Host.Outcome State Fault Refusal := .next (dbReply0PopOp q n s)

/-- HOST_BAR4_WRITE (R165): BASE and the size as they are at its arrival place it in HBM (R451). -/
def hostBar4WriteOp (off : Nat) (bytes : List Byte) (poisoned : Bool) (s : State) : State :=
  match s.bar4At off bytes.length with
  | some a => if s.portOpen then s.hostAsk (.write a bytes poisoned) else s
  | none => s

def execHostBar4Write (off : Nat) (bytes : List Byte) (poisoned : Bool) (s : State) : Host.Outcome State Fault Refusal :=
  .next (hostBar4WriteOp off bytes poisoned s)

/-- HOST_BAR4_READ (R165, R451). -/
def hostBar4ReadOp (off len : Nat) (s : State) : State :=
  match s.bar4At off len with
  | some a => if s.portOpen then s.hostAsk (.read a len) else s
  | none => s

def execHostBar4Read (off : Nat) (len : Nat) (s : State) : Host.Outcome State Fault Refusal := .next (hostBar4ReadOp off len s)

/-! ### Fetching -/

/-- Before it lets a queue become idle, the front end clears the latch and reads the write pointer again (R307). -/
def queueIdleOp (q : QId) (s : State) : State :=
  let x := s.queue q
  if x.st == .active && x.latch && x.rptr == x.wptr then s.setQueue q { x with latch := false } else s

def execQueueIdle (q : QId) (s : State) : Host.Outcome State Fault Refusal := .next (queueIdleOp q s)

/-- Whether the front end can fetch for the queue: a doorbell has promised packets. -/
def Queue.fetches (q : Queue) : Bool := q.st == .active && q.rptr != q.wptr

/-- The queue the front end serves next (R308): the lowest kernel queue with packets to fetch, else the user queue that
follows the one served last. (DESIGN CHOICE, log entry 23; unsafe.) -/
def State.nextQueue (s : State) : Option QId :=
  let ready := s.queues.entries.filter fun e => e.2.fetches
  match ready.find? fun e => 0x4000 ≤ e.1 && e.1 < 0x4008 with
  | some e => some (BitVec.ofNat 16 e.1)
  | none =>
    let users := (ready.filter fun e => e.1 < 0x4000).map (·.1)
    match users.find? fun u => s.fe.lastUser.toNat < u with
    | some u => some (BitVec.ofNat 16 u)
    | none => users.head?.map (BitVec.ofNat 16)

/-- RING_FETCH: the slot at the read pointer (R303, R308, R327); a slot that does not translate fails the queue (R331). -/
def ringFetchOp (q : QId) (s : State) : State :=
  let x := s.queue q
  if s.inHold || !s.pw.on || s.fe.rstBusy || s.nextQueue != some q then s
  else
    match s.vread x.asid (x.rbase + 64 * (x.rptr.toNat % 2 ^ x.rlog)) 64 with
    | .wait => s
    | .fail c t => t.setQueue q { x with st := .failed, code := c }
    | .ok b s1 =>
      let p : Pkt := { Pkt.init with ep := x.ep, asid := x.asid, num := x.rptr, words := wordsOf b.data 16, pois := b.anyPois,
                                     serial := s1.fe.fetchSerial }
      let s2 := s1.setQueue q { x with rptr := x.rptr + 1, pkts := x.pkts ++ [p] }
      { s2 with fe := { s2.fe with qfetch := s2.fe.qfetch + 1, fetchSerial := s2.fe.fetchSerial + 1,
                                   lastUser := if isUserQ q then q else s2.fe.lastUser } }

def execRingFetch (q : QId) (s : State) : Host.Outcome State Fault Refusal := .next (ringFetchOp q s)

/-- Counts a packet that retires with CODE 0 for its space (R367). -/
def State.countPkt (s : State) (a : Asid) : State :=
  match s.spaces.get? a.toNat with
  | some sp => { s with spaces := s.spaces.put a.toNat { sp with pkts := sp.pkts + 1 } }
  | none => s

/-- PACKET_RETIRE: the oldest packet of the queue's epoch, once complete (R312, R333). A packet of an earlier queue epoch has its reply
dropped and counted. -/
def packetRetireOp (q : QId) (s : State) : State :=
  let x := s.queue q
  match x.pkts.find? fun p => p.st == .done && (x.before p).isEmpty with
  | none => s
  | some p =>
    let rest := x.pkts.filter fun y => y.serial != p.serial
    if s.inHold || s.fe.rstBusy then s
    else
      let quiet := p.quiet && p.code == 0 && p.stat == 0
      if p.ep != x.ep then
        let s1 := s.setQueue q { x with pkts := rest }
        if quiet then s1 else { s1 with fe := { s1.fe with qstale := satAdd s1.fe.qstale 1 } }
      else
        let x1 := { x with pkts := rest, done := x.done + 1 }
        let s1 := s.setQueue q x1
        let s2 := if p.code == 0 then s1.countPkt x.asid else s1
        if quiet then s2 else (s2.pushReply q (p.entry x1.done)).getD s

def execPacketRetire (q : QId) (s : State) : Host.Outcome State Fault Refusal := .next (packetRetireOp q s)

/-- The end of a queue (R304, R325): fetching stops, packets that wait for a step boundary are discarded, QEPOCH advances
and the queue is FREE. Packets in flight run to completion under the old epoch. A JOIN in progress ends with a LEAVE at the
next boundary (R354). -/
def State.endQueue (s : State) (q : QId) : State :=
  let x := s.queue q
  let waiting := s.eng.psteps.filter (·.queue == q)
  let x1 := { x with st := .free, ep := x.ep + 1, code := 0, latch := false, fcount := 0, gapTop := false, head := none,
                     pkts := x.pkts.filter fun p => !(waiting.any (·.serial == p.serial)) }
  let s1 := s.setQueue q x1
  { s1 with eng := { s1.eng with
      psteps := s1.eng.psteps.filter (·.queue != q)
      seqs := s1.eng.seqs.mapVals fun y => if y.joining && y.joinQ == q then { y with ending := true } else y } }

/-- The first check of R305 that fails. -/
def State.kcfgCode (s : State) (x : Queue) (ver : BitVec 4) (rlog : BitVec 5) : Code :=
  let n := 64 * 2 ^ rlog.toNat
  if rlog.toNat < 6 || 16 < rlog.toNat || x.kbase.toNat % 4096 != 0 || x.krply.toNat % 4096 != 0 then 0x0104
  else if ver != 1 then 0x0102
  else if !s.openRange x.kbase.toNat n || !s.openRange x.krply.toNat 4096 then 0x0302
  else 0

/-- A write of DB_KCFG (R305, R336), by the host from READY on, when BAR2 maps the page, and otherwise by firmware (R416). A failed check changes nothing else (R389), and a write while EN is 1 that keeps EN is refused and
recorded, and so is one of EN = 1 to a queue that a reset has left LOST and that EN = 0 has not destroyed (R12, R304, R389). (DEDUCED, log entry 43; unsafe.) -/
def dbKcfgEnOp (q : QId) (v : Word) (s : State) : State :=
  let x := s.queue q
  if !isKernelQ q || s.inHold then s
  else
    let en := bitAt v 31
    if x.ken then
      (if en then s.hwErr true (0x8_0090 + 0x1000 * (q.toNat - 0x4000))
       else
         let s1 := s.endQueue q
         s1.setQueue q { s1.queue q with ken := false })
    else
      let x1 := { x with kver := bits v 24 4, krlog := bits v 16 5 }
      if !en then
        let s1 := if x.st == .free then s else s.endQueue q
        s1.setQueue q { s1.queue q with kver := x1.kver, krlog := x1.krlog }
      else if x.st != .free then s.hwErr true (0x8_0090 + 0x1000 * (q.toNat - 0x4000))
      else if !s.ready then s
      else
        let c := s.kcfgCode x1 x1.kver x1.krlog
        if c != 0 then s.setQueue q { x with code := c }
        else
          s.setQueue q { x1 with ken := true, st := .active, code := 0, ver := x1.kver, ep := x.ep + 1, asid := 0,
                                 rlog := x1.krlog.toNat, rbase := x1.kbase.toNat, rply := x1.krply.toNat, wptr := 0, rptr := 0,
                                 done := 0, latch := false, fcount := 0, fhead := 0, gapTop := false, head := none,
                                 underrun := false, gap := false, wlim := 1000000 }

def execDbKcfgEn (q : QId) (v : Word) (s : State) : Host.Outcome State Fault Refusal := .next (if s.ready then dbKcfgEnOp q v s else s)

end Sys2Proof.Machine
end

