-- ==== Sys2Proof/Machine/Route.lean ====
section
/-! DEFINITION. Messages between modules: coordinates and routes (R262 to R265), the form of messages and flits (R253, R254), the transmit side
of a port (R259 to R261, R271) and the remote-request tags (R266, R267). -/
namespace Sys2Proof.Machine

/-- Coordinate `d` (0 X, 1 Y, 2 Z) of a module id (R262). -/
def coordOf (m : ModId) (d : Nat) : Nat := fieldN m (10 - 5 * d) 5

/-- Size of dimension `d` from AM_TOPO (R274). -/
def State.dimSize (s : State) (d : Nat) : Nat := fieldN s.am.topo (10 - 5 * d) 5 + 1

/-- Dimension `d` wraps. -/
def State.dimWraps (s : State) (d : Nat) : Bool := bitAt s.am.topo (30 - d)

/-- A module whose coordinates lie within the sizes (R262, R264). -/
def State.coordsOk (s : State) (m : ModId) : Bool := (List.range 3).all fun d => coordOf m d < s.dimSize d

/-- The module id with coordinate `d` replaced. -/
def withCoord (m : ModId) (d v : Nat) : ModId :=
  BitVec.ofNat 15 (m.toNat - coordOf m d * 2 ^ (10 - 5 * d) + v * 2 ^ (10 - 5 * d))

/-- The neighbour in direction `dir` (0 +X, 1 −X, 2 +Y, 3 −Y, 4 +Z, 5 −Z) that the topology gives (R262). -/
def State.neighbour (s : State) (dir : Nat) : Option ModId :=
  let d := dir / 2
  let n := s.dimSize d
  let c := coordOf s.mid d
  if 6 ≤ dir || n = 1 || !s.coordsOk s.mid then none
  else if dir % 2 = 0 then
    (if c + 1 < n then some (withCoord s.mid d (c + 1)) else if s.dimWraps d then some (withCoord s.mid d 0) else none)
  else
    (if 0 < c then some (withCoord s.mid d (c - 1)) else if s.dimWraps d then some (withCoord s.mid d (n - 1)) else none)

/-- The direction a message to module `m` takes at module `a`; none at `m` itself (R264). -/
def State.dirFrom (s : State) (a m : ModId) : Option Nat :=
  match (List.range 3).find? fun d => coordOf m d != coordOf a d with
  | none => none
  | some d =>
    let n := s.dimSize d
    let c := coordOf a d
    let t := coordOf m d
    if s.dimWraps d then
      let f := (t + n - c) % n
      some (if f ≤ n - f then 2 * d else 2 * d + 1)
    else some (if c < t then 2 * d else 2 * d + 1)

/-- The direction a message to module `m` takes from this module; none on this module (R264). -/
def State.routeDir (s : State) (m : ModId) : Option Nat := s.dirFrom s.mid m

/-- The module at the far end of a link. -/
def State.stepMod (s : State) (a : ModId) (dir : Nat) : ModId :=
  let d := dir / 2
  let n := s.dimSize d
  withCoord a d ((coordOf a d + (if dir % 2 = 0 then 1 else n - 1)) % n)

/-- The links of the route from module `a` to module `b`, each as the module it leaves and its direction (R264); a route within the
sizes of AM_TOPO has at most 93. -/
def State.hops (s : State) : Nat → ModId → ModId → List (ModId × Nat)
  | 0, _, _ => []
  | k + 1, a, b =>
    match s.dirFrom a b with
    | none => []
    | some dir => (a, dir) :: hops s k (s.stepMod a dir) b

def State.route (s : State) (a b : ModId) : List (ModId × Nat) := s.hops 93 a b

/-- The direction opposite to `dir`: +X and −X, +Y and −Y, +Z and −Z. -/
def opposite (dir : Nat) : Nat := if dir % 2 = 0 then dir + 1 else dir - 1

/-- The direction at this module of a DN message from the root's module to module `m`: back along the route that an UP message of `m` takes
to the root (R269). -/
def State.backDir (s : State) (root m : ModId) : Option Nat :=
  ((s.route m root).find? fun h => s.stepMod h.1 h.2 == s.mid).map fun h => opposite h.2

/-- The link in direction `dir` from this module crosses the dateline of its dimension (R264). -/
def State.dateline (s : State) (dir : Nat) : Bool :=
  let d := dir / 2
  if dir % 2 = 0 then coordOf s.mid d + 1 == s.dimSize d else coordOf s.mid d == 0

/-- The logical cluster of a physical cluster of a floe under the map of R33: the passing ones in ascending order, then, on a floe where fewer
than 128 pass, the failed ones; none for one left unmapped. -/
def State.logicalOf (s : State) (f : Floe) (phys : Nat) : Option Nat :=
  let dead := (s.failedClu.filter fun c => c / 132 == f.toNat).map (· % 132)
  let below := (dead.filter fun c => c < phys).length
  let n := if dead.contains phys then (132 - dead.length) + below else phys - below
  if n < 128 && (!dead.contains phys || 4 < dead.length) then some n else none

/-- The router at column 7, row 2 of a port's edge floe, physical cluster 31, by its logical cluster (R31, R33, R221). Where that cluster is
unmapped it has no page, and the page of the next passing cluster stands for it. (DESIGN CHOICE, log entry 71; unsafe.) -/
def State.edgeRouter (s : State) (p : PortId) : Clu :=
  let n := p.toNat
  let col := n / 16 * 8 + n % 8
  let f := 8 * col + (if n / 8 % 2 = 0 then 0 else 7)
  let next := (List.range 101).findSome? fun i => s.logicalOf (BitVec.ofNat 7 f) (31 + i)
  BitVec.ofNat 14 (128 * f + next.getD 0)

/-- The ports of a direction in member order (R263). -/
def State.bundle (s : State) (dir : Nat) : List PortId :=
  ((List.range 32).map (BitVec.ofNat 5)).filter fun p => (s.port p).dir.toNat == dir

/-- The next ACTIVE member after member `j` in ascending member order, wrapping to 0 (R271). -/
def State.failover (s : State) (dir j : Nat) : Option PortId :=
  let b := s.bundle dir
  ((b.drop (j + 1)) ++ (b.take (j + 1))).find? fun p => (s.port p).st == .active

/-- The port that carries member `j`'s traffic: the member, or its failover port; none with no ACTIVE member (R265, R271). -/
def State.memberPort (s : State) (dir j : Nat) : Option PortId :=
  match (s.bundle dir)[j]? with
  | none => none
  | some p =>
    match (s.port p).movedTo with
    | some q => if (s.port p).st == .active then some p else if (s.port q).st == .active then some q else s.failover dir j
    | none => if (s.port p).st == .active then some p else s.failover dir j

/-- No member of a direction is ACTIVE (R272). -/
def State.cut (s : State) (dir : Nat) : Bool := (s.bundle dir).all fun p => (s.port p).st != .active

/-- The route from module `a` to module `b` uses a link of this module that has no ACTIVE member. -/
def State.cutRoute (s : State) (a b : ModId) : Bool :=
  (s.route a b).any fun h =>
    (h.1 == s.mid && s.cut h.2) || (s.stepMod h.1 h.2 == s.mid && s.cut (opposite h.2))

/-- The port at which the flits of a descriptor from module `m` arrive: the member DESC mod size of the bundle that their last link ends at
(R265, R269). -/
def State.portFrom (s : State) (m : ModId) (did : DescId) : Option PortId :=
  match (s.route m s.mid).getLast? with
  | none => none
  | some h =>
    let b := s.bundle (opposite h.2)
    b[did.toNat % b.length]?

/-- The member of a message: from the address for uncached messages, from the descriptor for UP and DN, 0 for TIME and
MGMT (R265). -/
def lineMember (addr m : Nat) : Nat := if m = 0 then 0 else ((addr / 128 % 512) ^^^ (addr / 65536 % 512)) % m

def XMsg.mtype (x : XMsg) : Nat := fieldN x.hdr 27 5
def XMsg.len (x : XMsg) : Nat := fieldN x.hdr 23 4
def XMsg.dmod (x : XMsg) : ModId := bits x.hdr 0 15
def XMsg.tag (x : XMsg) : BitVec 10 := bits x.hdr 47 10
def XMsg.smod (x : XMsg) : ModId := bits x.hdr 32 15
def XMsg.addr (x : XMsg) : Nat := fieldN x.hdr 64 32 + 2 ^ 32 * fieldN x.hdr 96 17
def XMsg.tepoch (x : XMsg) : BitVec 8 := bits x.hdr 120 8
def XMsg.atomOp (x : XMsg) : BitVec 8 := (bits x.hdr 115 5).setWidth 8
def XMsg.atomSize (x : XMsg) : Nat := fieldN x.hdr 113 2
def XMsg.desc (x : XMsg) : DescId := bits x.hdr 80 16
def XMsg.epoch (x : XMsg) : BitVec 8 := bits x.hdr 72 8
def XMsg.round (x : XMsg) : BitVec 8 := bits x.hdr 64 8
/-- The poison tags of a message's data, in the reserved bits of its first word. (DESIGN CHOICE, log entry 70; unsafe.) -/
def XMsg.pois (x : XMsg) : BitVec 8 := bits x.hdr 15 8
def withPois (hdr : BitVec 128) (p : BitVec 8) : BitVec 128 := hdr ||| (p.setWidth 128) <<< 15
def XMsg.node (x : XMsg) : Nat := fieldN x.hdr 96 8

/-- The virtual channel of a message type (R254, R260); none for a reserved one. -/
def vcOf (mtype : Nat) : Option Nat :=
  match mtype with
  | 0x01 => some 0
  | 0x02 => some 0
  | 0x03 => some 0
  | 0x04 => some 1
  | 0x08 => some 2
  | 0x09 => some 3
  | 0x10 => some 4
  | 0x11 => some 5
  | _ => none

/-- A message header (R254). -/
def mkHdr (mtype len : Nat) (d src : ModId) (tag : BitVec 10) (w2 : Word) (w3 : Word) : BitVec 128 :=
  w3 ++ w2 ++ (place 32 15 tag ||| place 32 0 src) ++ (fldM 27 5 mtype ||| fldM 23 4 len ||| place 32 0 d)
where
  fldM (lo w n : Nat) : Word := place 32 lo (BitVec.ofNat w n)

/-- The last two header words of an uncached message. -/
def addrWords (addr : Nat) (ep : BitVec 8) (op : BitVec 8) (size : Nat) : Word × Word :=
  (BitVec.ofNat 32 addr,
   place 32 24 ep ||| place 32 19 (op.setWidth 5) ||| place 32 17 (BitVec.ofNat 2 size) |||
     place 32 0 (BitVec.ofNat 17 (addr / 2 ^ 32)))

/-- A flit from its two header words and its segments (R253). -/
def mkFlit (w0 w1 : Word) (segs : List Byte) : BitVec 2048 :=
  let body := toBytes 4 w0 ++ toBytes 4 w1 ++ (segs ++ List.replicate 240 0#8).take 240
  ofBytes 2048 (body ++ toBytes 8 (crc64 body))

/-- The bytes of a message: header and data segments. -/
def XMsg.bytes (x : XMsg) : List Byte := toBytes 16 x.hdr ++ (x.segs ++ List.replicate (16 * x.len) 0#8).take (16 * x.len)

/-- The first word of a flit; ACK names the last flit received in order (R253). -/
def Port.word0 (p : Port) (ty : Nat) (vc : Nat) (cls : Bool) (seq : BitVec 12) : Word :=
  place 32 28 (BitVec.ofNat 4 ty) ||| place 32 25 (BitVec.ofNat 3 vc) ||| flagAt 32 24 cls ||| place 32 12 seq |||
    place 32 0 (p.rxSeq - 1)

/-- The credit word, and the credits it leaves: every credit that waits of the first kind (R253, R261). -/
def Port.credWord (p : Port) : Word × List (BitVec 4) :=
  match p.retq with
  | [] => (0, [])
  | c :: _ =>
    let n := (p.retq.filter (· == c)).length
    (place 32 28 c ||| place 32 18 (BitVec.ofNat 10 (min n 1023)), p.retq.filter (· != c))

/-- A message's virtual channel and class, as 2 × VC + CLS. -/
def XMsg.key (x : XMsg) : Nat := 2 * (vcOf x.mtype).getD 0 + (if x.cls then 1 else 0)

/-- A message that waits ahead of another holds it back: one of its own channel and class, and one that resends an unacknowledged flit of a
failed port, which go in SEQ order and before any new traffic of their members (R261, R265, R271). -/
def XMsg.holdsBack (y x : XMsg) : Bool := y.key == x.key || (y.resend && (x.resend || x.mem == y.mem))

/-- The first waiting message that may go, and the others: the channels and classes are buffered apart, so that a message without a
credit holds back only those of its own and those of a failover that it goes before (R261, R265, R271). -/
def pickMsg (may : XMsg → Bool) : List XMsg → List XMsg → Option (XMsg × List XMsg)
  | [], _ => none
  | x :: t, seen =>
    if !(seen.any fun y => y.holdsBack x) && may x then some (x, t)
    else (pickMsg may t (x :: seen)).map fun r => (r.1, x :: r.2)

/-- The data segment of a TIME message (R397). -/
def timeSeg (m : TimeSeg) : List Byte :=
  toBytes 8 m.t2 ++ toBytes 4 m.dt ++ toBytes 1 m.seq ++ toBytes 1 m.kind ++ [0, 0]

def timeOfSeg (bs : List Byte) : TimeSeg :=
  ⟨ofBytes 64 (bs.take 8), ofBytes 32 ((bs.drop 8).take 4), ofBytes 8 ((bs.drop 12).take 1), ofBytes 8 ((bs.drop 13).take 1)⟩

def XMsg.isTime (x : XMsg) : Bool := x.mtype == 0x10

/-- A TIME message with the port's transmit stamp `t`: a request carries it, a response T3 − T2 (R395, R397). -/
def XMsg.stamped (x : XMsg) (t : BitVec 64) : XMsg :=
  if x.isTime then
    let m := timeOfSeg x.segs
    { x with segs := timeSeg { m with dt := if m.kind = 0 then t.setWidth 32 else (t - m.t2).setWidth 32 } }
  else x

/-- A flit resent at `t`: a TIME message, which is alone in its flit, takes a new stamp, and the CRC is computed again (R395). -/
def restamp (f : BitVec 2048) (t : BitVec 64) : BitVec 2048 :=
  let seg : BitVec 128 := f.extractLsb' 64 128
  let x : XMsg := { XMsg.init with hdr := seg, segs := toBytes 16 (f.extractLsb' 192 128) }
  if f.extractLsb' 28 4 == 1 && x.isTime then mkFlit (f.extractLsb' 0 32) (f.extractLsb' 32 32) (x.stamped t).bytes else f

/-- An IDLE flit with ACK and the credits of one kind (R253). -/
def Port.idle (p : Port) : Port :=
  let w := p.credWord
  { p with out := p.out ++ [mkFlit (p.word0 0 0 false (p.txSeq - 1)) w.1 []], retq := w.2 }

/-- IDLE flits until every credit has been returned. -/
def Port.idles : Nat → Port → Port
  | 0, p => p
  | n + 1, p => if p.retq.isEmpty then p else p.idle.idles n

/-- A message has left the receive buffer: the flit that held it goes with its last one, and its credit returns (R261). -/
def Port.slotLeft (p : Port) (n : Nat) : Port :=
  match p.rx.find? (·.serial == n) with
  | none => p
  | some f =>
    if 1 < f.left then { p with rx := p.rx.map fun y => if y.serial == n then { y with left := y.left - 1 } else y }
    else { p with rx := p.rx.filter (·.serial != n), retq := p.retq ++ [f.key] }

/-- A message in transit leaves the receive buffer that holds it; its port returns the credit in an IDLE flit. -/
def State.freeSlot (s : State) (slot : Option (PortId × Nat)) : State :=
  match slot with
  | none => s
  | some (r, n) =>
    let p := (s.port r).slotLeft n
    s.setPort r (if p.st == .active then p.idles 16 else p)

/-- The port puts the next waiting message on the wire in a DATA flit of its own, when it is ACTIVE, holds a credit and
has room in its replay buffer (R259, R261). Messages of a member whose failover port still carries its flits wait (R271). `t` is the port's
stamp for a TIME message (R395). -/
def Port.sendOne (p : Port) (self : PortId) (t : BitVec 64) : Option (Port × XMsg) :=
  let sh := p.cred.get 15 0
  let may (x : XMsg) : Bool := (0 < p.cred.get x.key 0 || 0 < sh) && !(p.movedTo.isSome && x.mem == self)
  if p.st != .active || 1024 ≤ p.rbuf.length then none
  else
    (pickMsg may p.txq []).map fun r =>
      let x := r.1.stamped t
      let c := p.cred.get x.key 0
      let w := p.credWord
      let f := mkFlit (p.word0 1 ((vcOf x.mtype).getD 0) x.cls p.txSeq) w.1 x.bytes
      ({ p with txq := r.2, rbuf := p.rbuf ++ [⟨f, x.mem⟩], out := p.out ++ [f], txSeq := p.txSeq + 1,
                flits := p.flits + 1, retq := w.2,
                cred := if 0 < c then p.cred.put x.key (c - 1) else p.cred.put 15 (sh - 1) }, x)

/-- A port stamp: the counter at 1 ns resolution (R395). -/
def State.portStamp (s : State) (sub : BitVec 6) : BitVec 64 := s.tb.now + sub.setWidth 64

/-- A request of this module's own has left with stamp `t`: that is T1 of its exchange, until its answer has come (R395, R396). -/
def State.sentTime (s : State) (x : XMsg) (t : BitVec 64) : State :=
  if x.isTime && x.smod == s.mid && (timeOfSeg x.segs).kind = 0 then
    { s with tb := { s.tb with exch := s.tb.exch.map fun e =>
        if e.seq = (timeOfSeg x.segs).seq.toNat && !e.done then { e with t1 := t } else e } }
  else s

/-- Sends what can be sent, at the stamp `t`. -/
def State.pumpPort (s : State) (p : PortId) (t : BitVec 64) : Nat → State
  | 0 => s
  | n + 1 =>
    match (s.port p).sendOne p t with
    | some r => (((s.setPort p r.1).freeSlot r.2.slot).sentTime r.2 t).pumpPort p t n
    | none => s

/-- The stamp of a transmission now: the nanoseconds since the last time code are a free value where a TIME message waits. -/
def State.sendStamp (s : State) (time : Bool) : BitVec 64 × State :=
  if time then let f := s.take; (f.2.portStamp (BitVec.ofNat 6 (Config.cycles f.1)), f.2) else (s.tb.now, s)

def State.pump (s : State) (p : PortId) : State :=
  let x := s.port p
  if x.txq.isEmpty then s else
    let t := s.sendStamp (x.txq.any (·.isTime))
    t.2.pumpPort p t.1 x.txq.length

/-- Queues a message at the port that serves a member of a direction, which stays that member's failover port until it holds no
unacknowledged flit for it (R271); none when the bundle has no ACTIVE member. -/
def State.enqueue (s : State) (dir j : Nat) (x : XMsg) : Option (PortId × State) :=
  match s.memberPort dir j with
  | none => none
  | some p =>
    let m := ((s.bundle dir)[j]?).getD p
    let s1 := if m == p then s else s.setPort m { s.port m with movedTo := some p }
    some (p, s1.setPort p { s1.port p with txq := (s1.port p).txq ++ [{ x with mem := m }] })

/-- Queues a message and sends what can be sent. -/
def State.sendDir (s : State) (dir j : Nat) (x : XMsg) : Option State := (s.enqueue dir j x).map fun r => r.2.pump r.1

/-- Sends a message of this module in a direction: the member is `j` of the bundle's size, and the class is 0 unless the first link crosses
the dateline (R264, R265). None when its bundle has no ACTIVE member. -/
def State.sendOut (s : State) (out : Option Nat) (j : Nat → Nat) (hdr : BitVec 128) (segs : List Byte) : Option State :=
  match out with
  | none => none
  | some dir => s.sendDir dir (j (s.bundle dir).length) { XMsg.init with hdr := hdr, segs := segs, cls := s.dateline dir }

/-- Sends a message to module `m` on its route (R264). -/
def State.sendTo (s : State) (m : ModId) (j : Nat → Nat) (hdr : BitVec 128) (segs : List Byte) : Option State :=
  s.sendOut (s.routeDir m) j hdr segs

/-- The lowest free remote-request tag (R266). -/
def Amdon.freeTag (a : Amdon) : Option Nat := (List.range 1024).find? fun t => (a.tags.get t .init).use.isNone

/-- Frees a tag and advances its TEPOCH (R266). -/
def Amdon.dropTag (a : Amdon) (t : Nat) : Amdon :=
  let r := a.tags.get t .init
  { a with tags := a.tags.put t { TagRec.init with ep := r.ep + 1 } }

/-- The outcome of an access that another module's home was to serve: the answer enters the core's list, or the store is
done. A store that fails marks its group until its next .sys release or its end (R267). -/
def State.tagDone (s : State) (u : TagUse) (data : BitVec 256) (pois : BitVec 8) (err : Code) : State :=
  let hit (g : BitVec 4) (a : BitVec 64) (o : UcOut) : Bool := o.grp == g && o.addr == a && !o.store
  let res (g : BitVec 4) (a : BitVec 64) (l : Nat) : UcRes :=
    { UcRes.init with grp := g, addr := a, lane := l, data := data, pois := pois, err := err }
  match u with
  | .load c g a => s.setCore c ((s.core c).answered (hit g a) (res g a 0))
  | .atomic c g a l => s.setCore c ((s.core c).answered (hit g a) (res g a l))
  | .store c g a =>
    let k := s.core c
    let gr := k.groups.get g.toNat .init
    let k1 := if err != 0 then k.setGroup g { gr with lostStore := true, lostCode := if gr.lostStore then gr.lostCode else err } else k
    -- the oldest outstanding store of the group to the sector is the one that is done (R187)
    s.setCore c { k1 with ucOut := eraseFirst (fun o => o.grp == g && o.addr == a && o.store) k1.ucOut }
where
  eraseFirst (p : UcOut → Bool) : List UcOut → List UcOut
    | [] => []
    | o :: t => if p o then t else o :: eraseFirst p t

/-- Sends an uncached request to another module under a fresh tag. None while no tag is free (R266). A route with no
ACTIVE member completes the access with E_LINKDOWN at once (R267). -/
def State.sendTag (s : State) (use : TagUse) (m : ModId) (off mtype : Nat) (op : BitVec 8) (size : Nat) (segs : List Byte)
    (pois : BitVec 8) : Option State :=
  match s.am.freeTag with
  | none => none
  | some t =>
    let ep := (s.am.tags.get t .init).ep
    let w := addrWords off ep op size
    let h := withPois (mkHdr mtype (segs.length / 16) m s.mid (BitVec.ofNat 10 t) w.1 w.2) pois
    match s.sendTo m (lineMember off) h segs with
    | none => some (s.tagDone use 0 0 0x0402)
    | some s1 =>
      let r : TagRec := { TagRec.init with ep := ep, use := some use, start := s1.tb.now }
      some { s1 with am := { s1.am with tags := s1.am.tags.put t r } }

/-- The address that a tag's access names. -/
def TagUse.addr : TagUse → BitVec 64
  | .load _ _ a => a
  | .store _ _ a => a
  | .atomic _ _ a _ => a

/-- A tag completes with E_LINKDOWN (R267). -/
def State.tagLost (s : State) (t : Nat) : State :=
  match (s.am.tags.get t .init).use with
  | none => s
  | some u => ({ s with am := s.am.dropTag t }).tagDone u 0 0 0x0402

end Sys2Proof.Machine
end

