-- ==== Sys2Proof/Machine/Lsu.lean ====
section
/-! DEFINITION. The load-store unit: the address checks of R469, sectors and their order (R56, R57), the operand-line cache (R188 to R194), the
way a sector reaches a group (R62, R66, R155, R213, R288), and the way bytes leave towards L2 (R61, R189, R194, R196). -/
namespace Sys2Proof.Machine

/-- What a memory opcode asks of its addresses. -/
structure MemReq where
  store : Bool
  atomic : Bool
  reserved : Bool
  deriving DecidableEq, Repr

/-- The code that the checks of R469 give for `n` bytes at an address, 0 when they pass: alignment first, then the target. -/
def State.checkAddr (s : State) (spadBytes : Nat) (f : MF) (q : MemReq) (a : BitVec 64) : Code :=
  let n := sizeBytes f.size
  let lo := a.toNat
  let split := (q.atomic || q.reserved) && lo % n != 0
  if f.spad then
    if split then 0x0202 else if spadBytes < lo + n then 0x0302 else 0
  else if split || (f.kind == .nw && lo / 32 != (lo + n - 1) / 32) then 0x0202
  else if 2 ^ 64 < lo + n || bitAt a 48 || bitAt (a + BitVec.ofNat 64 (n - 1)) 48 then 0x0302
  else
    match placeOf s.mid a, placeOf s.mid (a + BitVec.ofNat 64 (n - 1)) with
    | .remote m _, .remote m' _ =>
      if m != m' || f.kind != .uc || q.reserved || !s.coordsOk m then 0x0302 else 0
    | .hbm off, .hbm last =>
      if s.capacity ≤ last || s.inGolden off || s.inGolden last then 0x0302 else 0
    | .window off, .window last =>
      if q.store || q.atomic || q.reserved || f.kind == .nw then 0x0302
      else if s.excluded (BitVec.ofNat 7 (off / 2 ^ 31)) || s.excluded (BitVec.ofNat 7 (last / 2 ^ 31)) then 0x0502
      else 0
    | .control off, .control last =>
      if q.atomic || q.reserved || f.kind != .uc || !((n == 4 || n == 8) && lo % n == 0) ||
          !regCovered off || !regCovered last then 0x0302
      else 0
    | _, _ => 0x0302

/-- The active lanes with their addresses, in ascending lane order. -/
def Ctx.lanes (x : Ctx) (f : MF) (res : Bool) : List (Nat × BitVec 64) :=
  (lanesOf x.gr.exec).map fun l => (l, x.gr.laneAddr f res l)

/-- The code of the lowest lane that fails a check, 0 when none does. -/
def State.checkLanes (s : State) (x : Ctx) (f : MF) (q : MemReq) : Code :=
  ((x.lanes f q.reserved).map fun p => s.checkAddr (64 * x.core.spadUnits.toNat) f q p.2).foldl
    (fun c d => if c = 0 then d else c) 0

/-- A register that an active lane's access reads is poisoned. (DEDUCED, log entry 10; unsafe.) -/
def Ctx.memPois (x : Ctx) (f : MF) (data : Bool) : Bool :=
  (lanesOf x.gr.exec).any fun l => x.gr.addrPois f l || (data && x.gr.dataPois f.data f.size l)

/-- The sectors that the accesses touch, as address divided by 32, ascending. (DESIGN CHOICE, log entry 69; safe.) -/
def sectorsOf (n : Nat) (acc : List (Nat × BitVec 64)) : List Nat :=
  acc.foldl (fun l p =>
    (List.range ((p.2.toNat + n - 1) / 32 - p.2.toNat / 32 + 1)).foldl (fun l i => insertNat l (p.2.toNat / 32 + i)) l) []

/-- The bytes of sector `q` that the accesses touch. -/
def needOf (n : Nat) (acc : List (Nat × BitVec 64)) (q : Nat) : BitVec 32 :=
  BitVec.ofNat 32 ((List.range 32).foldl (fun m i =>
    if acc.any fun p => p.2.toNat ≤ 32 * q + i && 32 * q + i < p.2.toNat + n then m + 2 ^ i else m) 0)

def SbEntry.part (e : SbEntry) : SecPart := ⟨e.mask, e.data, e.pois⟩

/-- A sector's part spread over its line. -/
def SecPart.lineMask (p : SecPart) (i : Nat) : LineMask := (p.mask.setWidth 128) <<< (32 * i)
def SecPart.lineVal (p : SecPart) (i : Nat) : LineVal := ⟨(p.data.setWidth 1024) <<< (256 * i), (p.pois.setWidth 32) <<< (8 * i)⟩

/-! ### The operand-line cache -/

def Core.l1Find (c : Core) (line : Nat) : Option Nat := (c.l1.entries.find? fun p => p.2.line == line).map (·.1)

/-- The line holds no valid sector and no dirty byte. -/
def L1Line.empty (l : L1Line) : Bool := l.valid == 0 && l.dirty == 0

/-- The victim of the L1 (R191): the lowest invalid way of 48, else the lowest way of age 3 after raising every age. -/
def Core.l1Victim (c : Core) : Nat × Tab L1Line :=
  match (List.range 48).find? fun w => ((c.l1.get? w).map (·.empty)).getD true with
  | some w => (w, c.l1)
  | none =>
    let top := c.l1.vals.foldl (fun m l => max m l.age.toNat) 0
    let t := c.l1.mapVals fun l => { l with age := BitVec.ofNat 2 (min 3 (l.age.toNat + (3 - top))) }
    (((List.range 48).find? fun w => (t.get w .init).age == 3).getD 0, t)

/-- Bytes that the slice accepts as a store to a line: written at once when it holds the line in M or E, otherwise kept
until it does, with the request that R211 names, or RDZ when `zero`. They come from a store-buffer entry, whose group and serial `by_`
gives, or are the dirty bytes of an L1 victim, which are no group's and no served entry in CO_L2_HITS (R180, R194, R219). None while the
slice cannot accept them. -/
def State.l2Accept (s : State) (id : CoreId) (by_ : Option (BitVec 4 × Nat)) (line : Nat) (mask : LineMask) (v : LineVal)
    (zero : Bool) : Option State :=
  let k := cluOf id
  let c := s.clu k
  let me := by_.map fun b => (id, b.1)
  if s.protectedBy me fun sec => sec / 4 == line && (anySectors mask).getLsbD (sec % 4) then none
  else if holdsOwned c line && !c.stq.any (·.line == line) then
    let s1 := s.l2Write k line mask v me
    some (if by_.isSome then s1.l2Hit k line else s1.setClu k ((s1.clu k).upd line fun l => { l with age := 0 }))
  else
    let b := by_.getD (0, 0)
    let e : StqEntry := { core := id, grp := b.1, serial := b.2, line := line, mask := mask, data := v.data, pois := v.pois,
                          l1 := by_.isNone, lid := (s.core id).l1of }
    let put (s : State) : State := s.setClu k { s.clu k with stq := (s.clu k).stq ++ [e] }
    if (c.missOf line).isSome then some (put s)
    else
      let kind : ReqKind := if (c.line? line).isSome then .upg else if zero then .rdz else .rdx
      (s.l2Request k kind line false .init).map put

/-- Removes an L1 way. A clean victim sets the age of the slice's line to 0; the dirty bytes of a BIM line are written
into L2 under their mask (R194). None while the slice cannot accept them. -/
def State.l1Evict (s : State) (id : CoreId) (w : Nat) : Option State :=
  let c := s.core id
  match c.l1.get? w with
  | none => some s
  | some l =>
    let s1 := s.setCore id { c with l1 := c.l1.del w }
    if l.dirty = 0 then
      some (s1.setClu (cluOf id) ((s1.clu (cluOf id)).upd l.line fun y => { y with age := 0 }))
    else s1.l2Accept id none l.line l.dirty ⟨l.data, l.pois⟩ false

/-- A way for a line: the one that holds it, or a victim's, emptied. -/
def State.l1Way (s : State) (id : CoreId) (line : Nat) : Option (Nat × State) :=
  match (s.core id).l1Find line with
  | some w => some (w, s)
  | none =>
    let v := (s.core id).l1Victim
    let s1 := s.setCore id { s.core id with l1 := v.2 }
    (s1.l1Evict id v.1).map fun s2 =>
      (v.1, s2.setCore id { s2.core id with l1 := (s2.core id).l1.put v.1 { L1Line.init with line := line, age := 0 } })

def State.onL1 (s : State) (id : CoreId) (w : Nat) (f : L1Line → L1Line) : State :=
  s.setCore id { s.core id with l1 := (s.core id).l1.put w (f ((s.core id).l1.get w .init)) }

/-- A sector filled from L2; bytes the core has dirtied stay as it wrote them (R189). -/
def L1Line.fill (l : L1Line) (i : Nat) (v : LineVal) : L1Line :=
  let m := sectorMask ((1#4) <<< i) &&& ~~~l.dirty
  { l with valid := l.valid ||| ((1#4) <<< i), data := mergeLine l.data v.data m, pois := mergePois l.pois v.pois m, age := 0 }

/-- Whether the L1 line serves the needed bytes of sector `i`. -/
def L1Line.serves (l : L1Line) (i : Nat) (need : BitVec 32) : Bool :=
  l.valid.getLsbD i || (need &&& ~~~(l.dirty.extractLsb' (32 * i) 32) == 0)

/-- The core's dirty L1 bytes of a sector (BIM). -/
def Core.l1Dirty (c : Core) (line i : Nat) : SecPart :=
  match c.l1Find line with
  | some w =>
    let l := c.l1.get w .init
    ⟨l.dirty.extractLsb' (32 * i) 32, l.data.extractLsb' (256 * i) 256, l.pois.extractLsb' (8 * i) 8⟩
  | none => .zero

/-! ### A sector for a group -/

def Core.resOf (c : Core) (g : BitVec 4) (a : BitVec 64) : Option UcRes := c.ucRes.find? fun r => r.grp == g && r.addr == a

def Core.outOf (c : Core) (g : BitVec 4) (a : BitVec 64) (store : Bool) : Bool :=
  c.ucOut.any fun o => o.grp == g && o.addr == a && o.store == store

/-- A store of the core to the sector is on its way to its home (R154, R160). -/
def Core.storeOut (c : Core) (a : BitVec 64) : Bool := c.ucOut.any fun o => o.addr == a && o.store

def Core.dropOut (c : Core) (g : BitVec 4) (a : BitVec 64) : Core :=
  { c with ucOut := c.ucOut.filter fun o => !(o.grp == g && o.addr == a && !o.store) }

/-- The group's instruction has asked for a sector or an old value; `own` are the bytes that its core holds for it now (R62). -/
def Core.ask (c : Core) (g : BitVec 4) (a : BitVec 64) (lane : Nat) (uc : Bool) (own : SecPart) : Core :=
  if c.ucOut.any fun o => o.grp == g && o.addr == a && o.lane == lane && !o.store then c
  else
    { c with ucOut := c.ucOut ++ [{ UcOut.init with grp := g, addr := a, lane := lane, uc := uc, mask := own.mask, data := own.data,
                                                    pois := own.pois }] }

/-- The group waits for a line that its slice has asked for. -/
def Core.mark (c : Core) (g : BitVec 4) (a : BitVec 64) : Core := c.ask g a 0 false .zero

def State.onCore (s : State) (id : CoreId) (f : Core → Core) : State := s.setCore id (f (s.core id))

def State.addRes (s : State) (x : Ctx) (a : BitVec 64) (p : SecPart) : State :=
  s.onCore x.id fun c =>
    let c1 := c.dropOut x.g a
    { c1 with ucRes := c1.ucRes ++ [{ UcRes.init with grp := x.g, addr := a, data := p.data, pois := p.pois }] }

/-- The group's own store-buffer bytes of a sector, youngest last (R62). -/
def Core.own (c : Core) (g : BitVec 4) (a : BitVec 64) : SecPart :=
  (c.sb.filter fun e => e.grp == g && e.addr == a).foldl (fun p e => e.part.over p) .zero

/-- Another group of the core holds one of the bytes in the store buffer (R62). -/
def Core.foreign (c : Core) (g : BitVec 4) (a : BitVec 64) (need : BitVec 32) : Bool :=
  c.sb.any fun e => e.grp != g && e.addr == a && (e.mask &&& need != 0)

/-- A load past the L1 leaves no older copy of its sectors there, so that a later .ca load returns nothing older (R153). -/
def Core.l1Stale (c : Core) (q : Nat) : Core :=
  { c with l1 := c.l1.mapVals fun l => if l.line == q / 4 then { l with valid := l.valid &&& ~~~((1#4) <<< (q % 4)) } else l }

def full (v : LineVal) (i : Nat) : SecPart := ⟨BitVec.allOnes 32, v.sector i, v.secPois i⟩

/-- The slice has accepted a store to the sector and not yet performed it. -/
def Cluster.storing (c : Cluster) (line i : Nat) : Bool := c.stq.any fun e => e.line == line && (anySectors e.mask).getLsbD i

/-- A cached sector (.ca, .cg) for a group: from L1, from L2, or by a request to the home. Answers the state and, when the
sector is not there yet, that the group waits. (DEDUCED, log entry 12; unsafe.) -/
def State.cachedSector (s : State) (x : Ctx) (ca : Bool) (a : BitVec 64) (line i : Nat) (need : BitVec 32) (own : SecPart) :
    State × Bool :=
  let k := cluOf x.id
  let c := s.clu k
  let core := s.core x.id
  let give (s : State) (v : SecPart) : State × Bool := (s.addRes x a (own.over v), false)
  let l1 := core.l1Find line
  let hit := match l1 with
    | some w => ca && (core.l1.get w .init).serves i need
    | none => false
  if hit then
    let w := l1.getD 0
    let l := core.l1.get w .init
    give (s.onL1 x.id w fun l => { l with age := 0 }) (full ⟨l.data, l.pois⟩ i)
  else if c.storing line i then (s, true)
  else
    match c.line? line with
    | none =>
      if (c.missOf line).isSome then (s.onCore x.id (·.mark x.g a), true)
      else
        match s.l2Request k .rds line (!ca) .init with
        | some s1 => (s1.onCore x.id (·.mark x.g a), true)
        | none => (s, true)
    | some l =>
      let v : LineVal := ⟨l.data, l.pois⟩
      let mine := core.outOf x.g a false
      if ca then
        match s.l1Way x.id line with
        | none => (s, true)
        | some (w, s1) =>
          let s2 := if mine then s1 else s1.l2Hit k line
          let s3 := (s2.onL1 x.id w (·.fill i v)).count k 4 1
          let y := (s3.core x.id).l1.get w .init
          give s3 (full ⟨y.data, y.pois⟩ i)
      else
        let s1 := if mine then s else s.setClu k (c.upd line fun y => { y with age := 0 })
        give s1 ((core.l1Dirty line i).over (full v i))

/-- The 32 bytes of window sector from the weight stores, which a load of any kind but .nw reads (R66). -/
def State.windowSector (s : State) (off : Nat) : SecPart := ⟨BitVec.allOnes 32, ofBytes 256 (s.ws.readBytes off 32), 0⟩

/-- The 32 bytes at a control-space offset as a kernel reads them (R168, R468). -/
def State.controlSector (s : State) (off : Nat) (need : BitVec 32) : SecPart :=
  ⟨BitVec.allOnes 32, (List.range 8).foldl (fun d i =>
    if need.getLsbD (4 * i) then d ||| (place 256 (32 * i) (s.kernelWord (off + 4 * i))) else d) 0, 0⟩

/-- A .nw load of a sector enters the queue of its pseudo-channel, with the bytes that the buffers hold for it; none while 64 wait there
(R287, R288). -/
def State.gather (s : State) (x : Ctx) (off : Nat) : Option State :=
  let line := off / 128
  let b := s.bufs line
  let h := s.homeOfLine line
  if 64 ≤ (h.gq.filter fun r => (s.locOf (r.sector / 4)).pc == (s.locOf line).pc).length then none
  else
    some (s.onHome line fun h =>
      { h with gq := h.gq ++ [{ core := x.id, grp := x.g, sector := off / 32, serial := h.stackSerial, since := s.tb.now,
                                mask := b.mask, data := b.data, pois := b.pois }],
               stackSerial := h.stackSerial + 1 })

/-- A sector for a load of the group: the new state, and whether the group must wait for it. A load other than .nw takes its group's
buffered bytes, and any load waits for another group's entry (R62, R155); one past the store buffer waits for the core's earlier stores to
the sector that are on their way to its home (R154, R160). (DEDUCED, log entry 12; unsafe.) -/
def State.loadSector (s : State) (x : Ctx) (kind : Kind) (q : Nat) (need : BitVec 32) : State × Bool :=
  let a : BitVec 64 := BitVec.ofNat 64 (32 * q)
  let core := s.core x.id
  if (core.resOf x.g a).isSome then (s, false)
  else
    let own := if kind == .nw then SecPart.zero else core.own x.g a
    if core.foreign x.g a need then (s, true)
    else if kind != .nw && need &&& ~~~own.mask == 0 then (s.addRes x a own, false)
    else if kind != .nw && core.storeOut a then (s, true)
    else
      match placeOf s.mid a with
      | .window off => (s.addRes x a (s.windowSector off), false)
      | .control off =>
        let s1 := (List.range 8).foldl (fun s i => if need.getLsbD (4 * i) then s.readings (pageOf (off + 4 * i)) else s) s
        (s1.addRes x a (s1.controlSector off need), false)
      | .remote m off =>
        if core.outOf x.g a false then (s, true)
        else
          (match (s.onCore x.id (·.ask x.g a 0 true own)).sendTag (.load x.id x.g a) m off 0x01 0 0 [] 0 with
            | some s1 => (s1, ((s1.core x.id).resOf x.g a).isNone)
            | none => (s, true))
      | .hbm off =>
        let line := off / 128
        let i := off / 32 % 4
        (match kind with
          | .ca => s.cachedSector x true a line i need own
          | .cg => s.cachedSector x false a line i need own
          | .uc =>
            if core.outOf x.g a false || (s.clu (cluOf x.id)).storing line i then (s, true)
            else
              let p : Pay := { Pay.init with sector := off / 32, core := x.id, grp := x.g }
              (match s.l2Request (cluOf x.id) (.ucr false) line false p with
                | some s1 => (s1.onCore x.id (·.ask x.g a 0 true (own.over (core.l1Dirty line i))), true)
                | none => (s, true))
          | .nw =>
            if core.outOf x.g a false then (s, true)
            else
              (match s.gather x off with
                | some s1 => (s1.onCore x.id (·.ask x.g a 0 true .zero), true)
                | none => (s, true)))
      | .none => (s, true)

/-- Asks for every sector of a load; the second part is whether some are still to come. -/
def State.loadSectors (s : State) (x : Ctx) (kind : Kind) (n : Nat) (acc : List (Nat × BitVec 64)) : State × Bool :=
  (sectorsOf n acc).foldl (fun (r : State × Bool) q =>
    let t := r.1.loadSector x kind q (needOf n acc q); (t.1, r.2 || t.2)) (s, false)

/-- The bytes of a lane from the sectors that have come, with its poisoned words' first address, and a code. -/
structure LaneGot where
  data : BitVec 128
  pois : Option (BitVec 64)
  err : Code

def Core.laneGot (c : Core) (g : BitVec 4) (n : Nat) (a : BitVec 64) : LaneGot :=
  (List.range n).foldl (fun (r : LaneGot) i =>
    let b := a.toNat + i
    let sa : BitVec 64 := BitVec.ofNat 64 (32 * (b / 32))
    let u := (c.resOf g sa).getD .init
    { data := r.data ||| place 128 (8 * i) (u.data.extractLsb' (8 * (b % 32)) 8),
      pois := if r.pois.isSome then r.pois
        else if u.pois.getLsbD (b % 32 / 4) then some (BitVec.ofNat 64 (4 * (b / 4))) else none,
      err := if r.err = 0 then u.err else r.err }) ⟨0, none, 0⟩

/-- Records the address of a load that was delivered poisoned (R388): while V is 0, and for the first one of each step. -/
def State.notePoison (s : State) (id : CoreId) (a : BitVec 64) : State :=
  let step := match (s.core id).launch with
    | some l => (s.launches.get l .init).queue == 0xFFFF
    | none => false
  if !s.fe.pstatV || (step && !s.fe.stepPoison) then
    { s with fe := { s.fe with paddr := a, pstatV := true, pstatCore := id, stepPoison := s.fe.stepPoison || step } }
  else s

/-- The group's instruction no longer holds what it has received. -/
def Core.clearRes (c : Core) (g : BitVec 4) : Core :=
  { c with ucRes := c.ucRes.filter (·.grp != g), ucOut := c.ucOut.filter fun o => o.grp != g || o.store }

/-! ### Scratchpad -/

/-- The bytes that start at a scratchpad address; a sector not yet written reads 0 (R64). -/
def Core.spadRead (c : Core) (a n : Nat) : List Byte :=
  (List.range n).map fun i => if c.spadWr.contains ((a + i) / 32) then c.spad.read (a + i) else 0

def Core.spadPoisAt (c : Core) (a n : Nat) : Bool := (List.range n).any fun i => c.spadPois.contains ((a + i) / 4)

/-- Writes bytes; a first write of a sector zeroes the rest of it (R64), a whole word clears its poison and a part does not
(R371). -/
def Core.spadWrite (c : Core) (a : Nat) (bs : List Byte) (pois : Bool) : Core :=
  let n := bs.length
  let fresh (m : Memory) : Memory :=
    (List.range ((a + n - 1) / 32 - a / 32 + 1)).foldl (fun m i =>
      if c.spadWr.contains (a / 32 + i) then m else m.writeBytes (32 * (a / 32 + i)) (List.replicate 32 0#8)) m
  let words := (List.range ((a + n - 1) / 4 - a / 4 + 1)).map (a / 4 + ·)
  { c with
    spad := (fresh c.spad).writeBytes a bs
    spadWr := (List.range ((a + n - 1) / 32 - a / 32 + 1)).foldl (fun l i => insertNat l (a / 32 + i)) c.spadWr
    spadPois := words.foldl (fun l w =>
      if pois then insertNat l w
      else if a ≤ 4 * w && 4 * w + 4 ≤ a + n then l.filter (· != w) else l) c.spadPois }

/-! ### Array tiles, which scratchpad accesses must not overtake (R81) -/

/-- Rows and columns of a sub-array (R73). -/
def subDim (pack : BitVec 2) : Nat := if pack = 0 then 32 else if pack = 1 then 16 else 8

/-- Element width in bits (R84). -/
def fmtBits : Fmt → Nat
  | .mxfp4 => 4
  | .int16 => 16
  | .bf16 => 16
  | _ => 8

/-- Formats with a scale sector (R76). -/
def isMx : Fmt → Bool
  | .mxfp4 => true
  | .mxint8 => true
  | .e4m3 => true
  | .e5m2 => true
  | _ => false

/-- The scale sector of a block. -/
def scaleBytes (mode : MxMode) (f : Fmt) : Nat := if mode == .mma && isMx f then 32 else 0

/-- Bytes of one K block of a tile of `l` rows or columns, padded to 32 B (R76). -/
def blockBytes (mode : MxMode) (f : Fmt) (l : Nat) : Nat := (scaleBytes mode f + 4 * l * fmtBits f + 31) / 32 * 32

/-- Bytes of a drained element (R95). -/
def drainBytes : DFmt → Nat
  | .fp32 => 4
  | .bf16 => 2
  | .e4m3 => 1
  | .int32 => 4

/-- Scratchpad ranges that a queued or running matrix instruction reads or writes, as start and length: an MXOP's blocks that have run
count until the instruction is done (R81). -/
def MxEntry.ranges (e : MxEntry) (pack : BitVec 2) : List (Nat × Nat) :=
  let d := subDim pack
  match e.work with
  | .z _ => []
  | .op mode a b ascr aAddr bAddr left =>
    let tile (at_ n : Nat) : Nat × Nat := (at_ - e.ran * n, (e.ran + left) * n)
    (if ascr then [tile aAddr (blockBytes mode a d)] else []) ++ [tile bAddr (blockBytes mode b d)]
  | .drn f _ addr => [(addr, d * d * drainBytes f)]

/-- A scratchpad access of some lane overlaps a range of a queued or running matrix instruction. -/
def Core.interlocked (c : Core) (n : Nat) (acc : List (Nat × BitVec 64)) : Bool :=
  (c.arr.queue.map fun e => e.ranges c.arr.pack).flatten.any fun r =>
    acc.any fun p => p.2.toNat < r.1 + r.2 && r.1 < p.2.toNat + n

/-- Sectors of an issued FNPUT's range that the router has not read (R234). -/
def PutJob.unread (j : PutJob) : List Nat := (List.range (ceilDiv j.len 32)).filter fun i => !j.got.any (·.at_ == i)

/-- A range of bytes overlaps a sector that the router has still to read for an FNPUT with a serial below `m`. -/
def Core.putsHold (c : Core) (m a n : Nat) : Bool :=
  c.puts.any fun j => decide (j.serial < m) && j.unread.any fun i => a < j.addr + 32 * i + 32 && j.addr + 32 * i < a + n

/-- A scratchpad store of some lane waits: for a matrix instruction (R81), or until the router has read the sector (R234). -/
def Core.storeHeld (c : Core) (n : Nat) (acc : List (Nat × BitVec 64)) : Bool :=
  c.interlocked n acc || acc.any fun p => c.putsHold c.putSerial p.2.toNat n

/-- A queued MXDRN that the core had issued before an FNPUT writes the sector at `a` (R234). -/
def Core.drains (c : Core) (serial a : Nat) : Bool :=
  c.arr.queue.any fun e => decide (e.puts ≤ serial) &&
    match e.work with
    | .drn _ _ _ => (e.ranges c.arr.pack).any fun r => decide (a < r.1 + r.2) && decide (r.1 < a + 32)
    | _ => false

/-- The router reads every sector that no earlier matrix instruction still writes (R234). -/
def Core.readPuts (c : Core) : Core :=
  { c with puts := c.puts.map fun j =>
      { j with got := j.got ++ ((j.unread.filter fun i => !c.drains j.serial (j.addr + 32 * i)).map fun i =>
          { at_ := i, data := ofBytes 256 (c.spadRead (j.addr + 32 * i) 32),
            pois := c.spadPoisAt (j.addr + 32 * i) (min 32 (j.len - 32 * i)) }) } }

/-- The contribution that a wholly read range makes. -/
def PutJob.data (j : PutJob) : List Byte :=
  ((List.range (ceilDiv j.len 32)).flatMap fun i =>
    toBytes 32 (((j.got.find? (·.at_ == i)).map (·.data)).getD 0)).take j.len

/-! ### Leaving the store buffer -/

/-- Whether the entries of one store instruction cover a whole line that the slice does not hold (R196). -/
def Core.zeroLine (c : Core) (e : SbEntry) : Bool :=
  (List.range 4).all fun i => c.sb.any fun y =>
    y.inst == e.inst && y.grp == e.grp && y.kind == e.kind && y.addr == (e.addr &&& ~~~127#64) + BitVec.ofNat 64 (32 * i) &&
      y.mask == BitVec.allOnes 32

/-- The entry's bytes written into an L1 copy, if there is one (R162, R189): dirty when only L1 takes them (R163), otherwise no longer
dirty, since they go on to L2 or the home. A store that only updates a copy is no hit of R191, and leaves its age. (DEDUCED, log entry 12;
unsafe.) -/
def State.l1Store (s : State) (id : CoreId) (line i : Nat) (p : SecPart) (dirty : Bool) : State :=
  match (s.core id).l1Find line with
  | none => s
  | some w =>
    s.onL1 id w fun l =>
      { l with data := mergeLine l.data (p.lineVal i).data (p.lineMask i),
               pois := mergePois l.pois (p.lineVal i).pois (p.lineMask i),
               dirty := if dirty then l.dirty ||| p.lineMask i else l.dirty &&& ~~~(p.lineMask i),
               age := if dirty then 0 else l.age }

/-- A kernel's store to a word of control space: it acts on the W1C fields of the core and array blocks alone (R468).
(DEDUCED, log entry 13; unsafe.) -/
def State.kernelStoreWord (s : State) (o : Nat) (v : Word) : State :=
  let p := pageOf o
  if s.pageOut p then s
  else
    match p with
    | .co g 0x18 =>
      s.onCore (BitVec.ofNat 20 g) fun c => if bitAt v 31 then { c with errValid := false } else c
    | .mx g 0x08 =>
      s.onCore (BitVec.ofNat 20 g) fun c => { c with arr := { c.arr with flags := c.arr.flags &&& ~~~(v.setWidth 5) } }
    | _ => s

/-- The words of an entry reach control space, in ascending order (R184). -/
def State.kernelStore (s : State) (off : Nat) (p : SecPart) : State :=
  (List.range 8).foldl (fun s i =>
    if p.mask.getLsbD (4 * i) then s.kernelStoreWord (off + 4 * i) (p.data.extractLsb' (32 * i) 32) else s) s

/-- The event count of a drained entry, and CO_STATE once the buffer of a finished block is empty (R71, R404). -/
def State.drained (s : State) (id : CoreId) (n : Nat) : State :=
  (s.onCore id fun c => if c.sb.isEmpty && c.run == 3 then { c with run := 0 } else c).count (cluOf id) 8 n

/-- What the core has sent to the entry's sector earlier, by another path, is performed, so that the bytes of one group keep their
order (R153, R187). -/
def State.mayLeave (s : State) (id : CoreId) (e : SbEntry) : Bool :=
  !(s.core id).storeOut e.addr &&
    match placeOf s.mid e.addr with
    | .hbm off => !(e.kind == .uc && (s.clu (cluOf id)).storing (off / 128) (off / 32 % 4))
    | _ => true

/-- The oldest entry of a group leaves the buffer (R61): into L1 for a .ca store of a BIM launch, to the slice, to the
home for .uc, to another module, or to control space. None while its destination cannot take it. -/
def State.drainOne (s : State) (id : CoreId) (g : BitVec 4) : Option State :=
  let c := s.core id
  match c.sb.find? (·.grp == g) with
  | none => none
  | some e =>
    let gone (s : State) : State := s.onCore id fun c => { c with sb := c.sb.filter (·.serial != e.serial) }
    let out (s : State) : State := s.onCore id fun c =>
      { c with ucOut := c.ucOut ++ [{ UcOut.init with grp := g, addr := e.addr, store := true, serial := e.serial, uc := true,
                                                      lid := c.l1of }] }
    if !s.mayLeave id e then none
    else
      match placeOf s.mid e.addr with
      | .remote m off =>
        let segs := toBytes 16 (e.mask.setWidth 128) ++ toBytes 32 e.data
        ((out (gone s)).sendTag (.store id g e.addr) m off 0x02 0 0 segs e.pois).map fun s => s.drained id 1
      | .hbm off =>
        let line := off / 128
        let i := off / 32 % 4
        let p := e.part
        if s.protectedBy (some (id, g)) (· == off / 32) then none
        else if e.kind == .uc then
          let pay : Pay := { Pay.init with sector := off / 32, mask := e.mask, data := e.data, pois := e.pois, core := id, grp := g }
          ((out ((gone s).l1Store id line i p false)).l2Request (cluOf id) .ucw line false pay).map fun s => s.drained id 1
        else if e.kind == .ca && c.mode then
          ((gone s).l1Way id line).map fun r => (r.2.l1Store id line i p true).drained id 1
        else if c.zeroLine e && (((s.clu (cluOf id)).line? line).isNone) then
          let mates := c.sb.filter fun y => y.inst == e.inst && y.grp == g && y.addr.toNat / 128 == e.addr.toNat / 128
          let v : LineVal := mates.foldl (fun v y =>
            let j := y.addr.toNat / 32 % 4
            ⟨v.data ||| (y.part.lineVal j).data, v.pois ||| (y.part.lineVal j).pois⟩) ⟨0, 0⟩
          let s1 := s.onCore id fun c => { c with sb := c.sb.filter fun y => !(mates.any (·.serial == y.serial)) }
          let s2 := mates.foldl (fun s y => s.l1Store id line (y.addr.toNat / 32 % 4) y.part false) s1
          (s2.l2Accept id (some (g, e.serial)) line (BitVec.allOnes 128) v true).map fun s => s.drained id mates.length
        else
          (((gone s).l1Store id line i p false).l2Accept id (some (g, e.serial)) line (p.lineMask i) (p.lineVal i) false).map fun s =>
            s.drained id 1
      | .control off => some (((gone s).kernelStore off e.part).drained id 1)
      | _ => some (gone s)

/-- The oldest entry of the group waits for a miss entry of the slice (R190) or for a remote-request tag (R266). -/
def State.drainHeld (s : State) (id : CoreId) (g : BitVec 4) : Bool :=
  match (s.core id).sb.find? (·.grp == g) with
  | none => false
  | some e =>
    (match placeOf s.mid e.addr with
      | .remote _ _ => s.am.freeTag.isNone
      | _ => (s.clu (cluOf id)).freeTag.isNone) && (s.drainOne id g).isNone

/-- STORE_BUFFER_DRAIN: the oldest entry of the group leaves, while the island's clock runs; one that waits for a miss entry or a remote tag
shows in its group's stall reason as SBUF (R46, R190, R266). -/
def storeBufferDrainOp (g : GroupAt) (s : State) : State :=
  if !(s.clu (cluOf g.core)).runs then s
  else
    match s.drainOne g.core g.grp with
    | some s1 => s1
    | none =>
      if s.drainHeld g.core g.grp then
        (match (s.core g.core).groups.get? g.grp.toNat with
          | some gr => s.onCore g.core (·.setGroup g.grp { gr with stall := 5 })
          | none => s)
      else s

def execStoreBufferDrain (g : GroupAt) (s : State) : Host.Outcome State Fault Refusal := .next (storeBufferDrainOp g s)

end Sys2Proof.Machine
end

