-- ==== Sys2Proof/Machine/Reduce.lean ====
section
/-! DEFINITION. What a firn reduction computes: leaf values and combines (R227 to R229), the fixed-order tree (R238), root transforms
(R242), output conversions (R243) and the statistics of a watched round (R247, R408, R410). -/
namespace Sys2Proof.Machine

/-- The little-endian bytes of words, and the words of bytes. -/
def unwords (ws : List Word) : List Byte := (ws.map (toBytes 4)).flatten

def allWords : List Byte → List Word
  | a :: b :: c :: d :: t => (d ++ c ++ b ++ a) :: allWords t
  | _ => []

def halves : List Byte → List (BitVec 16)
  | a :: b :: t => (b ++ a) :: halves t
  | _ => []

/-- A NaN made canonical (R228). -/
def canon (w : Word) : Word := if (f32 w).isNan then 0x7FC00000 else w

/-- 8 B elements with a NaN value made canonical. -/
def canonPairs : List Word → List Word
  | v :: i :: t => canon v :: i :: canonPairs t
  | l => l

/-- The leaf values of the compare operations. -/
def comparePairs (gt : Bool) : List Word → List Word
  | a :: b :: t => (if (if gt then decide (b.toInt < a.toInt) else a != b) then 1 else 0) :: comparePairs gt t
  | _ => []

/-- The leaf values of a contribution (R227, R228). -/
def Desc.leaf (d : Desc) (bs : List Byte) : List Word :=
  match d.op with
  | 4 => if d.infmt = 3 then canonPairs (allWords bs) else allWords bs
  | 5 => if d.infmt = 3 then canonPairs (allWords bs) else allWords bs
  | 6 => comparePairs true (allWords bs)
  | 7 => comparePairs false (allWords bs)
  | 8 => []
  | _ =>
    if d.infmt = 1 then (halves bs).map fun h => canon (h ++ (0 : BitVec 16))
    else if d.infmt = 2 then allWords bs
    else (allWords bs).map canon

/-- The candidate (v, i) beats (w, j) under ARGMAX, or ARGMIN when `least` (R229). -/
def beats (least float : Bool) (v i w j : Word) : Bool :=
  let o : Option Ordering := if float then (f32 v).cmp (f32 w) else some (compare v.toInt w.toInt)
  let nv := float && (f32 v).isNan
  let nw := float && (f32 w).isNan
  (!nv && nw) || (!nv && !nw && o == some (if least then .lt else .gt)) ||
    ((nv && nw || o == some .eq) && decide (i.toNat < j.toNat))

def argPairs (least float : Bool) : List Word → List Word → List Word
  | v :: i :: t, w :: j :: u => (if beats least float w j v i then [w, j] else [v, i]) ++ argPairs least float t u
  | _, _ => []

/-- The combine of one word, left operand first (R227). -/
def Desc.combineW (d : Desc) (a b : Word) : Word :=
  match d.op with
  | 0 => toF32 .rn (FVal.add .rn (f32 a) (f32 b))
  | 2 => if d.infmt = 2 then (if a.toInt ≤ b.toInt then a else b) else toF32 .rn (FVal.min (f32 a) (f32 b))
  | 3 => if d.infmt = 2 then (if b.toInt ≤ a.toInt then a else b) else toF32 .rn (FVal.max (f32 a) (f32 b))
  | _ => a + b

def Desc.combine (d : Desc) (a b : List Word) : List Word :=
  if d.op = 4 || d.op = 5 then argPairs (d.op = 5) (d.infmt = 3) a b else List.zipWith d.combineW a b

/-- A value in the network with its poison (R372). -/
structure FnVal where
  words : List Word
  pois : Bool
  deriving DecidableEq, Repr

def FnVal.with_ (a b : FnVal) (d : Desc) : FnVal := ⟨d.combine a.words b.words, a.pois || b.pois⟩

def Round.partAt (r : Round) (l p : Nat) : Option Part := r.parts.find? fun x => x.level == l && x.pos == p

/-- The value of level `l`, position `p` under FO, when its operands are present (R238). -/
def Round.value (r : Round) (d : Desc) (n : Nat) : Nat → Nat → Option FnVal
  | 0, p => (r.partAt 0 p).map fun x => ⟨allWords x.data, x.pois⟩
  | l + 1, p =>
    match r.partAt (l + 1) p with
    | some x => some ⟨allWords x.data, x.pois⟩
    | none =>
      let a := r.value d n l (2 * p)
      if levelWidth n l ≤ 2 * p + 1 then a
      else
        match a, r.value d n l (2 * p + 1) with
        | some a, some b => some (a.with_ b d)
        | _, _ => none

/-- The value under AO: what the root has combined, once it holds every contribution (R240). -/
def Round.arrival (r : Round) (n : Nat) : Option FnVal :=
  match r.partAt 3 0 with
  | some x => if x.cnt = n then some ⟨allWords x.data, x.pois⟩ else none
  | none => none

def Round.total (r : Round) (d : Desc) (n : Nat) : Option FnVal :=
  if n = 0 then none else if d.ao then r.arrival n else r.value d n (topLevel n) 0

/-- The operand that has come for a place (R241). -/
def Round.usedAt (r : Round) (l p : Nat) : Option Part := r.used.find? fun x => x.level == l && x.pos == p

def Part.val (x : Part) : FnVal := ⟨allWords x.data, x.pois⟩

def Round.hold (r : Round) (l p cnt : Nat) (v : FnVal) : Round :=
  { r with parts := r.parts ++ [{ Part.init with level := l, pos := p, cnt := cnt, data := unwords v.words, pois := v.pois }] }

def Round.drop (r : Round) (l p : Nat) : Round := { r with parts := r.parts.filter fun x => !(x.level == l && x.pos == p) }

/-- A value that leaves its place for another. -/
structure UpOut where
  level : Nat
  pos : Nat
  val : FnVal
  deriving DecidableEq, Repr

/-- Under FO an operand at the place of its combine waits for its sibling, or is combined with it, the lower position on the left; the
result is combined further as far as the same place `stays` its own, and is held as the round's value at the top (R238, R239). -/
def Desc.join (d : Desc) (n : Nat) (stays : Nat → Nat → Bool) : Nat → Round → Nat → Nat → FnVal → Round × Option UpOut
  | 0, r, _, _, _ => (r, none)
  | k + 1, r, l, p, v =>
    let q := loneUp n 32 l p
    if levelWidth n q.1 ≤ 1 then (r.hold q.1 q.2 1 v, none)
    else
      match r.partAt q.1 (siblingPos q.2) with
      | none => (r.hold q.1 q.2 1 v, none)
      | some y =>
        let w := if q.2 % 2 = 0 then v.with_ y.val d else y.val.with_ v d
        let r1 := r.drop q.1 (siblingPos q.2)
        if stays (q.1 + 1) (q.2 / 2) then d.join n stays k r1 (q.1 + 1) (q.2 / 2) w else (r1, some ⟨q.1 + 1, q.2 / 2, w⟩)

/-- Under AO a value of `cnt` contributions joins what has accumulated at level `l`, position `p`, in the order of arrival; it leaves when
`need` contributions are there (R240). -/
def Desc.gather (d : Desc) (r : Round) (l p cnt need : Nat) (v : FnVal) : Round × Option UpOut :=
  let w := match r.partAt l p with
    | some y => (y.val.with_ v d, y.cnt + cnt)
    | none => (v, cnt)
  if w.2 = need then (r.drop l p, some ⟨l, p, w.1⟩) else ((r.drop l p).hold l p w.2 w.1, none)

/-! ### Root -/

/-- RSQMEAN of one element (R242). -/
def Desc.rsqMean (d : Desc) (y : Word) : Word :=
  let m := toF32 .rn (FVal.mul (f32 y) (f32 d.inv))
  rsq32 (toF32 .rn (FVal.add .rn (f32 m) (f32 d.eps)))

/-- ANCSUM over the columns of the step (R242). -/
def ancSum (cols : List Col) (y : List Word) : List Word :=
  (List.range y.length).map fun j =>
    match cols[j]? with
    | none => 0
    | some c =>
      (List.range (min cols.length y.length)).foldl (fun a i =>
        match cols[i]? with
        | some x => if x.slot == c.slot && 1 ≤ x.node && c.anc.getLsbD x.node then a + wordAt y i else a
        | none => a) 0

/-- SCALE with the companion's row (R242). -/
def scaleBy (cols : Nat) (z y : List Word) : List Word :=
  (List.range y.length).map fun i => toF32 .rn (FVal.mul (f32 (wordAt y i)) (f32 (wordAt z (i % cols))))

/-- The magnitude of a finite value as ⌊log2⌋, none for zero. -/
def log2Of : FVal → Option Int
  | .fin _ m e => if m = 0 then none else some ((m.log2 : Int) + e)
  | _ => none

/-- An MXINT8 block of 32 values: its scale and elements (R243). -/
def mxInt8Block (ys : List FVal) : Byte × List Byte :=
  if ys.any fun y => match y with
      | .fin _ _ _ => false
      | _ => true then (0xFF, ys.map fun _ => 0)
  else
    match (ys.filterMap log2Of) with
    | [] => (0, ys.map fun _ => 0)
    | g :: t =>
      let sc : Int := Max.max 0 (Min.min 254 (t.foldl Max.max g + 127))
      (BitVec.ofInt 8 sc, ys.map fun y =>
        match y with
        | .fin s m e => BitVec.ofInt 8 (FVal.toInt .rn (-127) 127 (.fin s m (e + 6 - (sc - 127))))
        | _ => 0)

/-- A result of ROWS × COLS values in MXINT8, block by block in the B-tile layout (R76, R243). -/
def mxInt8Bytes (rows cols : Nat) (y : List Word) : List Byte :=
  ((List.range (rows / 32)).map fun k =>
    let blks := (List.range cols).map fun c =>
      mxInt8Block ((List.range 32).map fun r => f32 (wordAt y ((32 * k + r) * cols + c)))
    ((List.range 32).map fun c => ((blks[c]?).map (·.1)).getD 0) ++
      ((List.range 32).map fun r => blks.map fun b => b.2.getD r 0).flatten).flatten

/-- The output conversion (R243). -/
def Desc.output (d : Desc) (y : List Word) : List Byte :=
  match d.outfmt with
  | 1 => (y.map fun w => toBytes 2 (BitVec.ofNat 16 (fBf16.encode .rn (f32 w)))).flatten
  | 4 => mxInt8Bytes d.rows d.cols y
  | _ => unwords y

/-! ### Statistics -/

/-- Every other element: the values of ARG results. -/
def evens : List Word → List Word
  | v :: _ :: t => v :: evens t
  | _ => []

/-- A quotient of a finite FP64 value by a count, rounded once to FP32: the quotient's bits below its last place are
gathered into one sticky bit. -/
def meanOf (sum : FVal) (n : Nat) : Word :=
  match sum with
  | .fin s m e =>
    if n = 0 then 0
    else
      let big := m * 2 ^ 128
      toF32 .rn (.fin s (2 * (big / n) + (if big % n = 0 then 0 else 1)) (e - 129))
  | x => toF32 .rn x

/-- The statistics of R247 over the values `y`: MIN, MAX, MEAN and NONFIN. -/
def statsOf (float : Bool) (y : List Word) : Word × Word × Word × Nat :=
  let val (w : Word) : FVal := if float then f32 w else FVal.ofInt w.toInt
  let fin := y.filter fun w => match val w with
    | .fin _ _ _ => true
    | _ => false
  let ext (f : FVal → FVal → FVal) (g : Word → Word → Word) (none_ : Word) : Word :=
    match fin with
    | [] => none_
    | x :: t => if float then toF32 .rn (t.foldl (fun a w => f a (f32 w)) (f32 x)) else t.foldl g x
  let lo (a b : Word) : Word := if a.toInt ≤ b.toInt then a else b
  let hi (a b : Word) : Word := if a.toInt ≤ b.toInt then b else a
  let sum := fin.foldl (fun (a : BitVec 64) w => toF64 .rn (FVal.add .rn (f64 a) (val w))) 0
  (ext FVal.min lo 0x7F800000, ext FVal.max hi 0xFF800000, if fin.isEmpty then 0 else meanOf (f64 sum) fin.length,
    y.length - fin.length)

/-- A watch record (R410). -/
def watchWords (did : DescId) (d : Desc) (epoch : BitVec 8) (rowg : BitVec 16) (num : Nat) (t : BitVec 64) (y : List Word)
    (out : List Byte) : List Word :=
  let arg := d.op = 4 || d.op = 5
  let float := if arg then d.infmt = 3 else (d.op = 0 || ((d.op = 2 || d.op = 3) && d.infmt != 2))
  let st := statsOf float (if arg then evens y else y)
  let g := crc64 out
  [place 32 16 did ||| place 32 8 epoch ||| place 32 0 (BitVec.ofNat 8 num),
   place 32 16 rowg ||| place 32 0 (BitVec.ofNat 16 st.2.2.2), t.setWidth 32, st.1, st.2.1, st.2.2.1, g.setWidth 32,
   (g >>> 32).setWidth 32]

/-- Whether a round is watched (R408). -/
def Debug.watches (g : Debug) (did : DescId) (d : Desc) (num : Nat) : Bool :=
  !d.isBarrier && (d.watch || (List.range 4).any fun n => g.twV.getLsbD n && g.twId.get n 0 == did) &&
    num % 256 % 2 ^ g.twDec.toNat == 0

end Sys2Proof.Machine
end

