-- ==== Sys2Proof/Machine/Firn.lean ====
section
/-! DEFINITION. The firn: contributions and rounds (R234 to R241), delivery (R244, R245), reductions across modules (R269, R272) and
the firn instructions (R152). -/
namespace Sys2Proof.Machine

/-- A contribution or result dropped under R236 at a router. It counts as one flit whatever its length, since the size of a flit is not
given. (DEDUCED, log entry 27; unsafe.) -/
def State.fnStale (s : State) (c : Clu) : State := s.setRtr c { s.rtr c with stale := satAdd (s.rtr c).stale 1 }

/-- The root lies on this module. -/
def State.rootHere (s : State) (d : Desc) : Bool := d.isShard || d.rootMod == s.mid

/-- The router page that counts what happens at the place of a value's combine: the router's, or, for a port's ALU, that of column 7, row 2 of
its edge floe (R241). -/
def State.countPlace (s : State) (did : DescId) (d : Desc) (rowg : BitVec 16) (layer : Nat) (ms : List Member) (l p : Nat) : Clu :=
  if d.inPort ms l p then ((s.portFrom (if d.ao then modAt ms p else rightMod ms l p) did).map s.edgeRouter).getD 0
  else (s.combineAt d rowg layer ms l p).clu

/-- The place of a value's combine, as a port's ALU or a router. -/
def State.siteOf (s : State) (did : DescId) (d : Desc) (rowg : BitVec 16) (layer : Nat) (ms : List Member) (l p : Nat) : Option PortId × FnPlace :=
  if d.inPort ms l p then (s.portFrom (if d.ao then modAt ms p else rightMod ms l p) did, ⟨s.mid, 0⟩)
  else (none, s.combineAt d rowg layer ms l p)

/-- The modules that the route of a descriptor's UP messages from module `m` passes, the root's last (R264). -/
def State.upPath (s : State) (d : Desc) (m : ModId) : List ModId := (s.route m d.rootMod).map fun h => s.stepMod h.1 h.2

/-- The modules to which a result goes on from here (R269). -/
def State.dnNext (s : State) (d : Desc) : List ModId := if d.isShard then [] else s.dnMods d (s.upPath d)

/-- A link has delivered a word poisoned after its replays (R226, R370, R407). (DESIGN CHOICE, log entry 64; unsafe.) -/
def State.linkFailed (s : State) (c : Clu) (bad : Bool) : State :=
  if bad then (s.poisoned 1).setRtr c { s.rtr c with par := true } else s

/-! ### Results -/

/-- A row group's result of round `num` is still wanted: by a reader that has not taken it, by another module, by the step
engine, or by a set SCALE descriptor whose round waits for it (R242, R245). -/
def State.wanted (s : State) (did : DescId) (d : Desc) (r : Result) (layer : Nat) : Bool :=
  ((s.readers d r.rowg layer).any fun c => d.taken.get c.toNat 0 ≤ r.num) ||
    (d.deliv == 2 && s.rootHere d && decide (d.engTaken.get r.rowg.toNat 0 ≤ r.num)) ||
    ((s.dnNext d).any fun m => !r.at_.contains (.remote m)) ||
    (s.descs.vals.any fun e => e.rootx == 1 && e.comp == did && (s.rowgs e).any fun g => decide (e.round.get g.toNat 0 ≤ r.num))

/-- Frees the results that nobody waits for. -/
def State.clean (s : State) (did : DescId) : State :=
  match s.descs.get? did.toNat with
  | none => s
  | some d => s.setDesc did { d with results := d.results.filter fun r => s.wanted did d r r.layer }

/-- Cleans a descriptor and the companion it names. -/
def State.cleanBoth (s : State) (did : DescId) (d : Desc) : State :=
  if d.rootx = 1 then (s.clean did).clean d.comp else s.clean did

/-- The record of a watched round waits at its root, a router that holds at most two of whatever rounds; a further one is dropped (R409). -/
def State.watchAt (s : State) (root : Clu) (did : DescId) (rowg : BitVec 16) (words : List Word) (time : BitVec 64) : State :=
  if 2 ≤ (s.dg.waiting.filter (·.root == root)).length then
    { s with dg := { s.dg with twDrop := satAdd s.dg.twDrop 1, trTotal := s.dg.trTotal + 1 } }
  else
    { s with dg := { s.dg with waiting := s.dg.waiting ++
        [{ root := root, desc := did, rowg := rowg, words := words, hi := (time >>> 32).setWidth 32 }] } }

/-- DN flits to the readers of a result on this module, to the modules that it goes on to, and at the root to the step engine (R244, R269). -/
def State.deliver (s : State) (did : DescId) (d : Desc) (rowg : BitVec 16) (layer num : Nat) (out : List Byte) (pois root : Bool) : State :=
  let dst (r : Reader) : DnMsg :=
    { h := ⟨did, rowg, s.descEp.get did.toNat 0, BitVec.ofNat 8 num, r⟩, num := num, data := out, pois := pois, layer := layer }
  { s with dnet := s.dnet ++ (s.readerClus d rowg layer).map (fun c => dst (.router c)) ++
      (if d.deliv = 2 && root then [dst .engine] else []) ++
      (s.dnNext d).map (fun m => dst (.remote m)) }

/-- The companion's row that a SCALE root waits for: the result of the same round (R242). -/
def State.compRow (s : State) (d : Desc) (r : Round) : Option FnVal :=
  match s.descs.get? d.comp.toNat with
  | none => none
  | some c =>
    (c.results.find? fun x => x.num == r.num && x.rowg == (if c.isShard then r.rowg else 0)).map fun x =>
      ⟨allWords x.data, x.pois⟩

/-- The value after ROOTX; none while the root waits for its companion (R242). SCALE and RSQMEAN take the words of an INT32 or ARG value,
for which no conversion is given, as FP32. (DEDUCED, log entry 27; unsafe.) -/
def State.rootValue (s : State) (d : Desc) (r : Round) (v : FnVal) : Option FnVal :=
  match d.rootx with
  | 1 => (s.compRow d r).map fun z => ⟨scaleBy d.cols z.words v.words, v.pois || z.pois⟩
  | 2 => some ⟨v.words.map d.rsqMean, v.pois⟩
  | 3 => some ⟨ancSum s.eng.cols v.words, v.pois⟩
  | _ => some v

/-- A completed round leaves the open rounds; the CRCs of copies used under a backup stay for a later copy (R241). -/
def Desc.close (d : Desc) (r : Round) (backed : Bool) : Desc :=
  { d with rounds := d.rounds.filter fun x => !(x.rowg == r.rowg && x.num == r.num),
           round := d.round.put r.rowg.toNat (r.num + 1),
           kept := if backed then d.kept ++ [{ r with parts := [] }] else d.kept }

/-- The root completes a round with its value: statistics, stamped by the root's island (R392), conversion and delivery. -/
def State.completeRound (s : State) (did : DescId) (d : Desc) (r : Round) (y : FnVal) : State :=
  let out := d.output y.words
  let ms := s.members d r.rowg r.layer
  let d1 := d.close r (ms.any (·.bk.isSome))
  let d2 := { d1 with results := d1.results ++ [{ Result.init with rowg := r.rowg, num := r.num, data := out, pois := y.pois, layer := r.layer }] }
  let s1 := s.setDesc did d2
  let s2 := if s.dg.watches did d r.num then
      let root := s.rootClu d r.rowg r.layer
      let t := s1.stampOf root
      t.2.watchAt root did r.rowg (watchWords did d (s.descEp.get did.toNat 0) r.rowg r.num t.1 y.words out) t.1
    else s1
  (s2.deliver did d r.rowg r.layer r.num out y.pois true).cleanBoth did d

/-- A reader can take rounds with FNGET: under FWD its window covers produced blocks only (R245). -/
def State.canTake (s : State) (d : Desc) (c : CoreId) : Bool :=
  d.deliv != 1 || match s.fwinOf d.fslot c with
    | some w => (List.range w.nblk.toNat).all fun k => (s.rowgs d).any fun g =>
        decide (d.blk0 g ≤ w.kblk0.toNat + k) && decide (w.kblk0.toNat + k < d.blk0 g + d.nblk)
    | none => false

/-- Round `num` of a row group waits: some reader here has not taken the round two before it, or a result of a round before it is still on
its way here, so that no third round enters the network (R235, R245). A core reads the rounds of a BARRIER that it contributes to
(R246). A window with a block that no row group produces holds nothing back (R245). -/
def State.behind (s : State) (did : DescId) (d : Desc) (rowg : BitVec 16) (layer num : Nat) : Bool :=
  ((s.readers d rowg layer).any fun k =>
      s.canTake d k && decide (d.taken.get k.toNat 0 + 2 ≤ num) &&
        (!d.isBarrier || decide (d.taken.get k.toNat 0 < d.put_.get k.toNat 0))) ||
    s.dnet.any fun m => m.h.desc == did && m.h.rowg == rowg && decide (m.num < num) && m.h.epoch == s.descEp.get did.toNat 0

/-- The round fails (R272): it is over on this module, and its readers' FNGETs stop with E_LINKDOWN. -/
def State.loseRound (s : State) (did : DescId) (rowg : BitVec 16) (num : Nat) : State :=
  match s.descs.get? did.toNat with
  | none => s
  | some d =>
    s.setDesc did { d with lost := insertNat d.lost num,
                           rounds := d.rounds.filter fun x => !(x.rowg == rowg && x.num == num),
                           round := d.round.put rowg.toNat (max (d.round.get rowg.toNat 0) (num + 1)) }

/-- The open or next round `num` of a row group, empty where nothing of it has come. -/
def Desc.roundAt (d : Desc) (rowg : BitVec 16) (num layer : Nat) : Round :=
  (d.rounds.find? fun x => x.rowg == rowg && x.num == num).getD { Round.init with rowg := rowg, num := num, layer := layer }

/-- A whole result from ROOTMOD: the round completes on this module and goes to its readers here. A round before it whose result never came
has failed. It goes on to the modules behind this one. -/
def State.takeResult (s : State) (did : DescId) (d : Desc) (n : Nat) (out : List Byte) (pois : Bool) : State :=
  let s0 := if d.round.get 0 0 < n then s.loseRound did 0 (n - 1) else s
  let d0 := (s0.descs.get? did.toNat).getD d
  let d1 := d0.close (d0.roundAt 0 n d.layer) ((s.members d 0 d.layer).any (·.bk.isSome))
  let d2 := { d1 with results := d1.results ++ [{ Result.init with rowg := 0, num := n, data := out, pois := pois, layer := d.layer }] }
  ((s0.setDesc did d2).deliver did d 0 d.layer n out pois false).clean did

/-- A result from ROOTMOD of which every message has come. -/
def State.wholeDn (s : State) (did : DescId) (d : Desc) (n : Nat) : Option DnMsg :=
  s.dnAsm.find? fun m => m.h.desc == did && m.num == n && m.h.epoch == s.descEp.get did.toNat 0 && decide (d.outBytes ≤ m.data.length)

/-- Completes the open round of a row group: at its root when all of it has been combined and its companion is there, on another module when
its result has come. -/
def State.tryComplete (s : State) (did : DescId) (rowg : BitVec 16) : State × Bool :=
  match s.descs.get? did.toNat with
  | none => (s, false)
  | some d =>
    let n := d.round.get rowg.toNat 0
    if !s.rootHere d then
      match (s.wholeDn did d n).orElse fun _ => s.wholeDn did d (n + 1) with
      | none => (s, false)
      | some m =>
        if s.behind did d rowg d.layer m.num then (s, false)
        else (({ s with dnAsm := s.dnAsm.erase m } : State).takeResult did d m.num (m.data.take d.outBytes) m.pois, true)
    else
      match d.rounds.find? fun r => r.rowg == rowg && r.num == n with
      | none => (s, false)
      | some r =>
        if s.behind did d rowg r.layer n then (s, false)
        else
        match (r.total d (s.members d rowg r.layer).length).bind (s.rootValue d r) with
        | none => (s, false)
        | some y => (s.completeRound did d r y, true)

/-- A completion lets the SCALE descriptors that name the descriptor complete in turn. -/
def State.settleRounds : Nat → State → DescId → BitVec 16 → State
  | 0, s, _, _ => s
  | n + 1, s, did, rowg =>
    let r := s.tryComplete did rowg
    if r.2 then
      (r.1.descs.entries.filter fun e => e.2.rootx == 1 && e.2.comp == did).foldl (fun s e =>
        (e.2.rounds.map (·.rowg)).foldl (fun s g => settleRounds n s (BitVec.ofNat 16 e.1) g) s) r.1
    else s

def State.settle (s : State) (did : DescId) (rowg : BitVec 16) : State := settleRounds (s.descs.size + 1) s did rowg

/-! ### Across modules -/

/-- The values of a round that travel as messages between modules: level and position, with the modules that a copy comes from. Under FO
they are the contributions and the results of combines (R269); under AO the contributions with a backup, and one value per module. -/
def Desc.travels (d : Desc) (ms : List Member) : List (Nat × Nat × List ModId) :=
  let n := ms.length
  let copies (i : Nat) : List ModId :=
    modAt ms i :: (match ms[i]?.bind (·.bk) with
      | some b => [b.2]
      | none => [])
  let leaf (i : Nat) : Nat × Nat × List ModId := (0, i, copies i)
  if d.ao then
    ((List.range n).filter (backed ms)).map leaf ++
      ((List.range n).filter fun i => (plainOn ms (modAt ms i)).head? == some i).map fun i => (2, i, [modAt ms i])
  else
    (List.range n).map leaf ++
      ((List.range (topLevel n)).map fun l => ((List.range (n / 2 ^ (l + 1) + 1)).filter fun p => 2 * p + 1 < levelWidth n l).map fun p =>
        (l + 1, p, [modAt ms (p * 2 ^ (l + 1))])).flatten

/-- NODE of a message (R254). -/
def Desc.nodeOf (d : Desc) (n l p : Nat) : Nat := if d.ao && 0 < l then nodeNumber n 1 (p / 2) else nodeNumber n l p

/-- A value that this module still needs from another can no longer arrive: every copy's route ends at, or crosses, a link of this module with
no ACTIVE member; or the result can not, from the root (R237, R272). (DEDUCED, log entry 26; unsafe.) -/
def State.cutOff (s : State) (d : Desc) (layer num : Nat) : Bool :=
  if d.isShard || decide (num < d.round.get 0 0) then false
  else
    let ms := s.members d 0 layer
    let used := ((d.rounds.find? fun r => r.num == num).map (·.used)).getD []
    (!s.rootHere d && s.cutRoute s.mid d.rootMod) ||
      (d.travels ms).any fun v =>
        (s.combineAt d 0 layer ms v.1 v.2.1).mod_ == s.mid && !(used.any fun x => x.level == v.1 && x.pos == v.2.1) &&
          v.2.2.all fun m => m != s.mid && s.cutRoute m s.mid

/-- The header words of an UP or DN message (R254). -/
def fnHdr (mtype len : Nat) (dst src : ModId) (did : DescId) (ep rnd : BitVec 8) (off node : Nat) : BitVec 128 :=
  mkHdr mtype len dst src 0 (place 32 16 did ||| place 32 8 ep ||| place 32 0 rnd)
    (place 32 8 (BitVec.ofNat 16 off) ||| place 32 0 (BitVec.ofNat 8 node))

/-- Sends a contribution, a partial or a result towards another module in messages of at most 224 B; a payload of no bytes takes
one message of one segment. None when its bundle has no ACTIVE member. -/
def State.sendFn (s : State) (out : Option Nat) (mtype : Nat) (dst : ModId) (did : DescId) (ep rnd : BitVec 8) (node : Nat)
    (data : List Byte) (pois : Bool) : Option State :=
  (List.range (max 1 (ceilDiv data.length 224))).foldl (fun o k =>
    o.bind fun s =>
      let piece := (data.drop (224 * k)).take 224
      let n := max 1 (ceilDiv piece.length 16)
      s.sendOut out (fun m => if m = 0 then 0 else did.toNat % m)
        (withPois (fnHdr mtype n dst s.mid did ep rnd (224 * k) node) (if pois then 0xFF else 0))
        (piece ++ List.replicate (16 * n - piece.length) 0#8)) (some s)

/-- The copy of a contribution other than the one that leaves module `from_` can still arrive at the place of its first combine (R272). -/
def State.otherCopy (s : State) (d : Desc) (ms : List Member) (l p : Nat) (from_ : ModId) : Bool :=
  l == 0 && backed ms p &&
    ((d.travels ms).filter fun v => v.1 == 0 && v.2.1 == p).any fun v => v.2.2.any fun m =>
      m != from_ && !s.cutRoute m (s.combineAt d 0 d.layer ms 0 p).mod_

/-- Sends a value towards its combine on another module; a lost one with no copy on its way fails the round (R272). -/
def State.sendUp (s : State) (did : DescId) (d : Desc) (ms : List Member) (num : Nat) (ep : BitVec 8) (l p : Nat) (dst : ModId)
    (data : List Byte) (pois : Bool) : State :=
  match s.sendFn (s.routeDir dst) 0x08 dst did ep (BitVec.ofNat 8 num) (d.nodeOf ms.length l p) data pois with
  | some s1 => s1
  | none => if s.otherCopy d ms l p s.mid then s else s.loseRound did 0 num

/-! ### UP -/

/-- A value leaves a place on this module for the place of its combine. -/
def State.sendValue (s : State) (did : DescId) (d : Desc) (rowg : BitVec 16) (layer num : Nat) (ep : BitVec 8) (ms : List Member) (l p : Nat)
    (bk : Bool) (src : Clu) (data : List Byte) (pois : Bool) : State :=
  let t := s.combineAt d rowg layer ms l p
  if t.mod_ == s.mid then
    { s with fnet := s.fnet ++ [{ UpMsg.init with
        h := ⟨did, rowg, ep, BitVec.ofNat 8 num, l, p, bk⟩, data := data, pois := pois, layer := layer, src := src }] }
  else s.sendUp did d ms num ep l p t.mod_ data pois

/-- A later copy of a backed-up contribution: dropped and counted, and compared under BKCHK (R241). -/
def State.dropCopy (s : State) (d : Desc) (c : Clu) (m : UpMsg) (used : Part) : State :=
  let r := s.rtr c
  s.setRtr c { r with bkdup := satAdd r.bkdup 1, bkdiff := r.bkdiff || (d.bkchk && crc32c m.data != used.crc) }

/-- Contributions that a value holds under AO: its own, its cluster's or its module's. -/
def aoCount (ms : List Member) (l p : Nat) : Nat :=
  if l = 0 then 1
  else if l = 1 then ((plainOn ms (modAt ms p)).filter fun i => cluAt ms i == cluAt ms p).length
  else (plainOn ms (modAt ms p)).length

/-- Contributions that the values of other modules which arrive at a port carry under AO (R265, R269). -/
def State.aoPort (s : State) (did : DescId) (ms : List Member) (port : PortId) : Nat :=
  ((ms.map (·.mod_)).foldl (fun (l : List ModId) m => if l.contains m then l else l ++ [m]) []).foldl (fun n m =>
    if m != s.mid && s.portFrom m did == some port then n + (plainOn ms m).length else n) 0

/-- Under AO a value joins the accumulation of its cluster, of its module, or of the root (R240). -/
def Desc.accumulate (d : Desc) (ms : List Member) (root : Bool) (r : Round) (l p : Nat) (v : FnVal) : Round × Option UpOut :=
  let k := aoCount ms l p
  let on := plainOn ms (modAt ms p)
  if root then d.gather r 3 0 k 0 v
  else if l = 0 then
    let low := (on.find? fun i => cluAt ms i == cluAt ms p).getD p
    d.gather r 1 low k (aoCount ms 1 low) v
  else d.gather r 2 (on.headD p) k on.length v

/-- A value at the place `at_` of its combine: what the round then holds, and what leaves the place. Under AO the values of other modules join in
the order they arrive in the port of the root's module that they come to (R240, R269). -/
def State.enter (s : State) (did : DescId) (d : Desc) (r : Round) (ms : List Member) (at_ : FnPlace) (l p : Nat) (v : FnVal) :
    Round × Option UpOut :=
  let stays (l p : Nat) : Bool := s.combineAt d r.rowg r.layer ms l p == at_
  if l = 4 then d.gather r 3 0 (s.aoPort did ms (BitVec.ofNat 5 p)) 0 v
  else if d.inPort ms l p && d.ao then
    match s.portFrom (modAt ms p) did with
    | some port => d.gather r 4 port.toNat (aoCount ms 2 p) (s.aoPort did ms port) v
    | none => d.accumulate ms true r l p v
  else if d.ao then
    let root := s.rootPlace d r.rowg r.layer == at_
    let a := d.accumulate ms root r l p v
    match a.2 with
    | some o => if o.level == 1 && stays 1 o.pos then d.accumulate ms root a.1 1 o.pos o.val else a
    | none => a
  else d.join ms.length stays 40 r l p v

/-- Holds a round; the first operand of round r + 2 that reaches a place ends the time for which that place keeps the CRCs of round r
(R241). `here` says which values are combined at the place. -/
def Desc.putRound (d : Desc) (r : Round) (here : Nat → Nat → Bool) : Desc :=
  { d with rounds := (d.rounds.filter fun x => !(x.rowg == r.rowg && x.num == r.num)) ++ [r],
           kept := (d.kept.map fun x =>
             if x.rowg == r.rowg && x.num + 2 ≤ r.num then { x with used := x.used.filter fun u => !here u.level u.pos } else x).filter
               fun x => !x.used.isEmpty }

/-- The operand enters its round (R239, R240): raw contributions become leaf values. -/
def State.acceptUp (s : State) (did : DescId) (d : Desc) (m : UpMsg) (num : Nat) : State :=
  let ms := s.members d m.h.rowg m.layer
  let at_ := s.combineAt d m.h.rowg m.layer ms m.h.level m.h.pos
  let r := d.roundAt m.h.rowg num m.layer
  match r.usedAt m.h.level m.h.pos with
  | some used => s.dropCopy d (s.countPlace did d m.h.rowg m.layer ms m.h.level m.h.pos) m used
  | none =>
    let v : FnVal := ⟨if m.h.level = 0 then d.leaf m.data else allWords m.data, m.pois⟩
    let r1 := { r with used := r.used ++ [{ Part.init with level := m.h.level, pos := m.h.pos, bk := m.h.bk, crc := crc32c m.data }] }
    let e := s.enter did d r1 ms at_ m.h.level m.h.pos v
    let site := s.siteOf did d m.h.rowg m.layer ms
    let s1 := s.setDesc did (d.putRound e.1 fun l p => site l p == site m.h.level m.h.pos)
    let s2 := match e.2 with
      | none => s1
      | some o => s1.sendValue did d m.h.rowg m.layer num m.h.epoch ms o.level o.pos false at_.clu (unwords o.val.words) o.val.pois
    s2.settle did m.h.rowg

/-- A copy that comes after its round completed, while its CRC is kept (R241). -/
def Desc.keptPart (d : Desc) (m : UpMsg) : Option Part :=
  (d.kept.filter fun r => r.rowg == m.h.rowg && BitVec.ofNat 8 r.num == m.h.round).findSome? fun r =>
    r.usedAt m.h.level m.h.pos

/-- The round of the descriptor that a flit's ROUND names: the open one or the next (R236). -/
def Desc.roundOf (d : Desc) (rowg : BitVec 16) (round : BitVec 8) : Option Nat :=
  let n := d.round.get rowg.toNat 0
  if round == BitVec.ofNat 8 n then some n else if round == BitVec.ofNat 8 (n + 1) then some (n + 1) else none

/-- An operand finds the staging space of its router full, and its sibling is not there (R239): it waits at its source. -/
def State.stageFull (s : State) (did : DescId) (d : Desc) (rowg : BitVec 16) (layer num : Nat) (ms : List Member) (l p : Nat) (data : List Byte) : Bool :=
  let at_ := s.combineAt d rowg layer ms l p
  let q := loneUp ms.length 32 l p
  let r := d.roundAt rowg num layer
  !d.inPort ms l p && (r.usedAt l p).isNone &&
    (if d.ao then (s.enter did d r ms at_ l p ⟨[], false⟩).1.parts.length > r.parts.length
     else 1 < levelWidth ms.length q.1 && (r.partAt q.1 (siblingPos q.2)).isNone) &&
    decide (8192 < s.staged at_.clu + stageUnits data)

/-- An UP flit at its place: dropped under another EPOCH or ROUND (R236), else accepted. It waits while its descriptor is
pending (R268), or for staging space (R239). A flit that has crossed a link may come poisoned (R370). -/
def upOp (u : UpHdr) (s : State) : State :=
  match s.fnet.find? fun m => m.h == u with
  | none => s
  | some m =>
    let s0 := { s with fnet := s.fnet.erase m }
    match s.descs.get? u.desc.toNat with
    | none => s0.fnStale m.src
    | some d =>
      if d.pend then s
      else
        let ms := s.members d u.rowg m.layer
        let c := s.countPlace u.desc d u.rowg m.layer ms u.level u.pos
        if u.epoch != s.descEp.get u.desc.toNat 0 then s0.fnStale c
        else
          match d.roundOf u.rowg u.round with
          | none =>
            match d.keptPart m with
            | some used => s0.dropCopy d c m used
            | none => s0.fnStale c
          | some n =>
            if s.stageFull u.desc d u.rowg m.layer n ms u.level u.pos m.data then s
            else
              let t := s0.take
              let bad := m.src != c && Config.linkFails t.1
              (t.2.linkFailed c bad).acceptUp u.desc d { m with pois := m.pois || bad } n

def execUp (u : UpHdr) (s : State) : Host.Outcome State Fault Refusal := .next (upOp u s)

/-! ### DN -/

/-- A reader holds a round's result; `bad` when its flits came poisoned. -/
def Desc.mark (d : Desc) (rowg : BitVec 16) (num : Nat) (r : Reader) (bad : Bool) : Desc :=
  { d with results := d.results.map fun x =>
      if x.rowg == rowg && x.num == num then { x with at_ := x.at_ ++ [r], bad := if bad then x.bad ++ [r] else x.bad } else x }

/-- The router whose page counts what happens to a DN flit: its own, or the root's where the step engine or a port takes it. -/
def State.dnPlace (s : State) (d : Desc) (h : DnHdr) (layer : Nat) : Clu :=
  match h.dst with
  | .router c => c
  | _ => s.rootClu d h.rowg layer

/-- A DN flit at its reader, which always consumes it (R226). A message of another EPOCH, or whose ROUND is over, is dropped (R236). -/
def dnOp (h : DnHdr) (s : State) : State :=
  match s.dnet.find? fun m => m.h == h with
  | none => s
  | some m =>
    let s0 := { s with dnet := s.dnet.erase m }
    match s.descs.get? h.desc.toNat with
    | none => match h.dst with
      | .router c => s0.fnStale c
      | _ => s0
    | some d =>
      let c := s.dnPlace d h m.layer
      if h.epoch != s.descEp.get h.desc.toNat 0 || !d.results.any (fun r => r.rowg == h.rowg && r.num == m.num) then s0.fnStale c
      else
        let t := s0.take
        let bad := Config.linkFails t.1
        let s1 := t.2.linkFailed c bad
        let s2 := s1.setDesc h.desc (d.mark h.rowg m.num h.dst bad)
        match h.dst with
        | .router _ => s2.settle h.desc h.rowg
        | .engine => s2.settle h.desc h.rowg
        | .remote q =>
          let s3 := (s2.sendFn (s2.backDir d.rootMod q) 0x09 q h.desc h.epoch h.round 0 m.data (m.pois || bad)).getD s2
          (s3.clean h.desc).settle h.desc h.rowg

def execDn (h : DnHdr) (s : State) : Host.Outcome State Fault Refusal := .next (dnOp h s)

/-! ### Messages from other modules -/

/-- The operand that an UP message from module `src` can be: the first of the values that travel with its NODE, of which a copy comes from
`src` and which this module combines. -/
def State.placeOfNode (s : State) (d : Desc) (ms : List Member) (src : ModId) (node : Nat) : Option (Nat × Nat) :=
  ((d.travels ms).find? fun v =>
    d.nodeOf ms.length v.1 v.2.1 == node && v.2.2.contains src && (s.combineAt d 0 d.layer ms v.1 v.2.1).mod_ == s.mid).map fun v =>
      (v.1, v.2.1)

/-- Bytes of an operand of a level: a raw contribution at level 0, combined values above it. -/
def Desc.operandBytes (d : Desc) (l : Nat) : Nat :=
  if l = 0 || d.isBarrier then d.inBytes else d.rows * d.cols * (if d.op = 4 || d.op = 5 then 8 else 4)

/-- Gathers the pieces of one message series; a complete one becomes a flit in flight. -/
def State.recvUp (s : State) (x : XMsg) (c : Clu) : State :=
  match s.descs.get? x.desc.toNat with
  | none => s.fnStale c
  | some d =>
    let ms := s.members d 0 d.layer
    match s.placeOfNode d ms x.smod x.node with
    | none => s.fnStale c
    | some (l, p) =>
      let h : UpHdr := ⟨x.desc, 0, x.epoch, x.round, l, p, l = 0 && modAt ms p != x.smod⟩
      let old := s.upAsm.find? fun m => m.h == h
      let data := ((old.map (·.data)).getD []) ++ x.segs
      let rest := s.upAsm.filter fun m => m.h != h
      let want := d.operandBytes l
      let m : UpMsg := { UpMsg.init with
        h := h, data := data, pois := ((old.map (·.pois)).getD false) || x.pois != 0, layer := d.layer, src := c }
      if want ≤ data.length then { s with upAsm := rest, fnet := s.fnet ++ [{ m with data := data.take want }] }
      else { s with upAsm := rest ++ [m] }

/-- A piece of a result from ROOTMOD, of the open round or of the one after (R236). A whole result waits while its round waits (R235, R245). -/
def State.recvDn (s : State) (x : XMsg) (c : Clu) : State :=
  match s.descs.get? x.desc.toNat with
  | none => s.fnStale c
  | some d =>
    match (if x.epoch == s.descEp.get x.desc.toNat 0 then d.roundOf 0 x.round else none) with
    | none => s.fnStale c
    | some n =>
      let h : DnHdr := ⟨x.desc, 0, x.epoch, x.round, .remote s.mid⟩
      let old := s.dnAsm.find? fun m => m.h == h
      let data := ((old.map (·.data)).getD []) ++ x.segs
      let pois := ((old.map (·.pois)).getD false) || x.pois != 0
      let rest := s.dnAsm.filter fun m => m.h != h
      ({ s with dnAsm := rest ++ [{ DnMsg.init with h := h, num := n, data := data, pois := pois }] } : State).settle x.desc 0

/-! ### The instructions -/

/-- The round `num` has completed at the router of a core (R235): at the root, and at that router when it is a reader's. -/
def State.completedAt (s : State) (did : DescId) (d : Desc) (rowg : BitVec 16) (num : Nat) (c : Clu) : Bool :=
  decide (num < d.round.get rowg.toNat 0) &&
    !(s.dnet.any fun m => m.h.desc == did && m.h.rowg == rowg && m.num == num && m.h.dst == .router c &&
      m.h.epoch == s.descEp.get did.toNat 0)

/-- A contribution of a core leaves for the place of its first combine as it is (R241, R269). -/
def State.contribute (s : State) (c : CoreId) (did : DescId) (d : Desc) (rowg : BitVec 16) (layer i num : Nat) (bk : Bool) (ep : BitVec 8)
    (data : List Byte) (pois : Bool) : State :=
  s.sendValue did d rowg layer num ep (s.members d rowg layer) 0 i bk (cluOf c) data pois

/-- The FNPUTs of a core whose ranges have been read to their end make their contributions (R234). -/
def State.putSweep (s : State) (id : CoreId) : State :=
  let c := (s.core id).readPuts
  let full := c.puts.filter fun j => j.unread.isEmpty
  full.foldl (fun s j =>
    match s.descs.get? j.did.toNat with
    | none => s
    | some d => s.contribute id j.did d j.rowg j.layer j.idx j.num j.bk j.ep j.data (j.got.any (·.pois)))
    (s.setCore id { c with puts := c.puts.filter fun j => !j.unread.isEmpty })

/-- The code of the checks on SREG and the scratchpad extent (R234): alignment first. -/
def Ctx.fnRange (x : Ctx) (a n : Nat) : Code :=
  if a % 32 != 0 then 0x0202 else if 64 * x.core.spadUnits.toNat < a + n then 0x0302 else 0

/-- The descriptor that a firn instruction may use: set, owned by the launch's address space (kernels run in address
space 0), and not a BARRIER (R234). (DEDUCED, log entry 27; unsafe.) -/
def State.fnDesc (s : State) (did : DescId) : Option Desc :=
  match s.descs.get? did.toNat with
  | some d => if d.owner == 0 && !d.isBarrier then some d else none
  | none => none

/-- An FNPUT waits with stall reason UNIT: its descriptor is pending (R268), the core's previous contribution to it belongs to a round that
has not completed at the core's router (R235), or that router is where the contribution is combined and its staging is full (R239). -/
def State.putHeld (s : State) (x : Ctx) (did : DescId) (d : Desc) (rowg : BitVec 16) (i n : Nat) : Bool :=
  let ms := s.members d rowg x.la.layer
  d.pend || (0 < n && !s.completedAt did d rowg (n - 1) (cluOf x.id)) ||
    (s.combineAt d rowg x.la.layer ms 0 i == ⟨s.mid, cluOf x.id⟩ &&
      s.stageFull did d rowg x.la.layer n ms 0 i (List.replicate d.inBytes 0#8))

/-- FNPUT (R234, R235): it issues, and the router reads its range as the earlier matrix instructions leave it. -/
def fnputOp (at_ : GroupAt) (f : FF) (s : State) : State :=
  let w := encF 0x01 f
  match s.issuer at_ w with
  | none => s
  | some x =>
    let a := (x.gr.sreg f.sreg.toNat).toNat
    if x.gr.sPois false f.sreg.toNat then s.kerr x 0x0301
    else if a % 32 != 0 then s.kerr x 0x0202
    else
      match s.fnDesc f.desc with
      | none => s.kerr x 0x0302
      | some d =>
        match s.rowgOf d x.id x.la.layer with
        | none => s.kerr x 0x0302
        | some rowg =>
          match contributor (s.members d rowg x.la.layer) x.id s.mid with
          | none => s.kerr x 0x0302
          | some (i, bk) =>
            let n := d.put_.get x.id.toNat 0
            if x.fnRange a d.inBytes != 0 then s.kerr x (x.fnRange a d.inBytes)
            else if s.putHeld x f.desc d rowg i n then s.stall x 4
            else
              let j : PutJob := { PutJob.init with
                serial := x.core.putSerial, did := f.desc, rowg := rowg, layer := x.la.layer, idx := i, bk := bk, num := n,
                ep := s.descEp.get f.desc.toNat 0, addr := a, len := d.inBytes }
              let c := { x.core with puts := x.core.puts ++ [j], putSerial := x.core.putSerial + 1 }
              let s1 := s.setDesc f.desc { d with put_ := d.put_.put x.id.toNat (n + 1) }
              ((s1.count (cluOf x.id) 0x0A 1).done x w c x.gr).putSweep x.id

def execFnput (g : GroupAt) (f : FF) (s : State) : Host.Outcome State Fault Refusal := .next (fnputOp g f s)

/-- What a core takes with FNGET: the row groups whose results it needs, with the part of each. -/
structure Take where
  rowgs : List (BitVec 16)
  bytes : Nat

/-- A core's share of a descriptor's results (R244); none when it is no reader, and a block that no row group produces gives
an empty list of row groups. -/
def State.takeOf (s : State) (d : Desc) (c : CoreId) (layer : Nat) : Option Take :=
  if d.deliv = 1 then
    (s.fwinOf d.fslot c).map fun w =>
      let gs := s.rowgs d
      let ok := (List.range w.nblk.toNat).all fun k =>
        gs.any fun g => decide (d.blk0 g ≤ w.kblk0.toNat + k) && decide (w.kblk0.toNat + k < d.blk0 g + d.nblk)
      ⟨if ok then gs.filter fun g => w.covers d g else [], w.nblk.toNat * d.blockBytes⟩
  else if d.deliv = 2 then none
  else
    match s.rowgOf d c layer with
    | none => none
    | some g => if (s.readers d g layer).contains c then some ⟨[g], d.outBytes⟩ else none

/-- The result of a round at a router. -/
def Desc.resultAt (d : Desc) (g : BitVec 16) (num : Nat) (c : Clu) : Option Result :=
  d.results.find? fun r => r.rowg == g && r.num == num && r.at_.contains (.router c)

/-- The result is poisoned as a reader holds it: by its operands, or by the links that brought it (R370, R372). -/
def Result.poisAt (r : Result) (x : Reader) : Bool := r.pois || r.bad.contains x

/-- The bytes a core takes: the whole result, or its window's blocks in ascending order (R244). The last block of a result whose ROWS is not a
multiple of 32 is filled up with zero bytes. (DEDUCED, log entry 27; unsafe.) -/
def State.takeBytes (s : State) (d : Desc) (c : CoreId) (t : Take) (num : Nat) : List Byte :=
  if d.deliv = 1 then
    match s.fwinOf d.fslot c with
    | none => []
    | some w =>
      ((List.range w.nblk.toNat).map fun k =>
        let b := w.kblk0.toNat + k
        match t.rowgs.find? fun g => decide (d.blk0 g ≤ b) && decide (b < d.blk0 g + d.nblk) with
        | none => []
        | some g =>
          let out := ((d.resultAt g num (cluOf c)).map (·.data)).getD []
          let piece := (out.drop ((b - d.blk0 g) * d.blockBytes)).take d.blockBytes
          piece ++ List.replicate (d.blockBytes - piece.length) 0#8).flatten
  else ((t.rowgs.head?.bind fun g => d.resultAt g num (cluOf c)).map (·.data)).getD []

/-- The next untaken round has completed at the core's router, or has failed. -/
def Desc.available (d : Desc) (t : Take) (c : CoreId) : Bool :=
  let n := d.taken.get c.toNat 0
  d.lost.contains n || t.rowgs.all fun g => (d.resultAt g n (cluOf c)).isSome

/-- The launch of a reader or contributor stops with E_XLATE in the cases of R152; otherwise its descriptor and share. -/
def State.fnTake (s : State) (x : Ctx) (did : DescId) : Option (Desc × Take) :=
  match s.fnDesc did with
  | none => none
  | some d =>
    match s.takeOf d x.id x.la.layer with
    | none => none
    | some t => if t.rowgs.isEmpty then none else some (d, t)

/-- FNGET (R245). -/
def fngetOp (at_ : GroupAt) (f : FF) (s : State) : State :=
  let w := encF 0x02 f
  match s.issuer at_ w with
  | none => s
  | some x =>
    let a := (x.gr.sreg f.sreg.toNat).toNat
    if x.gr.sPois false f.sreg.toNat then s.kerr x 0x0301
    else if a % 32 != 0 then s.kerr x 0x0202
    else
      match s.fnTake x f.desc with
      | none => s.kerr x 0x0302
      | some (d, t) =>
        let n := d.taken.get x.id.toNat 0
        if x.fnRange a t.bytes != 0 then s.kerr x (x.fnRange a t.bytes)
        else if !d.pend && !d.available t x.id && s.cutOff d x.la.layer n then s.kerr x 0x0402
        else if d.pend || !d.available t x.id then s.stall x 9
        else if d.lost.contains n then s.kerr x 0x0402
        else if t.rowgs.any fun g => ((d.resultAt g n (cluOf x.id)).map (·.poisAt (.router (cluOf x.id)))).getD false then s.kerr x 0x0301
        else if x.core.storeHeld t.bytes [(0, BitVec.ofNat 64 a)] then s.stall x 4
        else
          let bs := s.takeBytes d x.id t n
          let s1 := (s.setDesc f.desc { d with taken := d.taken.put x.id.toNat (n + 1) }).clean f.desc
          t.rowgs.foldl (fun s g => s.settle f.desc g)
            (s1.done x w (if bs.isEmpty then x.core else x.core.spadWrite a bs false) x.gr)

def execFnget (g : GroupAt) (f : FF) (s : State) : Host.Outcome State Fault Refusal := .next (fngetOp g f s)

/-- FNTEST: 1 when FNGET would not wait (R152, R245). -/
def fntestOp (at_ : GroupAt) (f : FF) (s : State) : State :=
  let w := encF 0x03 f
  match s.issuer at_ w with
  | none => s
  | some x =>
    match s.fnTake x f.desc with
    | none => s.kerr x 0x0302
    | some (d, t) =>
      let ready := !d.pend && (d.available t x.id || s.cutOff d x.la.layer (d.taken.get x.id.toNat 0))
      s.done x w x.core (x.gr.setS f.sreg.toNat (if ready then 1 else 0))

def execFntest (g : GroupAt) (f : FF) (s : State) : Host.Outcome State Fault Refusal := .next (fntestOp g f s)

end Sys2Proof.Machine
end

