-- ==== Sys2Proof/Machine/Words.lean ====
section
/-! DEFINITION. Reading an instruction word of the Tongamin set back: the operands of each format (R136 to R139) and the instruction that
CLASS and OP name (R141 to R152). A reserved code or opcode reads as no instruction. -/
namespace Sys2Proof.Machine

/-- TYPE of a format's 3-bit or 4-bit type code (R138). -/
def tyOf (x : Nat) : Option Ty :=
  match x with
  | 0 => some .i32
  | 1 => some .u32
  | 2 => some .i64
  | 3 => some .u64
  | 4 => some .f32
  | 5 => some .f64
  | 6 => some .bf16
  | 7 => some .fp16
  | 8 => some .e4m3
  | 9 => some .e5m2
  | _ => none

def rmOf (x : Nat) : Rm :=
  match x with
  | 0 => .rn
  | 1 => .rz
  | 2 => .ru
  | _ => .rd

def sizeOf (x : Nat) : Option MSize :=
  match x with
  | 0 => some .b1
  | 1 => some .b2
  | 2 => some .b4
  | 3 => some .b8
  | 4 => some .b16
  | _ => none

def kindOf (x : Nat) : Kind :=
  match x with
  | 0 => .ca
  | 1 => .cg
  | 2 => .uc
  | _ => .nw

def modeOf (x : Nat) : Option MxMode :=
  match x with
  | 0 => some .mma
  | 1 => some .l1d
  | 2 => some .l2d
  | 3 => some .minplus
  | 4 => some .maxplus
  | 5 => some .cmpc
  | 6 => some .ham
  | _ => none

def fmtOf (x : Nat) : Option Fmt :=
  match x with
  | 0 => some .mxfp4
  | 1 => some .mxint8
  | 2 => some .e4m3
  | 3 => some .e5m2
  | 4 => some .int8
  | 5 => some .uint8
  | 6 => some .int16
  | 7 => some .bf16
  | _ => none

def packOf (x : Nat) : Option Pack :=
  match x with
  | 0 => some .p1
  | 1 => some .p4
  | 2 => some .p16
  | _ => none

def dfmtOf (x : Nat) : DFmt :=
  match x with
  | 0 => .fp32
  | 1 => .bf16
  | 2 => .e4m3
  | _ => .int32

def scopeOf (x : Nat) : Option Scope :=
  match x with
  | 0 => some .grp
  | 1 => some .blk
  | 2 => some .clu
  | 3 => some .dev
  | 4 => some .sys
  | _ => none

def ordOf (x : Nat) : Option FOrd :=
  match x with
  | 1 => some .acq
  | 2 => some .rel
  | 3 => some .ar
  | _ => none

def condOf (x : Nat) : Option SCond :=
  match x with
  | 0x10 => some .eq
  | 0x11 => some .ne
  | 0x12 => some .lt
  | 0x13 => some .le
  | 0x14 => some .gt
  | 0x15 => some .ge
  | 0x16 => some .ltu
  | 0x17 => some .leu
  | 0x18 => some .gtu
  | 0x19 => some .geu
  | _ => none

/-- The operands of format V (CLASS 1) and of format VI (CLASS 2), which has no SRC2 (R139). -/
def vfOf (w : BitVec 64) : Option VF :=
  match tyOf (fieldN w 49 3) with
  | none => none
  | some ty =>
    if fieldN w 60 4 = 1 then
      match opndOf (bits w 20 9), opndOf (bits w 29 9), opndOf (bits w 38 9), opndOf (bits w 11 9) with
      | some a, some b, some c, some d =>
        some { ty := ty, rm := rmOf (fieldN w 47 2), src0 := a, src1 := .op b, src2 := c, dst := d, md := bits w 0 11 }
      | _, _, _, _ => none
    else
      match opndOf (bits w 38 9), opndOf (bits w 29 9) with
      | some a, some d =>
        some { ty := ty, rm := rmOf (fieldN w 47 2), src0 := a, src1 := .imm (bits w 5 24), src2 := .none, dst := d,
               md := (bits w 0 5).setWidth 11 }
      | _, _ => none

def sfOf (w : BitVec 64) : SF :=
  { immf := bitAt w 51, dst := bits w 45 6, src0 := bits w 39 6, src1 := bits w 33 6, w64 := bitAt w 32, imm := bits w 0 32 }

def mfOf (w : BitVec 64) : Option MF :=
  match sizeOf (fieldN w 49 3), opndOf (bits w 36 9), opndOf (bits w 21 9) with
  | some z, some d, some i =>
    some { size := z, kind := kindOf (fieldN w 47 2), spad := bitAt w 46, vaddr := bitAt w 45, data := d, sbase := bits w 30 6,
           index := i, scl := bits w 19 2, sign := bitAt w 18, off := bits w 0 18 }
  | _, _, _ => none

def xfOf (w : BitVec 64) : Option XF :=
  match modeOf (fieldN w 49 3), fmtOf (fieldN w 45 4), fmtOf (fieldN w 41 4), packOf (fieldN w 16 2) with
  | some m, some a, some b, some p =>
    some { mode := m, afmt := a, bfmt := b, ascr := bitAt w 40, sub := bits w 36 4, sa := bits w 30 6, sb := bits w 24 6,
           sn := bits w 18 6, pack := p, dfmt := dfmtOf (fieldN w 14 2), clr := bitAt w 13 }
  | _, _, _, _ => none

def yfOf (w : BitVec 64) : Option YF :=
  match scopeOf (fieldN w 49 3), ordOf (fieldN w 47 2) with
  | some c, some o => some { scope := c, ord := o, desc := bits w 0 16 }
  | _, _ => none

/-- The operands of an execution barrier: DESC alone. -/
def bfOf (w : BitVec 64) : YF := { scope := .grp, ord := .ar, desc := bits w 0 16 }

def ffOf (w : BitVec 64) : FF := { sreg := bits w 46 6, desc := bits w 0 16 }

/-- The vector instruction of an opcode of CLASS 1 and 2 other than VCVT (R141). -/
def vecOf (op : Nat) (g : GroupAt) (f : VF) : Option Instr :=
  match op with
  | 0x00 => some (.vmov g f)
  | 0x01 => some (.vadd g f)
  | 0x02 => some (.vsub g f)
  | 0x03 => some (.vmullo g f)
  | 0x04 => some (.vmulhi g f)
  | 0x05 => some (.vmin g f)
  | 0x06 => some (.vmax g f)
  | 0x07 => some (.vand g f)
  | 0x08 => some (.vor g f)
  | 0x09 => some (.vxor g f)
  | 0x0A => some (.vnot g f)
  | 0x0B => some (.vshl g f)
  | 0x0C => some (.vshr g f)
  | 0x0D => some (.vsel g f)
  | 0x0E => some (.vpopc g f)
  | 0x0F => some (.vclz g f)
  | 0x20 => some (.vfadd g f)
  | 0x21 => some (.vfsub g f)
  | 0x22 => some (.vfmul g f)
  | 0x23 => some (.vfma g f)
  | 0x24 => some (.vfmin g f)
  | 0x25 => some (.vfmax g f)
  | 0x26 => some (.vfabs g f)
  | 0x27 => some (.vfneg g f)
  | 0x30 => some (.vrcp g f)
  | 0x31 => some (.vrsq g f)
  | 0x32 => some (.vex2 g f)
  | 0x33 => some (.vlg2 g f)
  | 0x34 => some (.vsin g f)
  | 0x35 => some (.vcos g f)
  | 0x40 => some (.vcmp g f)
  | 0x41 => some (.vset g f)
  | 0x60 => some (.vshfl g f)
  | 0x61 => some (.vred g f)
  | 0x62 => some (.srdlane g f)
  | _ => none

/-- VCVT carries the two types in its modifier (R143). -/
def cvtOf (g : GroupAt) (f : VF) : Option Instr :=
  match tyOf (fieldN f.md 0 4), tyOf (fieldN f.md 4 4) with
  | some a, some b => some (.vcvt g a b { f with md := 0 })
  | _, _ => none

/-- The scalar instruction of an opcode of CLASS 5 other than SCMP (R145). -/
def sclOf (op : Nat) (g : GroupAt) (f : SF) : Option Instr :=
  match op with
  | 0x00 => some (.smov g f)
  | 0x01 => some (.sadd g f)
  | 0x02 => some (.ssub g f)
  | 0x03 => some (.smul g f)
  | 0x04 => some (.sand g f)
  | 0x05 => some (.sor g f)
  | 0x06 => some (.sxor g f)
  | 0x07 => some (.sandn g f)
  | 0x08 => some (.sshl g f)
  | 0x09 => some (.sshr g f)
  | 0x0A => some (.ssra g f)
  | 0x0B => some (.smin g f)
  | 0x0C => some (.smax g f)
  | 0x20 => some (.sfirst g f)
  | 0x21 => some (.spopc g f)
  | 0x30 => some (.srds g f)
  | 0x31 => some (.swrs g f)
  | _ => none

/-- The branch of an opcode of CLASS 6 (R146). -/
def brOf (op : Nat) (g : GroupAt) (f : SF) : Option Instr :=
  match op with
  | 0x00 => some (.sbr g f)
  | 0x01 => some (.sbrz g f)
  | 0x02 => some (.sbrnz g f)
  | 0x03 => some (.sbrexz g f)
  | 0x04 => some (.sbrexnz g f)
  | 0x08 => some (.sjmpr g f)
  | 0x09 => some (.scall g f)
  | 0x0A => some (.scallr g f)
  | 0x0F => some (.sexit g f)
  | 0x10 => some (.snop g f)
  | _ => none

/-- The memory instruction of an opcode of CLASS 4 (R148). -/
def memOf (op : Nat) (g : GroupAt) (f : MF) : Option Instr :=
  match op with
  | 0x00 => some (.ld g f)
  | 0x01 => some (.lds g f)
  | 0x02 => some (.st g f)
  | 0x03 => some (.ldr g f)
  | 0x04 => some (.stc g f)
  | 0x10 => some (.aadd g f)
  | 0x11 => some (.aand g f)
  | 0x12 => some (.aor g f)
  | 0x13 => some (.axor g f)
  | 0x14 => some (.amin g f)
  | 0x15 => some (.amax g f)
  | 0x16 => some (.aumin g f)
  | 0x17 => some (.aumax g f)
  | 0x18 => some (.axchg g f)
  | 0x19 => some (.acas g f)
  | 0x1A => some (.afadd g f)
  | _ => none

/-- The matrix instruction of an opcode of CLASS 7 (R150). -/
def mxOf (op : Nat) (g : GroupAt) (f : XF) : Option Instr :=
  match op with
  | 0x01 => some (.mxpack g f)
  | 0x02 => some (.mxz g f)
  | 0x03 => some (.mxop g f)
  | 0x04 => some (.mxdrn g f)
  | 0x05 => some (.mxsync g f)
  | _ => none

/-- The fence or barrier of an opcode of CLASS 8 (R151). -/
def syncOf (op : Nat) (g : GroupAt) (f : YF) : Option Instr :=
  match op with
  | 0x01 => some (.fence g f)
  | 0x02 => some (.barCore g f)
  | 0x03 => some (.barClu g f)
  | 0x04 => some (.barSys g f)
  | _ => none

/-- The firn instruction of an opcode of CLASS 9 (R152). -/
def firnOf (op : Nat) (g : GroupAt) (f : FF) : Option Instr :=
  match op with
  | 0x01 => some (.fnput g f)
  | 0x02 => some (.fnget g f)
  | 0x03 => some (.fntest g f)
  | _ => none

/-- The instruction that a word spells for a group. -/
def instrOf (g : GroupAt) (w : BitVec 64) : Option Instr :=
  let op := fieldN w 52 8
  match fieldN w 60 4 with
  | 1 => (vfOf w).bind fun f => if op = 0x50 then cvtOf g f else vecOf op g f
  | 2 => (vfOf w).bind fun f => if op = 0x50 then cvtOf g f else vecOf op g f
  | 4 => (mfOf w).bind (memOf op g)
  | 5 =>
    (match condOf op with
      | some c => some (.scmp g c (sfOf w))
      | none => sclOf op g (sfOf w))
  | 6 => brOf op g (sfOf w)
  | 7 => (xfOf w).bind (mxOf op g)
  | 8 => if op = 0x01 then (yfOf w).bind (syncOf op g) else syncOf op g (bfOf w)
  | 9 => firnOf op g (ffOf w)
  | _ => none

end Sys2Proof.Machine
end

