-- ==== Sys2Proof/Machine/MemInstr.lean ====
section
/-! DEFINITION. Loads, stores and reserved accesses (R148, R149, R178 to R183), and the completion of an uncached access (R266). -/
namespace Sys2Proof.Machine

/-- The context with the core as it stands in `s`. -/
def Ctx.again (x : Ctx) (s : State) : Ctx := { x with core := s.core x.id, gr := (s.core x.id).groups.get x.g.toNat .init }

/-- The group waits for memory (R46). (DEDUCED, log entry 11; unsafe.) -/
def State.waitMem (s : State) (x : Ctx) : State := s.stall (x.again s) 3

/-- The kernel stops at the instruction with the code of a lane; what the group had received is dropped. A poisoned
address is recorded (R388). -/
def State.laneError (s : State) (x : Ctx) (code : Code) (a : Option (BitVec 64)) : State :=
  let s1 := s.onCore x.id (·.clearRes x.g)
  let s2 := match a with
    | some p => s1.notePoison x.id p
    | none => s1
  s2.kerr x code

/-- A loaded value in its register: zero-extended, or sign-extended under LDS. -/
def loadExt (signed : Bool) (sz : MSize) (d : BitVec 128) : BitVec 128 :=
  if signed then
    match sz with
    | .b1 => ((((d.setWidth 8).signExtend 32 : Word)).setWidth 128)
    | .b2 => ((((d.setWidth 16).signExtend 32 : Word)).setWidth 128)
    | _ => d
  else d

/-- A lane's access lies in control space. -/
def State.inControl (s : State) (a : BitVec 64) : Bool :=
  match placeOf s.mid a with
  | .control _ => true
  | _ => false

/-- A lane's access lies in the weight-store window. -/
def State.inWindow (s : State) (a : BitVec 64) : Bool :=
  match placeOf s.mid a with
  | .window _ => true
  | _ => false

/-- A control-space access of the group has not completed, so that its next one waits (R168). -/
def State.controlBusy (s : State) (x : Ctx) (acc : List (Nat × BitVec 64)) : Bool :=
  (acc.any fun p => s.inControl p.2) && x.core.sb.any fun e => e.grp == x.g && s.inControl e.addr

/-- A load of the group, LD or LDS (R148). One of the weight-store window counts as event 0x0C (R404). -/
def loadOp (g : GroupAt) (op : BitVec 8) (signed : Bool) (f : MF) (s : State) : State :=
  let w := encM op f
  match s.issuer g w with
  | none => s
  | some x =>
    let code := s.checkLanes x f ⟨false, false, false⟩
    let acc := x.lanes f false
    let n := sizeBytes f.size
    if x.memPois f false then s.kerr x 0x0301
    else if code != 0 then s.kerr x code
    else if f.spad then
      if x.core.interlocked n acc then s.stall x 4
      else if acc.any fun p => x.core.spadPoisAt p.2.toNat n then s.kerr x 0x0301
      else
        s.done x w x.core (acc.foldl (fun gr p =>
          gr.setData f.data f.size p.1 (loadExt signed f.size (ofBytes 128 (x.core.spadRead p.2.toNat n)))) x.gr)
    else if s.controlBusy x acc then s.waitMem x
    else
      let r := s.loadSectors x f.kind n acc
      if r.2 then r.1.waitMem x
      else
        let c := r.1.core x.id
        let got := acc.map fun p => (p.1, c.laneGot x.g n p.2)
        match got.find? fun p => p.2.pois.isSome || p.2.err != 0 with
        | some p => r.1.laneError x (if p.2.pois.isSome then 0x0301 else p.2.err) p.2.pois
        | none =>
          let c1 := c.clearRes x.g
          let c1 := if f.kind == .cg || f.kind == .uc then (sectorsOf n acc).foldl (fun c q => c.l1Stale (q % 2 ^ 44)) c1 else c1
          let s1 := if acc.any fun p => s.inWindow p.2 then r.1.count (cluOf x.id) 0x0C 1 else r.1
          s1.done x w c1 (got.foldl (fun gr p => gr.setData f.data f.size p.1 (loadExt signed f.size p.2.data)) x.gr)

def execLd (g : GroupAt) (f : MF) (s : State) : Host.Outcome State Fault Refusal := .next (loadOp g 0x00 false f s)
def execLds (g : GroupAt) (f : MF) (s : State) : Host.Outcome State Fault Refusal := .next (loadOp g 0x01 true f s)

/-! ### Stores -/

/-- What a store of `n` bytes at address `a` puts into sector `q`. -/
def partOf (q n : Nat) (a : BitVec 64) (d : BitVec 128) : SecPart :=
  let at_ := a.toNat
  (List.range n).foldl (fun p i =>
    if (at_ + i) / 32 = q then
      let b := (at_ + i) % 32
      ⟨p.mask ||| ((1#32) <<< b), p.data ||| place 256 (8 * b) (d.extractLsb' (8 * i) 8), 0⟩
    else p) .zero

/-- The lanes' stores to sector `q`, applied in ascending lane order (R57). -/
def storePart (x : Ctx) (f : MF) (n q : Nat) (acc : List (Nat × BitVec 64)) : SecPart :=
  acc.foldl (fun p l => (partOf q n l.2 (x.gr.dataOf f.data f.size l.1)).over p) .zero

/-- The range that a launch may have written (R382). -/
def State.launchWrote (s : State) (x : Ctx) (q : Nat) : State :=
  match placeOf s.mid (BitVec.ofNat 64 (32 * q)), s.launches.get? x.lid with
  | .hbm off, some la =>
    if la.wrote.contains (off, 32) then s else s.setLaunch x.lid { la with wrote := la.wrote ++ [(off, 32)] }
  | _, _ => s

/-- The stronger of two access kinds, for an entry that stores of both have formed: an entry goes as far as either asks. -/
def strongKind (a b : Kind) : Kind := if a == .uc || b == .uc then .uc else if a == .cg || b == .cg then .cg else b

/-- One sector of a store enters the buffer (R60, R61): it merges into the youngest entry when that is of the same group and sector and
the group has issued no fence since. -/
def Core.sbAdd (c : Core) (g : BitVec 4) (fences : Nat) (kind : Kind) (q : Nat) (p : SecPart) : Core :=
  let a : BitVec 64 := BitVec.ofNat 64 (32 * q)
  let new : SbEntry := { serial := c.sbSerial, grp := g, addr := a, kind := kind, data := p.data, mask := p.mask, pois := p.pois,
                         fences := fences, inst := c.instSerial }
  let add : Core := { c with sb := c.sb ++ [new], sbSerial := c.sbSerial + 1 }
  match c.sb.getLast? with
  | none => add
  | some e =>
    if e.grp == g && e.addr == a && e.fences == fences then
      let m := p.over e.part
      { c with sb := c.sb.dropLast ++ [{ e with mask := m.mask, data := m.data, pois := m.pois, kind := strongKind e.kind kind }] }
    else add

/-- A store enters the buffer, its sectors in ascending order. None when too few entries are free (R60). (DESIGN CHOICE, log
entry 69; safe.) (DESIGN CHOICE, log entry 69; safe.) -/
def Core.sbPut (c : Core) (g : BitVec 4) (fences : Nat) (kind : Kind) (parts : List (Nat × SecPart)) : Option Core :=
  let c1 := parts.foldl (fun c p => c.sbAdd g fences kind p.1 p.2) c
  if 32 < c1.sb.length then none else some { c1 with instSerial := c1.instSerial + 1 }

/-- ST (R148). One that waits for the group's earlier control-space access shows SBUF (R46, R168). (DEDUCED, log entry 11; unsafe.) -/
def storeOp (g : GroupAt) (f : MF) (s : State) : State :=
  let w := encM 0x02 f
  match s.issuer g w with
  | none => s
  | some x =>
    let code := s.checkLanes x f ⟨true, false, false⟩
    let acc := x.lanes f false
    let n := sizeBytes f.size
    if x.memPois f true then s.kerr x 0x0301
    else if code != 0 then s.kerr x code
    else if f.spad then
      if x.core.storeHeld n acc then s.stall x 4
      else
        s.done x w (acc.foldl (fun c p =>
          c.spadWrite p.2.toNat (toBytes n (x.gr.dataOf f.data f.size p.1)) false) x.core) x.gr
    else if s.controlBusy x acc then s.stall x 5
    else
      let parts := (sectorsOf n acc).map fun q => (q, storePart x f n q acc)
      match x.core.sbPut x.g x.gr.fences f.kind parts with
      | none => s.stall x 5
      | some c => (parts.foldl (fun s p => s.launchWrote x p.1) s).done x w c x.gr

def execSt (g : GroupAt) (f : MF) (s : State) : Host.Outcome State Fault Refusal := .next (storeOp g f s)

/-! ### Reserved loads and conditional stores -/

def Group.partOf (gr : Group) (l : Nat) : Option LanePart := gr.part.find? (·.lane == l)

def State.onGroup (s : State) (x : Ctx) (f : Group → Group) : State :=
  s.onCore x.id fun c => c.setGroup x.g (f (c.groups.get x.g.toNat .init))

def State.addPart (s : State) (x : Ctx) (p : LanePart) : State :=
  s.onGroup x fun gr => { gr with part := gr.part ++ [p] }

/-- The group's reservations end (R180). -/
def State.clearResv (s : State) (x : Ctx) : State :=
  let s1 := s.onGroup x fun gr => { gr with resv := .empty }
  { s1 with ucResv := s1.ucResv.filter fun r => !(r.1 == x.id && r.2.1 == x.g) }

/-- Before an access of `n` bytes that is performed beyond the store buffer: the group's entries of the sector have left it, and for one
that loads, the other groups' entries of its bytes (R62); its answers are in, the core's L1 copy of the line is gone with its dirty bytes
in L2, and the slice has performed the stores to the line that it has accepted (R153, R172). Answers whether all this is so.
(DEDUCED, log entry 12; unsafe.) -/
def State.settleSector (s : State) (x : Ctx) (a : BitVec 64) (n : Nat) (loads : Bool) : State × Bool :=
  let c := s.core x.id
  let sa := a &&& ~~~31#64
  if c.sb.any (fun e => e.grp == x.g && e.addr == sa) || c.storeOut sa || (loads && c.foreign x.g sa (needOf n [(0, a)] (a.toNat / 32))) then
    (s, false)
  else
    match placeOf s.mid a with
    | .hbm off =>
      let line := off / 128
      let r := match c.l1Find line with
        | some w => s.l1Evict x.id w
        | none => some s
      (match r with
        | none => (s, false)
        | some s1 => (s1, !(s1.clu (cluOf x.id)).stq.any (·.line == line)))
    | _ => (s, true)

/-- The slice asks for ownership of a line, unless it already asks; the group's mark says that the data came by it. -/
def State.askOwn (s : State) (x : Ctx) (line : Nat) (a : BitVec 64) : State :=
  let k := cluOf x.id
  let c := s.clu k
  if (c.missOf line).isSome then s.onCore x.id (·.mark x.g a)
  else
    match s.l2Request k (if (c.line? line).isSome then .upg else .rdx) line false .init with
    | some s1 => s1.onCore x.id (·.mark x.g a)
    | none => s

/-- The line is owned by the slice once an answer or a hit has made it so; each of the `n` atomics that a hit serves counts (R173, R211,
R219), and an LDR's or STC's hit, of none, only renews the line's age (R191). -/
def State.ownHit (s : State) (x : Ctx) (line : Nat) (a : BitVec 64) (n : Nat) : State :=
  let k := cluOf x.id
  if (s.core x.id).outOf x.g a false then s.onCore x.id (·.dropOut x.g a)
  else s.l2Hits k line n

/-- An LDR lane that has not been performed yet: at the slice for .cg, at the home for .uc (R178, R214). -/
def State.ldrLane (s : State) (x : Ctx) (f : MF) (l : Nat) (a : BitVec 64) : State :=
  let n := sizeBytes f.size
  match placeOf s.mid a with
  | .hbm off =>
    let line := off / 128
    if f.kind == .cg then
      match s.settleSector x a n true with
      | (s1, false) => s1
      | (s1, true) =>
        if s1.protectedBy (some (x.id, x.g)) (· == off / 32) then s1
        else if holdsOwned (s1.clu (cluOf x.id)) line then
          let y := ((s1.clu (cluOf x.id)).line? line).getD .init
          let v : LineVal := ⟨y.data, y.pois⟩
          let p : LanePart := { lane := l, data := (v.at (off % 128) n).setWidth 128,
                                err := if v.poisAt (off % 128) n then 0x0301 else 0, ok := true }
          -- the line is in M from now on (R214)
          let s2 := (s1.ownHit x line (a &&& ~~~31#64) 0).setClu (cluOf x.id) (((s1.ownHit x line (a &&& ~~~31#64) 0).clu
            (cluOf x.id)).upd line fun y => { y with st := .m })
          ((s2.addPart x p).onGroup x fun gr =>
            { gr with resv := gr.resv.put l { sector := off / 32, kind := f.kind, size := f.size } })
        else s1.askOwn x line (a &&& ~~~31#64)
    else
      match (s.core x.id).ucRes.find? fun r => r.grp == x.g && r.addr == a && r.lane == l with
      | some r =>
        let v : LineVal := ⟨(r.data.setWidth 1024) <<< (256 * (off / 32 % 4)), (r.pois.setWidth 32) <<< (8 * (off / 32 % 4))⟩
        let p : LanePart := { lane := l, data := (v.at (off % 128) n).setWidth 128,
                              err := if v.poisAt (off % 128) n then 0x0301 else r.err, ok := true }
        (((s.onCore x.id (·.l1Stale (off / 32))).addPart x p).onGroup x fun gr =>
          { gr with resv := gr.resv.put l { sector := off / 32, kind := f.kind, size := f.size } })
      | none =>
        if (s.core x.id).ucOut.any fun o => o.grp == x.g && o.addr == a && o.lane == l && !o.store then s
        else
          match s.settleSector x a n true with
          | (s1, false) => s1
          | (s1, true) =>
            let pay : Pay := { Pay.init with sector := off / 32, addr := off, core := x.id, grp := x.g, lane := l }
            match s1.l2Request (cluOf x.id) (.ucr true) line false pay with
            | some s2 => s2.onCore x.id (·.ask x.g a l true .zero)
            | none => s1
  | _ => s

/-- The registers from `n` on that a word of the permitted classes, or the LDR itself, may write: vector ones under CLASS 1, 2 and 4, scalar
ones too where the destination is scalar. -/
def mayWrite (v : BitVec 64) : List Opnd :=
  let from_ (o : Opnd) : List Opnd := match o with
    | .v n => (List.range 4).map fun i => .v (n + BitVec.ofNat 8 i)
    | .s n => (List.range 4).map fun i => .s (n + BitVec.ofNat 6 i)
    | _ => []
  match fieldN v 60 4 with
  | 4 => ((mfOf v).map fun f => from_ f.data).getD []
  | 5 => from_ (.s (sfOf v).dst)
  | _ => ((vfOf v).map fun f => from_ f.dst).getD []

/-- The registers that form a lane's address. -/
def addrRegs (f : MF) : List Opnd :=
  let pair (o : Opnd) : List Opnd := match o with
    | .v n => [.v n, .v (n + 1)]
    | .s n => [.s n, .s (n + 1)]
    | _ => []
  if f.vaddr then pair f.index else pair (.s f.sbase) ++ pair f.index

/-- The word after an LDR may begin a qualifying loop: at most 14 instructions of the permitted classes, then an STC with the same KIND,
SIZE and per-lane addresses (R182). The addresses are formed when the LDR returns, unless a word in between may write one of their registers:
then they are taken to be equal. (DEDUCED, log entry 14; unsafe.) -/
def Launch.qualLoop (l : Launch) (gr : Group) (f : MF) : Nat → BitVec 48 → List Opnd → Bool
  | 0, _, _ => false
  | n + 1, pc, written =>
    match l.wordAt pc with
    | none => false
    | some v =>
      if fieldN v 60 4 = 4 then
        fieldN v 52 8 = 0x04 &&
          match mfOf v with
          | none => false
          | some h => h.kind == f.kind && h.size == f.size &&
              (((addrRegs h).any written.contains) || (lanesOf gr.exec).all fun l => gr.laneAddr h true l == gr.laneAddr f true l)
      else qualifies v && l.qualLoop gr f n (pc + 8) (written ++ mayWrite v)

/-- The instruction was first looked at: nothing of it has been asked for or performed. -/
def Ctx.untouched (x : Ctx) : Bool :=
  x.gr.part.isEmpty && !(x.core.ucRes.any (·.grp == x.g)) && !(x.core.ucOut.any fun o => o.grp == x.g && !o.store)

/-- Ends a lane-by-lane instruction whose active lanes have all been performed: a fault of the lowest lane stops the
kernel, otherwise `fin` writes the results. -/
def State.lanesDone (s : State) (x : Ctx) (w : BitVec 64) (acc : List (Nat × BitVec 64)) (fin : Group → Group) : State :=
  let y := x.again s
  match acc.find? fun p => ((y.gr.partOf p.1).getD .init).err != 0 with
  | some p =>
    let e := ((y.gr.partOf p.1).getD .init).err
    (s.onGroup x fun gr => { gr with part := [] }).laneError x e (if e == 0x0301 then some (p.2 &&& ~~~3#64) else none)
  | none => s.done x w ((s.core x.id).clearRes x.g) (fin y.gr)

/-- The reservation that a lane's LDR has set still stands, and nothing that was taken before can end it: the slice owns the line of a .cg
granule, and no transaction is open on that of a .uc granule (R182). -/
def State.resvStands (s : State) (x : Ctx) (f : MF) (l sec : Nat) : Bool :=
  if f.kind == .uc then s.ucResv.contains (x.id, x.g, l, sec) && ((s.homeOfLine (sec / 4)).txn? (sec / 4)).isNone
  else holdsOwned (s.clu (cluOf x.id)) (sec / 4) && match ((x.again s).gr.resv.get? l) with
    | some r => r.sector == sec
    | none => false

/-- A lane of an LDR is performed again from the start. -/
def State.ldrAgain (s : State) (x : Ctx) (f : MF) (l : Nat) (a : BitVec 64) : State :=
  let s1 := (s.onGroup x fun gr => { gr with part := gr.part.filter (·.lane != l) }).onCore x.id fun c =>
    { c with ucRes := c.ucRes.filter fun r => !(r.grp == x.g && r.addr == a && r.lane == l) }
  s1.ldrLane x f l a

/-- LDR (R178, R182). In a qualifying loop the lowest lane is performed again while its reservation has been lost by the time every
lane has returned, and it waits while an access taken before could still end it, so that the protected lane's STC succeeds. -/
def ldrOp (g : GroupAt) (f : MF) (s : State) : State :=
  let w := encM 0x03 f
  match s.issuer g w with
  | none => s
  | some x =>
    let code := s.checkLanes x f ⟨false, false, true⟩
    let acc := x.lanes f true
    if x.memPois f false then s.kerr x 0x0301
    else if code != 0 then s.kerr x code
    else
      let s0 := if x.untouched then s.clearResv x else s
      let s1 := acc.foldl (fun s p =>
        if ((x.again s).gr.partOf p.1).isSome then s else s.ldrLane x f p.1 p.2) s0
      let y := x.again s1
      if acc.all fun p => (y.gr.partOf p.1).isSome then
        let faulted := acc.any fun p => ((y.gr.partOf p.1).getD .init).err != 0
        let done := s1.lanesDone x w acc fun gr =>
          acc.foldl (fun gr p => gr.setData f.data f.size p.1 ((gr.partOf p.1).getD .init).data) gr
        match acc.head? with
        | some p =>
          let sec := fieldN p.2 0 49 / 32
          if !faulted && x.la.qualLoop x.gr f 15 (x.gr.pc + 8) (mayWrite w) && !done.protectedBy (some (x.id, x.g)) (· == sec) then
            (if s1.resvStands x f p.1 sec then done.onGroup x fun gr => { gr with prot := some ⟨p.1, sec, f.kind == .uc⟩ }
             else if f.kind == .uc && s1.ucResv.contains (x.id, x.g, p.1, sec) then s1.waitMem x
             else (s1.ldrAgain x f p.1 p.2).waitMem x)
          else done
        | none => done
      else s1.waitMem x

def execLdr (g : GroupAt) (f : MF) (s : State) : Host.Outcome State Fault Refusal := .next (ldrOp g f s)

/-- The lane's reservation is held for this access (R179). -/
def Group.reserves (gr : Group) (f : MF) (l sec : Nat) : Bool :=
  match gr.resv.get? l with
  | some r => r.sector == sec && r.kind == f.kind && r.size == f.size
  | none => false

/-- An STC lane that has not been tried yet (R179, R182, R214). No copy older than what it leaves stays in L1 (R153). -/
def State.stcLane (s : State) (x : Ctx) (f : MF) (l : Nat) (a : BitVec 64) : State :=
  let n := sizeBytes f.size
  let part (ok : Bool) (err : Code) : LanePart := { lane := l, data := 0, err := err, ok := ok }
  match placeOf s.mid a with
  | .hbm off =>
    let line := off / 128
    let sec := off / 32
    let gr := (x.again s).gr
    let d : BitVec 64 := (x.gr.dataOf f.data f.size l).setWidth 64
    let end_ (s : State) : State := { s with ucResv := s.ucResv.filter fun r => !(r.1 == x.id && r.2.1 == x.g && r.2.2.1 == l) }
    match (s.core x.id).ucRes.find? fun r => f.kind == .uc && r.grp == x.g && r.addr == a && r.lane == l with
    | some r => (end_ (s.onCore x.id (·.l1Stale sec))).addPart x (part r.ok r.err)
    | none =>
      if f.kind == .uc && (s.core x.id).ucOut.any fun o => o.grp == x.g && !o.store then s
      else if s.protectedBy (some (x.id, x.g)) (· == sec) || !gr.reserves f l sec then s.addPart x (part false 0)
      else
        match s.settleSector x a n false with
        | (s1, false) => s1
        | (s1, true) =>
          if f.kind == .cg then
            if holdsOwned (s1.clu (cluOf x.id)) line then
              let s2 := (s1.ownHit x line (a &&& ~~~31#64) 0).l2Write (cluOf x.id) line (byteMask (off % 128) n) (putAt (off % 128) d) none
              (s2.launchWrote x (a.toNat / 32)).addPart x (part true 0)
            else s1.askOwn x line (a &&& ~~~31#64)
          else
            let pay : Pay := { Pay.init with sector := sec, addr := off, data := d.setWidth 256, core := x.id, grp := x.g, lane := l }
            match s1.l2Request (cluOf x.id) (.uca 0x04 f.size) line false pay with
            | some s2 => (s2.onCore x.id (·.ask x.g a l true .zero)).launchWrote x (a.toNat / 32)
            | none => s1
  | _ => s

/-- Lanes are tried in ascending order; the first that must wait holds the later ones. -/
def State.stcLanes (s : State) (x : Ctx) (f : MF) : List (Nat × BitVec 64) → State
  | [] => s
  | p :: t =>
    if ((x.again s).gr.partOf p.1).isSome then s.stcLanes x f t
    else
      let s1 := s.stcLane x f p.1 p.2
      if ((x.again s1).gr.partOf p.1).isSome then s1.stcLanes x f t else s1

/-- A protection has ended: the slice answers and the home takes what it deferred (R182, R210). -/
def State.unprotected (s : State) (id : CoreId) (p : Option Prot) : State :=
  match p with
  | none => s
  | some p => (s.pumpSlice (cluOf id)).pumpHome (s.locOf (p.sector / 4)).floe

/-- STC: the success mask goes to the scalar register OFF[17:12] (R149, R179). -/
def stcOp (g : GroupAt) (f : MF) (s : State) : State :=
  let w := encM 0x04 f
  match s.issuer g w with
  | none => s
  | some x =>
    let code := s.checkLanes x f ⟨true, false, true⟩
    let acc := x.lanes f true
    if x.memPois f true then s.kerr x 0x0301
    else if code != 0 then s.kerr x code
    else
      let s1 := s.stcLanes x f acc
      let y := x.again s1
      if acc.all fun p => (y.gr.partOf p.1).isSome then
        let m : Word := BitVec.ofNat 32 (acc.foldl (fun m p => if ((y.gr.partOf p.1).getD .init).ok then m + 2 ^ p.1 else m) 0)
        ((s1.lanesDone x w acc fun gr => gr.setS (fieldN f.off 12 6) m).clearResv x).unprotected x.id x.gr.prot
      else s1.waitMem x

def execStc (g : GroupAt) (f : MF) (s : State) : Host.Outcome State Fault Refusal := .next (stcOp g f s)

/-- PROTECTION_TIMEOUT: protection ends (R182). -/
def execProtectionTimeout (g : GroupAt) (s : State) : Host.Outcome State Fault Refusal :=
  .next (match (s.core g.core).groups.get? g.grp.toNat with
    | some gr => (s.onCore g.core (·.setGroup g.grp { gr with prot := none })).unprotected g.core gr.prot
    | none => s)

/-! ### UCDONE -/

/-- The address of an uncached access on this module. -/
def State.here (s : State) (off : Nat) : BitVec 64 := BitVec.ofNat 64 (s.mid.toNat * 2 ^ 49 + off)

/-- The result of an uncached access reaches the core that made it, and its miss entry is freed (R203). -/
def State.ucReturn (s : State) (k : Clu) (tag : BitVec 5) (m : Miss) (d : BitVec 256) (pois : BitVec 8) (ok : Bool)
    (err : Code) : State :=
  let s1 := s.setClu k ((s.clu k).freeMiss tag.toNat)
  let p := m.pay
  match m.kind with
  | .ucw => s1.tagDone (.store p.core p.grp (s.here (32 * p.sector))) 0 0 err
  | kind =>
    let a := match kind with
      | .ucr false => s.here (32 * p.sector)
      | _ => s.here p.addr
    s1.onCore p.core fun c =>
      c.answered (fun o => o.grp == p.grp && o.addr == a && o.lane == p.lane && !o.store)
        { grp := p.grp, addr := a, lane := p.lane, data := d, pois := pois, err := err, ok := ok }

/-- A UCDONE of a request that another module made is sent back to it with its data segments (R216, R254, R265). The poison tags of its
words stand in the header's reserved bits, and an access that completed with E_XLATE has OPSZ 1. (DESIGN CHOICE, log entry 70; unsafe.) -/
def State.ucReply (s : State) (line : Nat) (m : ModId) (tag : BitVec 10) (ep : BitVec 8) (d : BitVec 256) (pois : BitVec 8) (segs : Nat)
    (err : Code) : State :=
  let w := addrWords (128 * line) ep 0 (if err = 0 then 0 else 1)
  (s.sendTo m (lineMember (128 * line)) (withPois (mkHdr 0x04 segs m s.mid tag w.1 w.2) pois) (toBytes (16 * segs) d)).getD s

/-- The answer to a request of this module to another: its tag is freed and its TEPOCH advanced; a stale TEPOCH is
dropped, counted in AM_STALE and recorded with E_STALE (R266). -/
def State.tagReturn (s : State) (tag : BitVec 10) (ep : BitVec 8) (port : PortId) (d : BitVec 256) (pois : BitVec 8) (err : Code) :
    State :=
  let r := s.am.tags.get tag.toNat .init
  match r.use with
  | some u =>
    if r.ep = ep then ({ s with am := s.am.dropTag tag.toNat }).tagDone u d pois err
    else stale s
  | none => stale s
where
  stale (s : State) : State :=
    let p := s.port port
    s.setPort port { p with stale := satAdd p.stale 1, errValid := true,
                            errCode := if p.errValid then p.errCode else 0x0401 }

/-- UCDONE (R203, R266). -/
def execUcdone (r : Req) (s : State) : Host.Outcome State Fault Refusal :=
  .next (s.onMsg (fun m => match m with | .ucdone r' _ _ _ _ _ => r' == r | _ => false)
    fun m s => match m with
      | .ucdone r d pois ok segs err =>
        (match r.who with
          | .clu k tag ep =>
            (match (s.clu k).missAt tag ep with
              | some m => some (s.ucReturn k tag m d pois ok err)
              | none => some (s.staleAt k))
          | .remote m tag ep port =>
            if m = s.mid then some (s.tagReturn tag ep port d pois err) else some (s.ucReply r.line m tag ep d pois segs err))
      | _ => none)

end Sys2Proof.Machine
end

