-- ==== Sys2Proof/Machine/SyncInstr.lean ====
section
/-! DEFINITION. Fences (R157 to R163) and execution barriers (R170, R171, R246, R470). -/
namespace Sys2Proof.Machine

/-- The store goes to another module. -/
def State.remoteAddr (s : State) (a : BitVec 64) : Bool :=
  match placeOf s.mid a with
  | .remote _ _ => true
  | _ => false

/-- The release part of a fence is done for the stores of serial below `m` (R159). (DEDUCED, log entry 28; unsafe.) -/
def State.released (s : State) (x : Ctx) (m : Nat) (sc : Scope) : Bool :=
  let c := s.core x.id
  let left := !c.sb.any fun e => decide (e.serial < m)
  let homes := !c.ucOut.any fun o => o.store && decide (o.serial < m) && !s.remoteAddr o.addr
  let performed := !(s.clu (cluOf x.id)).stq.any fun e => e.core == x.id && decide (e.serial < m)
  let acked := !c.ucOut.any fun o => o.store && decide (o.serial < m)
  match sc with
  | .grp => true
  | .blk => !c.sb.any fun e => e.grp == x.g && decide (e.serial < m)
  | .clu => left && homes
  | .dev => left && homes && performed
  | .sys => left && homes && performed && acked

def wideScope : Scope → Bool
  | .grp => false
  | .blk => false
  | _ => true

/-- The acquire part: at .clu and wider an SCM core's L1 is invalidated (R159, R162). -/
def Core.acquire (c : Core) (sc : Scope) : Core := if wideScope sc && !c.mode then { c with l1 := .empty } else c

/-- The release part of a fence or of a barrier's arrival: the state with the fence's mark set, and whether it is done; a
lost remote store stops the kernel at a .sys release with its code (R267). The stall reason is FENCE, or the lower SBUF while the group's
oldest entry waits for a miss entry (R46, R190). -/
inductive RelStep where
  | wait (s : State)
  | stop (s : State)
  | done (x : Ctx)

def State.releaseStep (s : State) (x : Ctx) (sc : Scope) : RelStep :=
  let m := x.gr.fenceMark.getD x.core.sbSerial
  if !s.released x m sc then .wait (s.setGroup x { x.gr with fenceMark := some m, stall := if s.drainHeld x.id x.g then 5 else 8 })
  else if sc == .sys && x.gr.lostStore then .stop (s.kerr x x.gr.lostCode)
  else .done x

/-- FENCE (R159): it ends merging (R61) and the group's reservations (R180). -/
def fenceOp (at_ : GroupAt) (f : YF) (s : State) : State :=
  let w := encY 0x01 f
  match s.issuer at_ w with
  | none => s
  | some x =>
    let go (x : Ctx) : State :=
      let acq := f.ord != .rel
      let rel := f.ord != .acq
      let gr := { x.gr with fences := x.gr.fences + 1, lostStore := if rel && f.scope == .sys then false else x.gr.lostStore }
      (s.done x w (if acq then x.core.acquire f.scope else x.core) gr).clearResv x
    if f.ord == .acq then go x
    else
      match s.releaseStep x f.scope with
      | .wait s => s
      | .stop s => s
      | .done x => go x

def execFence (g : GroupAt) (f : YF) (s : State) : Host.Outcome State Fault Refusal := .next (fenceOp g f s)

/-! ### Barriers -/

/-- Every group of a core has finished or waits at the barrier `p` (R171). -/
def Core.allAt (c : Core) (p : Wait → Bool) : Bool := c.started && c.groups.vals.all fun g => g.fin || p g.wait

/-- A group leaves a barrier: it goes on at the next instruction. -/
def State.leave (s : State) (id : CoreId) (g : Nat) : State :=
  let c := s.core id
  match c.launch with
  | none => s
  | some l =>
    let gr := c.groups.get g .init
    let x : Ctx := ⟨id, BitVec.ofNat 4 g, c, gr, l, s.launches.get l .init⟩
    s.done x (place 64 60 8#4) c { gr with wait := .run }

/-- Every group of a core that waits at the barrier leaves it; `sc` is the scope of the acquire part. -/
def State.leaveCore (s : State) (id : CoreId) (p : Wait → Bool) (sc : Scope) : State :=
  let gs := (s.core id).groups.entries.filter fun e => p e.2.wait && !e.2.fin
  if gs.isEmpty then s
  else gs.foldl (fun s e => s.leave id e.1) (s.onCore id (·.acquire sc))

/-- Opens an instance of BAR.clu: its participants are the blocks of the launch on the cluster, which in a placed launch each core holds
from the start, its tile dispatched or not (R470). (DEDUCED, log entry 46; unsafe.) -/
def State.openClu (s : State) (l : Nat) (c : Clu) : State :=
  match s.launches.get? l with
  | none => s
  | some la =>
    if la.cluBar.any (·.1 == c.toNat) then s
    else
      let ids := (s.cores.entries.filter fun e => e.2.launch == some l && cluOf (BitVec.ofNat 20 e.1) == c).map (·.1) ++
        (la.binds.filter fun b => cluOf b.1 == c).map (·.1.toNat)
      s.setLaunch l { la with cluBar := la.cluBar ++ ids.map fun i => (c.toNat, i) }

/-- A core's contribution to a BARRIER descriptor, for the round that follows its last (R246). -/
def State.barPut (s : State) (id : CoreId) (did : DescId) (d : Desc) (take : Bool) : State :=
  let n := d.put_.get id.toNat 0
  match contributor (s.members d 0 d.layer) id s.mid with
  | none => s
  | some (i, bk) =>
    let d1 := { d with put_ := d.put_.put id.toNat (n + 1), taken := if take then d.taken.put id.toNat (n + 1) else d.taken }
    (s.setDesc did d1).contribute id did d1 0 d.layer i n bk (s.descEp.get did.toNat 0) [] false

/-- A core contributes once every group of its block has arrived (R246). -/
def State.barSysSweep (s : State) (id : CoreId) (did : DescId) : State :=
  let c := s.core id
  let p (w : Wait) : Bool := w == .barSys did
  match s.descs.get? did.toNat with
  | none => s
  | some d =>
    if !d.pend && c.allAt p && (c.groups.vals.any fun g => !g.fin && p g.wait) && d.put_.get id.toNat 0 == d.taken.get id.toNat 0 then
      s.barPut id did d false
    else s

/-- Every group of the core's blocks of launch `l` has finished: its tile has ended, or waits for its end (R171, R362). -/
def State.coreEnded (s : State) (l : Nat) (la : Launch) (id : CoreId) : Bool :=
  let c := s.core id
  if c.launch == some l then c.started && c.groups.vals.all (·.fin) else la.ended.contains id

/-- The cores of a launch whose groups have all finished count as arrived at a barrier where groups of the launch wait: such a core
contributes to the round that a waiting core is in, and takes nothing from it (R171). (DEDUCED, log entry 27; unsafe.) -/
def State.barSysEnded (s : State) (l : Nat) (did : DescId) : State :=
  match s.descs.get? did.toNat, s.launches.get? l with
  | some d, some la =>
    let rounds := (s.cores.entries.filter fun e =>
      e.2.launch == some l && e.2.groups.vals.any fun g => !g.fin && g.wait == .barSys did).map fun e => d.taken.get e.1 0
    let due := ((s.members d 0 d.layer).flatMap fun m =>
      (if m.mod_ == s.mid then [m.core] else []) ++
        (match m.bk with
          | some (c, b) => if b == s.mid then [c] else []
          | none => [])).filter fun c => s.coreEnded l la c && rounds.contains (d.put_.get c.toNat 0)
    if d.pend || !d.isBarrier then s
    else due.foldl (fun s c => match s.descs.get? did.toNat with
      | some e => s.barPut c did e true
      | none => s) s
  | _, _ => s

/-- The contributions that a core's arrival at a BAR.sys brings: its own, and those of the launch's finished cores. -/
def State.arriveSys (s : State) (id : CoreId) (did : DescId) : State :=
  let s1 := s.barSysSweep id did
  match (s.core id).launch with
  | some l => s1.barSysEnded l did
  | none => s1

/-- The descriptors of BARRIERs at which groups of a launch wait. -/
def State.barsOf (s : State) (l : Nat) : List DescId :=
  ((s.cores.vals.filter fun c => c.launch == some l).flatMap fun c => c.groups.vals.filterMap fun g =>
    match g.wait with
    | .barSys d => if g.fin then none else some d
    | _ => none).foldl (fun l d => if l.contains d then l else l ++ [d]) []

/-- A group's end counts as an arrival at the barriers where groups of its launch wait (R171). -/
def State.barSweep (s : State) (id : CoreId) : State :=
  match (s.core id).launch with
  | none => s
  | some l => (s.barsOf l).foldl (fun s d => s.arriveSys id d) s

/-- A descriptor that is no longer pending takes the contributions of the cores whose groups have arrived in the meantime (R246, R268). -/
def State.confirmSweep (s : State) (did : DescId) : State :=
  (s.cores.keys.map (BitVec.ofNat 20)).foldl (fun s c =>
    if (s.core c).groups.vals.any fun g => !g.fin && g.wait == .barSys did then s.arriveSys c did else s) s

/-- The arrival at a barrier: its release part, then the group waits (R170). -/
def barOp (at_ : GroupAt) (w : BitVec 64) (sc : Scope) (wait : Wait) (after : Ctx → State → State) (s : State) : State :=
  match s.issuer at_ w with
  | none => s
  | some x =>
    match s.releaseStep x sc with
    | .wait s => s
    | .stop s => s
    | .done x =>
      let gr := { x.gr with wait := wait, stall := 9, fenceMark := none, fences := x.gr.fences + 1,
                            lostStore := if sc == .sys then false else x.gr.lostStore }
      after x ((s.setGroup x gr).clearResv x)

def execBarCore (g : GroupAt) (f : YF) (s : State) : Host.Outcome State Fault Refusal :=
  .next (barOp g (encBar 0x02 f false) .blk .barCore (fun _ s => s) s)

def execBarClu (g : GroupAt) (f : YF) (s : State) : Host.Outcome State Fault Refusal :=
  .next (barOp g (encBar 0x03 f false) .clu .barClu (fun x s => s.openClu x.lid (cluOf x.id)) s)

/-- BAR.sys: a descriptor that is not a set BARRIER of the launch's space naming the core stops the kernel (R246). -/
def barSysOp (at_ : GroupAt) (f : YF) (s : State) : State :=
  let w := encBar 0x04 f true
  match s.issuer at_ w with
  | none => s
  | some x =>
    match s.descs.get? f.desc.toNat with
    | none => s.kerr x 0x0302
    | some d =>
      if d.owner != 0 || !d.isBarrier || (contributor (s.members d 0 d.layer) x.id s.mid).isNone then s.kerr x 0x0302
      else barOp at_ w .sys (.barSys f.desc) (fun x s => s.arriveSys x.id f.desc) s

def execBarSys (g : GroupAt) (f : YF) (s : State) : Host.Outcome State Fault Refusal := .next (barSysOp g f s)

/-- A core leaves BAR.sys when its router holds the round it has contributed to (R246). -/
def State.leaveSys (s : State) (id : CoreId) (did : DescId) : State :=
  match s.descs.get? did.toNat with
  | none => s
  | some d =>
    let n := d.taken.get id.toNat 0
    if d.put_.get id.toNat 0 == n + 1 && (d.resultAt 0 n (cluOf id)).isSome then
      let s1 := (s.setDesc did { d with taken := d.taken.put id.toNat (n + 1) }).clean did
      (s1.leaveCore id (· == .barSys did) .sys).settle did 0
    else s

/-- BARRIER_RELEASE: every participant of the instance has arrived, and the groups leave together (R170). -/
def barrierReleaseOp (b : BarRef) (s : State) : State :=
  match b with
  | .core id =>
    if (s.core id).allAt (· == .barCore) then s.leaveCore id (· == .barCore) .blk else s
  | .clu l c =>
    match s.launches.get? l with
    | none => s
    | some la =>
      let parts := la.cluBar.filter (·.1 == c.toNat)
      if !parts.isEmpty && (parts.all fun p =>
          (s.core (BitVec.ofNat 20 p.2)).launch == some l && (s.core (BitVec.ofNat 20 p.2)).allAt (· == .barClu)) then
        let s1 := parts.foldl (fun s p => s.leaveCore (BitVec.ofNat 20 p.2) (· == .barClu) .clu)
          (s.setLaunch l { la with cluBar := la.cluBar.filter (·.1 != c.toNat) })
        -- groups of blocks that came later wait at the next instance (R470)
        if s1.cores.entries.any fun e => e.2.launch == some l && cluOf (BitVec.ofNat 20 e.1) == c &&
            e.2.groups.vals.any (fun g => !g.fin && g.wait == .barClu) then s1.openClu l c else s1
      else s
  | .sys d =>
    let due := (s.cores.entries.filter fun e => e.2.groups.vals.any fun g => !g.fin && g.wait == .barSys d).map (·.1)
    due.foldl (fun s i => s.leaveSys (BitVec.ofNat 20 i) d) s

def execBarrierRelease (b : BarRef) (s : State) : Host.Outcome State Fault Refusal := .next (barrierReleaseOp b s)

end Sys2Proof.Machine
end

