-- ==== Sys2Proof/Machine/Upset.lean ====
section
/-! DEFINITION. Words of the module's own memories and links that fail their parity (R226, R369, R370). -/
namespace Sys2Proof.Machine

/-- A replay has succeeded within a cluster (R370, R404, R407). -/
def State.replayedAt (s : State) (c : Clu) : State := if (s.clu c).runs then s.replayed.count c 0x0D 1 else s.replayed

/-- Poison tags with word `w` added. -/
def tagWord {n : Nat} (p : BitVec n) (w : Nat) : BitVec n := p ||| ((1#n) <<< w)

/-- A word of a line is among the bytes of a mask. -/
def inMask (m : LineMask) (w : Nat) : Bool := (anyWords m).getLsbD w

/-- A word of an L1 way: with a dirty byte it is poisoned, otherwise its sector is dropped and filled again from L2. -/
def State.struckL1 (s : State) (c : CoreId) (way w : Nat) : State :=
  match (s.core c).l1.get? way with
  | none => s
  | some l =>
    if inMask l.dirty w then (s.onL1 c way fun l => { l with pois := tagWord l.pois w }).poisoned 1
    else if l.valid.getLsbD (w / 8) then
      (s.onL1 c way fun l => { l with valid := l.valid &&& ~~~((1#4) <<< (w / 8)) }).replayedAt (cluOf c)
    else s

/-- A word of an L2 line: in a dirty sector it is poisoned, otherwise the line leaves the slice, from which its next use fetches it again. The line
stays, the second read being good, while a request for it is out, the writeback buffer is full or a protection holds it (R182). -/
def State.struckL2 (s : State) (c : Clu) (key w : Nat) : State :=
  match (s.clu c).l2.get? key with
  | none => s
  | some l =>
    if l.st == .i || 32 ≤ w then s
    else if l.dirty.getLsbD (w / 8) then
      (s.setClu c { s.clu c with l2 := (s.clu c).l2.put key { l with pois := tagWord l.pois w } }).poisoned 1
    else if s.protectsLine c l.line then s.replayedAt c
    else (s.drainLine c key l).replayedAt c

/-- A message whose data word `w` has arrived poisoned; none where it has no such word. -/
def Msg.struck (w : Nat) : Msg → Option Msg
  | .req k r p => if 8 ≤ w || !inMask (p.mask.setWidth 128) w then none else some (.req k r { p with pois := tagWord p.pois w })
  | .wbd r e => if 32 ≤ w || !e.dirty.getLsbD (w / 8) then none else some (.wbd r { e with pois := tagWord e.pois w })
  | .data r st d p => if 32 ≤ w then none else some (.data r st d (tagWord p w))
  | .dataF r d dirty sec p x => if 32 ≤ w then none else some (.dataF r d dirty sec (tagWord p w) x)
  | .ack line src n (some d) p h => if 32 ≤ w then none else some (.ack line src n (some d) (tagWord p w) h)
  | .ucdone r d p ok n e => if 4 * n ≤ w then none else some (.ucdone r d (tagWord p w) ok n e)
  | _ => none

/-- A word that fails its parity, by the row of R370 that covers it. Each word that becomes poisoned counts in POISON and each replay that
succeeds in REPLAY and as event 0x0D (R404, R407). A place that holds no such word is left as it is. (DESIGN CHOICE, log entry 64; unsafe.) -/
def State.struck (s : State) : Upset → State
  | .replay c => s.replayedAt c
  | .replayElse => s.replayed
  | .scratch c w =>
    let k := s.core c
    if k.started && decide (w < 16 * k.spadUnits.toNat) then (s.onCore c fun k => { k with spadPois := insertNat k.spadPois w }).poisoned 1 else s
  | .vreg c g r l =>
    match (s.core c).groups.get? g.toNat with
    | none => s
    | some gr =>
      let n := 32 * r.toNat + l.toNat
      if r.toNat < (s.core c).valloc.toNat && !gr.vpois.contains n then
        (s.onCore c (·.setGroup g { gr with vpois := gr.vpois ++ [n] })).poisoned 1
      else s
  | .sreg c g r =>
    match (s.core c).groups.get? g.toNat with
    | none => s
    | some gr =>
      if gr.spois.contains r.toNat then s else (s.onCore c (·.setGroup g { gr with spois := gr.spois ++ [r.toNat] })).poisoned 1
  | .store c i w =>
    match (s.core c).sb[i]? with
    | none => s
    | some e =>
      if 8 ≤ w || !inMask (e.mask.setWidth 128) w then s
      else (s.onCore c fun k => { k with sb := k.sb.set i { e with pois := tagWord e.pois w } }).poisoned 1
  | .l1 c way w => if 32 ≤ w then s else s.struckL1 c way w
  | .l2 c key w => s.struckL2 c key w
  | .xlate i => if i < s.fe.xc.length then { s with fe := { s.fe with xc := s.fe.xc.eraseIdx i } }.replayed else s
  | .dcache f i =>
    let h := s.home f
    match h.dcache[i]? with
    | none => s
    | some e => if (h.txn? e.line).isSome then s else (s.setHome f { h with dcache := h.dcache.eraseIdx i }).replayed
  | .evict f i w =>
    let h := s.home f
    match h.evb[i]? with
    | none => s
    | some e =>
      if 32 ≤ w || !e.dirty.getLsbD (w / 8) then s
      else (s.setHome f { h with evb := h.evb.set i { e with pois := tagWord e.pois w } }).poisoned 1
  | .combine f i w =>
    let h := s.home f
    match h.wcb[i]? with
    | none => s
    | some e =>
      if 32 ≤ w || !inMask e.mask w then s else (s.setHome f { h with wcb := h.wcb.set i { e with pois := tagWord e.pois w } }).poisoned 1
  | .operand did i j =>
    match s.descs.get? did.toNat with
    | none => s
    | some d =>
      match d.rounds[i]? with
      | none => s
      | some r =>
        match r.parts[j]? with
        | none => s
        | some p => (s.setDesc did { d with rounds := d.rounds.set i { r with parts := r.parts.set j { p with pois := true } } }).poisoned 1
  | .result did i c =>
    match s.descs.get? did.toNat with
    | none => s
    | some d =>
      match d.results[i]? with
      | none => s
      | some r =>
        if r.at_.contains (.router c) && !r.bad.contains (.router c) then
          (s.setDesc did { d with results := d.results.set i { r with bad := r.bad ++ [.router c] } }).poisoned 1
        else s
  | .message i w c =>
    match s.net[i]? with
    | none => s
    | some m =>
      match m.struck w with
      | none => s
      | some m' => { s with net := s.net.set i m' }.linkFailed c true

end Sys2Proof.Machine
end

