-- ==== Sys2Proof/Machine/TimeBase.lean ====
section
/-! DEFINITION. The time base (R390 to R399, R411): time codes, the PLL, the offset exchange with the parent, and holdover. TIME_CODE
moves the counter to its next multiple of 64, so that the counter holds that multiple between codes. -/
namespace Sys2Proof.Machine

/-- The writes that have waited their time in a pseudo-channel's queue are served (R290). -/
def State.pumpDueWrites (s : State) : State :=
  s.homes.vals.foldl (fun s h => h.wq.foldl (fun s e => s.pumpWrites e.line) s) s

/-- The fills of every instruction cache go on (R218). -/
def State.pumpAllFills (s : State) : State := s.clus.keys.foldl (fun s k => s.pumpFills (BitVec.ofNat 14 k)) s

/-- Events of R404 whose number the model leaves free: island cycles, forwarded flits and the group-cycles of each stall reason.
(DESIGN CHOICE, log entry 35; safe.) -/
def freeEvent (e : Nat) : Bool := e = 1 || e = 0x0B || (0x10 ≤ e && e ≤ 0x1B)

/-- An island that runs latches a code: it applies the armed actions whose time has come before it counts anything (R393, R406); then free amounts
of the events that the model does not follow, and event 0x0E where its clock runs stretched (R404). -/
def Cluster.latch (c : Cluster) (acts : List (BitVec 64 × BitVec 2)) (code : BitVec 64) (free : Nat → Word) : Cluster :=
  if c.gated || c.stopped then c
  else
    let c0 := { c with latched := true }.upTo acts code
    let c1 := (List.range 8).foldl (fun c n => if freeEvent (c.csel.get n 0).toNat && !c.frozen then
      { c with cnt := c.cnt.put n (c.cnt.get n 0 + (free n).setWidth 48) } else c) c0
    if 0 < max c.sD c.sT then c1.count 0x0E 1 else c1

/-- REFOK: a root that is locked has its reference, and one in holdover has lost it; else whether the reference is present is a free value (R398, R411). -/
def State.refPresent (s : State) (free : Word) : Bool :=
  if s.tb.roleSet && s.tb.role then free.getLsbD 0 else if s.tb.hold then false else s.tb.lock || free.getLsbD 0

/-- TIME_CODE: requests that wait are looked at again, the counter reaches its next multiple of 64 and every running island latches the code
(R391, R393). The totals of R407 count it, an armed trigger stops pending 64 ns after its time (R406), and the tile timers are
held while any moraine controller is in STOP (R365). The counts of island cycles, of forwarded flits and of group-cycles (events 0x01, 0x0B and
0x10 to 0x1B of R404) grow by free values, and so are the words that have failed their parity since the last code (R369; log entry 64). (DESIGN
CHOICE, log entry 9; unsafe.) -/
def timeCodeOp (s : State) : State :=
  if !s.tb.running then s
  else
    let now : BitVec 64 := ((s.tb.now >>> 6) + 1) <<< 6
    let free := s.take
    let word (k n : Nat) : Word := Config.freeWord free.1 (8 * k + n)
    let on := s.pw.on
    let busy := (s.cores.vals.filter (·.launch.isSome)).length
    let stretched := (s.clus.vals.filter fun c => !c.gated && !c.stopped && decide (0 < max c.sD c.sT)).length
    let gated := (s.clus.vals.filter (·.gated)).length
    let stop := (List.range 128).any fun f => (s.home (BitVec.ofNat 7 f)).tstate == 3
    let t : State := { s with
      tb := { s.tb with now := now, code := now, refok := s.refPresent (word 16384 0) }
      cores := if stop then s.cores.mapVals fun c =>
          if c.timer.isSome then { c with held := c.held + (now - s.tb.now) } else c
        else s.cores
      clus := if on then ⟨s.clus.entries.map fun e => (e.1, e.2.latch s.dg.acts now (word e.1))⟩ else s.clus
      fresh := free.2.fresh
      fe := { s.fe with dispatched := [] }
      dg := { s.dg with
        aoBusy := s.dg.aoBusy + BitVec.ofNat 64 busy
        aoStretch := if on then s.dg.aoStretch + BitVec.ofNat 64 stretched else s.dg.aoStretch
        aoGated := if on then s.dg.aoGated + BitVec.ofNat 64 gated else s.dg.aoGated
        trigFrozen := (((s.dg.acts.filter fun a => decide (a.1.toNat ≤ now.toNat)).getLast?).map (·.2 == 0)).getD s.dg.trigFrozen
        armed := s.dg.armed && decide (now.toNat < s.dg.armAt.toNat + 64) } }
    let t1 := t.pumpDueWrites.pumpRequests.pumpAllFills
    if on then (Config.upsets free.1).foldl State.struck t1 else t1

def execTimeCode (s : State) : Host.Outcome State Fault Refusal := .next (timeCodeOp s)

/-- The module is a child of its TPAR port's peer; before AM_TOPO.LOCK has set, the TPAR bits as they stand decide (R394). -/
def State.isChild (s : State) : Bool :=
  if s.tb.roleSet then s.tb.role else s.ports.vals.any (·.tpar)

/-- A new series of 64 exchanges (R396). -/
def TimeBase.startSeries (t : TimeBase) : TimeBase :=
  { t with exch := [], exStart := t.now, exNext := 0, exOn := true, series := satAdd t.series 1 }

/-- The parent port is ACTIVE. -/
def State.parentUp (s : State) : Bool := (s.port s.tb.port).st == .active

/-- PLL_LOCK: a root locks to the reference and is in sync; a child locks to its parent port and runs a series (R394,
R396). -/
def pllLockOp (port : PortId) (s : State) : State :=
  if s.tb.lock || !s.tb.running || s.tb.hold then s
  else if s.isChild then
    if s.tb.roleSet && port == s.tb.port && s.parentUp then
      { s with tb := { s.tb.startSeries with lock := true } }
    else s
  else { s with tb := { s.tb with lock := true, refok := true, sync := true } }

def execPllLock (port : PortId) (s : State) : Host.Outcome State Fault Refusal := .next (pllLockOp port s)

/-- Sends a TIME message to a port's peer, on member 0 of the port's bundle (R265, R397); it is stamped `sub` ns after the last time code when
it goes out at once (R395). -/
def State.sendTime (s : State) (p : PortId) (m : TimeSeg) (sub : BitVec 6) : State :=
  let x := s.port p
  match s.enqueue x.dir.toNat 0
      { XMsg.init with hdr := mkHdr 0x10 1 x.pmod s.mid 0 0 0, segs := timeSeg m, cls := s.dateline x.dir.toNat } with
  | none => s
  | some r => r.2.pumpPort r.1 (s.portStamp sub) (r.2.port r.1).txq.length

/-- TIME_EXCHANGE_TICK: a child sends the next request of its series, 1 µs after the last; T1 is the stamp of its transmission (R395, R396). -/
def timeExchangeTickOp (sub : BitVec 6) (s : State) : State :=
  let t := s.tb
  if !t.exOn || 64 ≤ t.exNext || !s.parentUp then s
  else
    let t1 := s.portStamp sub
    if t1.toNat < t.exStart.toNat + 1000 * t.exNext then s
    else
      let s1 := { s with tb := { t with exch := t.exch ++ [{ Exch.init with seq := t.exNext, t1 := t1 }], exNext := t.exNext + 1 } }
      s1.sendTime t.port ⟨0, 0, BitVec.ofNat 8 t.exNext, 0⟩ sub

def execTimeExchangeTick (sub : BitVec 6) (s : State) : Host.Outcome State Fault Refusal := .next (timeExchangeTickOp sub s)

/-- `d` and θ of an exchange (R396). -/
def Exch.d (e : Exch) : BitVec 64 := (e.t4 - e.t1) - (e.t3 - e.t2)
def Exch.theta (e : Exch) : BitVec 64 := ((e.t2 - e.t1) - (e.t4 - e.t3)).sshiftRight 1

/-- The exchange with the smallest `d`, the lowest SEQ among equals. -/
def bestExch : List Exch → Option Exch
  | [] => none
  | e :: t =>
    match bestExch t with
    | none => some e
    | some b => if b.d.toInt < e.d.toInt then some b else some e

/-- A series whose 64 responses have come: the first θ steps the counter and sets SYNC; that of a later series is only
recorded (R396, R398). -/
def TimeBase.endSeries (t : TimeBase) : TimeBase :=
  match bestExch t.exch with
  | none => t
  | some e =>
    let t1 := { t with exOn := false, exch := [] }
    if t.sync then { t1 with resid := e.theta, resv := true }
    else { t1 with now := t1.now + e.theta, offset := e.theta, rtt := e.d.setWidth 32, sync := true }

/-- The counter has been stepped by θ: the times since which the always-running units wait move with it (R396). -/
def State.shiftTimes (s : State) (th : BitVec 64) : State :=
  { s with
    west := { s.west with lastFrame := s.west.lastFrame + th, kick := s.west.kick.map (· + th) }
    east := { s.east with lastFrame := s.east.lastFrame + th, kick := s.east.kick.map (· + th) }
    clus := s.clus.mapVals fun c => { c with idleSince := c.idleSince + th }
    am := { s.am with linkStart := s.am.linkStart.map (· + th) }
    homes := s.homes.mapVals fun h =>
      { h with
        refs := h.refs.mapVals (· + th), wcb := h.wcb.map fun e => { e with last := e.last + th },
        rq := h.rq.map fun r => { r with since := r.since + th }, wq := h.wq.map fun r => { r with since := r.since + th },
        gq := h.gq.map fun r => { r with since := r.since + th } } }

/-- A TIME message at its port. A parent answers a request while its SYNC is 1; the port writes T3 − T2 when the answer goes out, some
nanoseconds later (R395, R397). A child records a response that comes in on its parent port's bundle, on whose member 0 it travels (R265, R396). -/
def timeOp (port : PortId) (m : TimeSeg) (sub : BitVec 6) (s : State) : State :=
  let st := s.portStamp sub
  if (s.port port).st != .active then s
  else if m.kind = 0 then
    if !s.tb.sync then s
    else
      let f := s.take
      f.2.sendTime port ⟨st, 0, m.seq, 1⟩ (BitVec.ofNat 6 (Config.cycles f.1))
  else if m.kind = 1 then
    let t := s.tb
    if !t.exOn || (s.port port).dir != (s.port t.port).dir then s
    else
      let ex := t.exch.map fun e =>
        if e.seq = m.seq.toNat && !e.done then
          { e with t2 := m.t2, t3 := m.t2 + m.dt.setWidth 64, t4 := st, done := true }
        else e
      let t1 := { t with exch := ex }
      if (ex.filter (·.done)).length < 64 then { s with tb := t1 }
      else
        let s1 := { s with tb := t1.endSeries }
        if t.sync then s1 else s1.shiftTimes s1.tb.offset
  else s

def execTime (port : PortId) (m : TimeSeg) (sub : BitVec 6) (s : State) : Host.Outcome State Fault Refusal :=
  .next (timeOp port m sub s)

/-- SERIES_TIMEOUT: fewer than 64 responses 128 µs after the series began (R396). -/
def seriesTimeoutOp (s : State) : State :=
  if s.tb.exOn && decide (s.tb.exStart.toNat + 128000 ≤ s.tb.now.toNat) then { s with tb := s.tb.startSeries } else s

def execSeriesTimeout (s : State) : Host.Outcome State Fault Refusal := .next (seriesTimeoutOp s)

/-- HOLDOVER: a synced child whose parent port has left ACTIVE, or a synced root that loses its reference (R398). (DEDUCED, log entry 34; unsafe.) -/
def holdoverOp (s : State) : State :=
  if !s.tb.sync || s.tb.hold || (s.isChild && s.parentUp) then s
  else { s with tb := { s.tb with hold := true, lock := false, refok := s.isChild && s.tb.refok } }

def execHoldover (s : State) : Host.Outcome State Fault Refusal := .next (holdoverOp s)

/-- RELOCK: the source returns; a child runs one further series, whose θ it does not apply (R398). -/
def relockOp (s : State) : State :=
  if !s.tb.hold || (s.isChild && !s.parentUp) then s
  else
    let t := { s.tb with hold := false, lock := true, refok := !s.isChild || s.tb.refok }
    { s with tb := if s.isChild then t.startSeries else t }

def execRelock (s : State) : Host.Outcome State Fault Refusal := .next (relockOp s)

end Sys2Proof.Machine
end

