-- ==== Sys2Proof/Machine/Amdon.lean ====
section
/-! DEFINITION. The Amdon links: training (R255 to R258), received flits (R253, R254, R261), replay and failover (R259, R270 to R272),
remote-request timeouts (R267) and the confirmation of descriptors that span modules (R268). -/
namespace Sys2Proof.Machine

/-! ### Flits -/

def flitWord (f : BitVec 2048) (i : Nat) : Word := f.extractLsb' (32 * i) 32
def flitType (f : BitVec 2048) : Nat := fieldN (flitWord f 0) 28 4
def flitVc (f : BitVec 2048) : Nat := fieldN (flitWord f 0) 25 3
def flitCls (f : BitVec 2048) : Bool := bitAt (flitWord f 0) 24
def flitSeq (f : BitVec 2048) : BitVec 12 := bits (flitWord f 0) 12 12
def flitAck (f : BitVec 2048) : BitVec 12 := bits (flitWord f 0) 0 12
def flitSegs (f : BitVec 2048) : List Byte := ((toBytes 256 f).drop 8).take 240
def flitOk (f : BitVec 2048) : Bool := crc64 ((toBytes 256 f).take 248) == f.extractLsb' 1984 64

/-- The messages of a DATA flit: each begins on a segment, and zero segments end them (R254). -/
def msgsOf (cls : Bool) : Nat → List Byte → List XMsg
  | 0, _ => []
  | k + 1, bs =>
    let h : BitVec 128 := ofBytes 128 (bs.take 16)
    if h = 0 then []
    else
      let x : XMsg := { XMsg.init with hdr := h, cls := cls }
      { x with segs := (bs.drop 16).take (16 * x.len) } :: msgsOf cls (k - x.len) (bs.drop (16 + 16 * x.len))

def flitMsgs (f : BitVec 2048) : List XMsg := msgsOf (flitCls f) 15 (flitSegs f)

/-! ### Failover and loss -/

/-- The messages of a replay buffer, each for the member that its flit was sent for, to be sent again (R271). -/
def Port.unacked (p : Port) : List XMsg := p.rbuf.flatMap fun f => (flitMsgs f.flit).map fun x => { x with mem := f.mem, resend := true }

/-- A lost UP message fails its round, unless another copy of the contribution can still arrive (R272). -/
def State.upLost (s : State) (x : XMsg) : State :=
  match s.descs.get? x.desc.toNat with
  | none => s
  | some d =>
    let ms := s.members d 0 d.layer
    let copy := (List.range ms.length).any fun i => d.nodeOf ms.length 0 i == x.node && s.otherCopy d ms 0 i x.smod
    if x.epoch != s.descEp.get x.desc.toNat 0 || copy then s
    else
      match d.roundOf 0 x.round with
      | some n => (s.loseRound x.desc 0 n).settle x.desc 0
      | none => s

/-- A message is lost with its bundle (R272). The request of another module that is lost in transit completes there with E_LINKDOWN (R267). -/
def State.msgLost (s : State) (x : XMsg) : State :=
  if x.mtype = 0x08 then s.upLost x
  else if 0x01 ≤ x.mtype && x.mtype ≤ 0x03 && x.smod != s.mid then
    s.ucReply (x.addr / 128) x.smod x.tag x.tepoch 0 0 0 0x0402
  else s

/-- Every member of a direction is out of ACTIVE: what is held for it is lost, and the remote accesses that take it
complete with E_LINKDOWN (R267, R272). -/
def State.bundleLost (s : State) (dir : Nat) : State :=
  let ps := s.bundle dir
  let lost := ps.flatMap fun p => (s.port p).unacked ++ (s.port p).txq
  let s1 := ps.foldl (fun s p => s.setPort p { s.port p with rbuf := [], txq := [], movedTo := none }) s
  let s2 := lost.foldl (fun s x => (s.msgLost x).freeSlot x.slot) s1
  let tags := (s2.am.tags.entries.filter fun e =>
    match e.2.use with
    | some u => s2.routeDir (bits u.addr 49 15) == some dir
    | none => false).map (·.1)
  tags.foldl (fun s t => s.tagLost t) s2

/-- A port leaves ACTIVE: its unacknowledged flits and its waiting messages go to its failover port, ahead of what waits there, which is
newer or of other members, and that port then serves the members it served (R271); with no ACTIVE member left they are lost (R272). -/
def State.leaveActive (s : State) (p : PortId) : State :=
  let x := s.port p
  let dir := x.dir.toNat
  let b := s.bundle dir
  let j := (b.findIdx? (· == p)).getD 0
  match s.failover dir j with
  | none => s.bundleLost dir
  | some q =>
    let held := x.unacked ++ x.txq
    let s1 := s.setPort p { x with rbuf := [], txq := [], movedTo := some q }
    let s2 := b.foldl (fun s r =>
      let y := s.port r
      if y.movedTo == some p then s.setPort r { y with movedTo := if r == q then none else some q } else s) s1
    (s2.setPort q { s2.port q with txq := held ++ (s2.port q).txq }).pump q

/-- A failover port gives back the members of ports that are ACTIVE again for which it holds no unacknowledged flit (R271). -/
def State.handBack (s : State) (q : PortId) : State :=
  (s.bundle (s.port q).dir.toNat).foldl (fun s r =>
    let x := s.port q
    let y := s.port r
    if y.movedTo == some q && y.st == .active && !(x.rbuf.any (·.mem == r) || x.txq.any (·.mem == r)) then
      (s.setPort r { y with movedTo := none }).pump r
    else s) s

/-- A port records an error code (R273). -/
def Port.note (p : Port) (c : Code) : Port := { p with errValid := true, errCode := if p.errValid then p.errCode else c }

/-- A port enters RETRAIN (R255, R270). -/
def State.enterRetrain (s : State) (p : PortId) : State :=
  let x := s.port p
  (s.setPort p { x with st := .retrain, retraining := true, retrain := satAdd x.retrain 1, attempts := 0, nakRun := 0, nakSent := 0 }).leaveActive p

/-! ### Acknowledgements and credits -/

/-- Flits covered by an ACK leave the replay buffer (R259). -/
def Port.acked (p : Port) (a : BitVec 12) : Port :=
  match p.rbuf with
  | [] => p
  | f :: _ =>
    let n := (a - flitSeq f.flit + 1).toNat
    if n ≤ p.rbuf.length then { p with rbuf := p.rbuf.drop n } else p

/-- The credits that a flit returns (R253, R261). -/
def Port.credited (p : Port) (f : BitVec 2048) : Port :=
  let w := flitWord f 1
  let k := fieldN w 28 4
  let n := fieldN w 18 10
  if n = 0 then p else { p with cred := p.cred.put k (p.cred.get k 0 + n) }

/-- The ACK and credits of a good flit, and what they let this module send. -/
def State.flitHead (s : State) (p : PortId) (f : BitVec 2048) : State :=
  ((s.setPort p (((s.port p).acked (flitAck f)).credited f)).pump p).handBack p

/-! ### Receiving -/

/-- A CTRL flit with `seg` as its first segment. -/
def Port.ctrl (p : Port) (seg : List Byte) : Port := { p with out := p.out ++ [mkFlit (p.word0 2 0 false (p.txSeq - 1)) 0 seg] }

/-- A NAK in a CTRL flit that names the expected SEQ, in its first segment; eight in a row for one SEQ put the port in RETRAIN (R270).
(DEDUCED, log entry 31; unsafe.) -/
def State.sendNak (s : State) (port : PortId) : State :=
  let p := (s.port port).ctrl (toBytes 16 ((s.port port).rxSeq.setWidth 128))
  let s1 := s.setPort port { p with discard := true, replay := satAdd p.replay 1, nakSent := p.nakSent + 1 }
  if 8 ≤ p.nakSent + 1 then s1.enterRetrain port else s1

/-- The codewords that came with a flit are counted (R270, R273). -/
def Port.fecSeen (p : Port) (fec : Fec) : Port :=
  { p with fecCorr := p.fecCorr + fec.corr.setWidth 64, fecUnc := satAdd p.fecUnc fec.unc.toNat }

/-- A flit that fails its CRC or touches an uncorrected codeword is discarded and answered by a NAK (R270). -/
def State.badFlit (s : State) (port : PortId) (f : BitVec 2048) : State :=
  let p := s.port port
  (s.setPort port { p with crc := if flitOk f then p.crc else satAdd p.crc 1 }).sendNak port

/-- An uncached request from another module arrives at this module's homes (R216). A request for an offset that no home
serves completes with E_XLATE (R14, R284). (DEDUCED, log entry 32; unsafe.) -/
def State.recvReq (s : State) (x : XMsg) (port : PortId) (kind : ReqKind) (p : Pay) : State :=
  if s.lineOk (x.addr / 128) && !s.inGolden x.addr then
    s.send (.req kind ⟨x.addr / 128, .remote x.smod x.tag x.tepoch port⟩
      { p with sector := x.addr / 32, addr := x.addr, pois := x.pois, remote := true })
  else s.ucReply (x.addr / 128) x.smod x.tag x.tepoch 0 0 0 0x0302

/-- Confirmation of a descriptor (R268): the message to module `m`, from a module that sets the id or, with `answer`, in answer to one. -/
def State.sendMgmt (s : State) (m : ModId) (did : DescId) (d : Desc) (answer : Bool) : State :=
  let body := toBytes 2 did ++ toBytes 1 (s.descEp.get did.toNat 0) ++ [if answer then 1#8 else 0#8] ++ List.replicate 12 0#8 ++
    toBytes 48 d.digest
  (s.sendTo m (fun _ => 0) (mkHdr 0x11 4 m s.mid 0 0 0) body).getD s

/-- A pending descriptor's setting command fails, and its id is free (R268). -/
def State.failDesc (s : State) (did : DescId) (d : Desc) (code : Code) : State :=
  ({ s with descs := s.descs.del did.toNat }).finish d.setQ d.setSerial code

/-- Module `src` has the id set with a digest: an equal one confirms, a different one makes a setting command fail. A module that has the id
set, whether pending or not, answers a message that is not itself an answer (R268). (DESIGN CHOICE, log entry 33; unsafe.) -/
def State.mgmtFrom (s : State) (src : ModId) (did : DescId) (epoch : BitVec 8) (digest : BitVec 384) (answer : Bool) : State :=
  match s.descs.get? did.toNat with
  | none => s
  | some d =>
    if !(s.otherMods d).contains src then s
    else
      let s1 := if answer then s else s.sendMgmt src did d true
      if !d.pend then s1
      else if digest != d.digest then s1.failDesc did d 0x0104
      else
        let d1 := { d with confirmed := if d.confirmed.contains src then d.confirmed else d.confirmed ++ [src],
                           rootEp := if src == d.rootMod then epoch else d.rootEp }
        let s2 := s1.setDesc did d1
        if (s.otherMods d).all d1.confirmed.contains then
          let s3 := s2.setDesc did { d1 with pend := false }
          let s4 := if d.rootMod == s.mid then s3 else { s3 with descEp := s3.descEp.put did.toNat d1.rootEp }
          (s4.finish d.setQ d.setSerial 0).confirmSweep did
        else s2

/-- MGMT: the message of a module that sets the id (R268). -/
def mgmtOp (src : ModId) (did : DescId) (epoch : BitVec 8) (digest : BitVec 384) (s : State) : State := s.mgmtFrom src did epoch digest false

def execMgmt (src : ModId) (did : DescId) (epoch : BitVec 8) (digest : BitVec 384) (s : State) : Host.Outcome State Fault Refusal :=
  .next (mgmtOp src did epoch digest s)

/-- DESC_CONFIRM_TIMEOUT: some module has not confirmed within the setting queue's wait limit (R268). -/
def descConfirmTimeoutOp (did : DescId) (s : State) : State :=
  match s.descs.get? did.toNat with
  | none => s
  | some d =>
    if d.pend && decide (d.setAt.toNat + 1000 * (s.queue d.setQ).wlim.toNat ≤ s.tb.now.toNat) then s.failDesc did d 0x0106 else s

def execDescConfirmTimeout (did : DescId) (s : State) : Host.Outcome State Fault Refusal := .next (descConfirmTimeoutOp did s)

/-- The direction that a message in transit takes: a DN message goes back along the route that its destination's UP messages take (R264,
R269). -/
def State.transitDir (s : State) (x : XMsg) : Option Nat := if x.mtype = 0x09 then s.backDir x.smod x.dmod else s.routeDir x.dmod

/-- The code of the access that a UCDONE answers, in OPSZ (log entry 70). -/
def XMsg.code (x : XMsg) : Code := if x.atomSize = 1 then 0x0302 else if x.atomSize = 2 then 0x0402 else 0

/-- A message for this module is delivered (R254, R265). -/
def State.recvMsg (s : State) (port : PortId) (x : XMsg) : State :=
  let d : BitVec 256 := ofBytes 256 (x.segs.take 32)
  let unknown := s.setPort port { s.port port with proto := satAdd (s.port port).proto 1 }
  match x.mtype with
  | 0x01 => s.recvReq x port (.ucr false) .init
  | 0x02 =>
    s.recvReq x port .ucw { Pay.init with mask := ofBytes 32 (x.segs.take 4), data := ofBytes 256 ((x.segs.drop 16).take 32) }
  | 0x03 =>
    if 0x10 ≤ x.atomOp.toNat && x.atomOp.toNat ≤ 0x1A then
      s.recvReq x port (.uca x.atomOp (if x.atomSize = 3 then .b8 else .b4)) { Pay.init with data := d }
    else unknown
  | 0x04 => s.send (.ucdone ⟨x.addr / 128, .remote s.mid x.tag x.tepoch port⟩ d x.pois true x.len x.code)
  | 0x08 => s.recvUp x (s.edgeRouter port)
  | 0x09 => s.recvDn x (s.edgeRouter port)
  | 0x10 => let f := s.take; timeOp port (timeOfSeg x.segs) (BitVec.ofNat 6 (Config.cycles f.1)) f.2
  | 0x11 =>
    s.mgmtFrom x.smod (ofBytes 16 (x.segs.take 2)) (ofBytes 8 ((x.segs.drop 2).take 1)) (ofBytes 384 ((x.segs.drop 16).take 48))
      (ofBytes 8 ((x.segs.drop 3).take 1) == 1#8)
  | _ => unknown

/-- A message that this port has received is delivered, or crosses the transit switch, in whose buffer it waits until its output sends it
(R254, R264, R265). `n` names the flit that holds it. -/
def State.takeMsg (s : State) (port : PortId) (n : Nat) (x : XMsg) : State :=
  let here := some (port, n)
  if x.dmod == s.mid || (vcOf x.mtype).isNone then (s.recvMsg port x).freeSlot here
  else
    match s.transitDir x with
    | none => s.freeSlot here
    | some dir =>
      let same := dir / 2 == (s.port port).dir.toNat / 2
      let m := (s.bundle dir).length
      let j := if m = 0 then 0
        else if x.mtype ≤ 0x04 then lineMember x.addr m else if x.mtype = 0x08 || x.mtype = 0x09 then x.desc.toNat % m else 0
      match s.sendDir dir j { x with cls := s.dateline dir || (same && x.cls), slot := here } with
      | some t => t
      | none => (s.msgLost x).freeSlot here

/-- The buffer that an accepted flit takes: a reserved one of its pair while fewer than eight are held, else a shared one (R257, R261).
(DEDUCED, log entry 72; unsafe.) -/
def Port.rxKey (p : Port) (f : BitVec 2048) : BitVec 4 :=
  let k : BitVec 4 := BitVec.ofNat 4 (2 * flitVc f + (if flitCls f then 1 else 0))
  if (p.rx.filter (·.key == k)).length < 8 then k else 15

/-- A flit with the expected SEQ enters the receive buffer. One without messages leaves it at once. -/
def Port.accept (p : Port) (f : BitVec 2048) : Port :=
  let q : Port := { p with rxSeq := p.rxSeq + 1, discard := false, nakSent := 0, rxSerial := p.rxSerial + 1 }
  match (flitMsgs f).length with
  | 0 => { q with retq := q.retq ++ [p.rxKey f] }
  | n + 1 => { q with rx := q.rx ++ [⟨p.rxSerial, p.rxKey f, n + 1⟩] }

/-- The port tells what it has received: by the DATA flits it has sent since it had sent `sent` flits, else by an IDLE flit; credits that
still wait leave in IDLE flits (R253, R259). -/
def State.idleAnswer (s : State) (port : PortId) (sent : Nat) : State :=
  let p := s.port port
  if p.st != .active then s
  else s.setPort port ((if p.out.length = sent then p.idle else p).idles 16)

/-- The receiver takes a DATA flit that it expects: its messages are delivered or go on, and its credit returns as its buffer
empties (R261). A flit ahead of the expected SEQ means that one was lost: it is answered by a NAK; one
already received is dropped. -/
def dataFlitOp (port : PortId) (f : BitVec 2048) (fec : Fec) (s : State) : State :=
  if (s.port port).st != .active then s
  else
    let s0 := s.setPort port ((s.port port).fecSeen fec)
    let p := s0.port port
    if fec.bad || !flitOk f then s0.badFlit port f
    else if flitType f != 1 then s0
    else if flitSeq f != p.rxSeq || 1024 ≤ p.rx.length then
      (if p.discard || 2048 ≤ (flitSeq f - p.rxSeq).toNat then s0 else s0.sendNak port)
    else
      let s1 := (s0.setPort port (p.accept f)).flitHead port f
      ((flitMsgs f).foldl (fun s x => s.takeMsg port p.rxSerial x) s1).idleAnswer port p.out.length

def execDataFlit (port : PortId) (f : BitVec 2048) (fec : Fec) (s : State) : Host.Outcome State Fault Refusal :=
  .next (dataFlitOp port f fec s)

/-- IDLE_FLIT: its ACK and credits, unless flits are being discarded (R253, R270). -/
def idleFlitOp (port : PortId) (f : BitVec 2048) (fec : Fec) (s : State) : State :=
  if (s.port port).st != .active then s
  else
    let s0 := s.setPort port ((s.port port).fecSeen fec)
    if fec.bad || !flitOk f then s0.badFlit port f
    else if flitType f != 0 || (s.port port).discard then s0
    else s0.flitHead port f

def execIdleFlit (port : PortId) (f : BitVec 2048) (fec : Fec) (s : State) : Host.Outcome State Fault Refusal :=
  .next (idleFlitOp port f fec s)

/-- NAK: the sender resends from the named SEQ, a TIME message with a new stamp (R395); each flit is a replay (R370, R407); eight in a row for
one SEQ start a retraining (R270). -/
def nakOp (port : PortId) (seq : BitVec 12) (s : State) : State :=
  let p := s.port port
  if p.st != .active then s
  else
    let run := if p.nakSeq == seq && 0 < p.nakRun then p.nakRun + 1 else 1
    let kept := p.rbuf.takeWhile fun f => flitSeq f.flit != seq
    let old := p.rbuf.drop kept.length
    let t := s.sendStamp (old.any fun f => (flitMsgs f.flit).any (·.isTime))
    let again := old.map fun f => { f with flit := restamp f.flit t.1 }
    let p1 := { p with nakSeq := seq, nakRun := run, replay := satAdd p.replay 1, out := p.out ++ again.map (·.flit), rbuf := kept ++ again,
                       flits := p.flits + BitVec.ofNat 64 again.length }
    let s1 := (again.flatMap fun f => flitMsgs f.flit).foldl (fun s x => s.sentTime x t.1)
      ((if again.isEmpty then t.2 else t.2.replayed).setPort port p1)
    if 8 ≤ run then s1.enterRetrain port else s1

def execNak (port : PortId) (seq : BitVec 12) (s : State) : Host.Outcome State Fault Refusal := .next (nakOp port seq s)

/-! ### Training -/

/-- A failed attempt: back to DETECT, or after three in a row DOWN with WHY the state that failed (R255). -/
def State.failAttempt (s : State) (port : PortId) : State :=
  let p := s.port port
  if 3 ≤ p.attempts + 1 then
    s.setPort port ({ p with st := .down, why := portCode p.st, attempts := 0, retraining := false }.note 0x0402)
  else s.setPort port { p with st := .detect, ver := 0, attempts := p.attempts + 1 }

/-- DETECT: the far end's pattern on at least four lanes; coordinates outside AM_TOPO hold the port here (R255, R262). -/
def detectOp (port : PortId) (lanes : BitVec 8) (s : State) : State :=
  let p := s.port port
  if p.st != .detect then s
  else if !s.coordsOk s.mid then s.setPort port { p with why := 0xB }
  else if 4 ≤ popcount lanes then s.setPort port { p with st := .equalise }
  else s

def execDetect (port : PortId) (lanes : BitVec 8) (s : State) : Host.Outcome State Fault Refusal := .next (detectOp port lanes s)

/-- EQUALISE: the port takes its width from the lanes that pass (R256). -/
def equaliseOp (port : PortId) (pass : BitVec 8) (s : State) : State :=
  let p := s.port port
  if p.st != .equalise && p.st != .retrain then s
  else
    let s1 := s.setPort port { p with laneok := pass }
    if pass = 0xFF then s1.setPort port { p with laneok := pass, st := .align, width := 0 }
    else if bits pass 0 4 = 0xF#4 then s1.setPort port { p with laneok := pass, st := .align, width := 1 }
    else if bits pass 4 4 = 0xF#4 then s1.setPort port { p with laneok := pass, st := .align, width := 2 }
    else s1.failAttempt port

def execEqualise (port : PortId) (pass : BitVec 8) (s : State) : Host.Outcome State Fault Refusal := .next (equaliseOp port pass s)

/-- The fields that this end sends in NEGOTIATE (R257), in segment 0 of a CTRL flit. (DESIGN CHOICE, log entry 73; unsafe.) -/
def Port.negotiateSeg (p : Port) : List Byte :=
  toBytes 2 (1 : BitVec 16) ++ [3#8] ++ toBytes 1 (p.width.setWidth 8) ++ toBytes 2 (8 : BitVec 16) ++ toBytes 2 (928 : BitVec 16)

/-- The fields that this end sends in IDENTIFY (R258). (DESIGN CHOICE, log entry 73; unsafe.) -/
def identifySeg (mid : ModId) (port : PortId) (dir : BitVec 3) (ver : BitVec 4) : List Byte :=
  toBytes 2 (mid.setWidth 16) ++ toBytes 1 (port.setWidth 8) ++ toBytes 1 (dir.setWidth 8) ++ toBytes 1 (ver.setWidth 8)

/-- In NEGOTIATE the port sends its CTRL flit. -/
def alignOp (port : PortId) (s : State) : State :=
  let p := s.port port
  if p.st == .align then s.setPort port ({ p with st := .negotiate }.ctrl p.negotiateSeg) else s

/-- ALIGN: FEC lock and deskew complete (R255). -/
def execAlign (port : PortId) (s : State) : Host.Outcome State Fault Refusal := .next (alignOp port s)

/-- NEGOTIATE (R257, R258): version 1 or none, the capabilities of both ends, the narrower width, and the far end's credits; a direction
without a neighbour is MISWIRED, and any other port sends its IDENTIFY flit. -/
def negotiateOp (port : PortId) (peer : CtrlFields) (s : State) : State :=
  let p := s.port port
  if p.st != .negotiate then s
  else if !bitAt peer.versions 0 then s.setPort port ({ p with st := .down, why := 0xA, retraining := false }.note 0x0402)
  else
    let cred := ((List.range 12).foldl (fun (t : Tab Nat) k => t.put k peer.reserved.toNat) .empty).put 15 peer.shared.toNat
    let p1 := { p with ver := 1, width := if p.width = 0 then peer.width else p.width, caps := 3 &&& peer.caps, cred := cred }
    if (s.neighbour p.dir.toNat).isNone then s.setPort port { p1 with st := .miswired, retraining := false }
    else s.setPort port ({ p1 with st := .identify }.ctrl (identifySeg s.mid port p.dir 1))

def execNegotiate (port : PortId) (peer : CtrlFields) (s : State) : Host.Outcome State Fault Refusal :=
  .next (negotiateOp port peer s)

/-- IDENTIFY (R258): the neighbour that the topology gives, the opposite direction and the same version, or MISWIRED. A port that leaves
ACTIVE holds no flit any more (R271, R272), so that every training starts at SEQ 0. (DESIGN CHOICE, log entry 21; unsafe.) -/
def identifyOp (port : PortId) (pmod : ModId) (pport : PortId) (pdir : BitVec 3) (pver : BitVec 4) (s : State) : State :=
  let p := s.port port
  if p.st != .identify then s
  else
    let p1 := { p with pmod := pmod, pport := pport, pdir := pdir, attempts := 0 }
    if s.neighbour p.dir.toNat == some pmod && pdir == (p.dir ^^^ 1) && pver == p.ver then
      let s1 := s.setPort port
        { p1 with
          st := .active, retraining := false, txSeq := 0, rxSeq := 0, rbuf := [], rx := [], retq := [], discard := false,
          nakRun := 0, nakSent := 0 }
      let s2 := match (s1.port port).movedTo with
        | some q => s1.handBack q
        | none => s1
      s2.pump port
    else s.setPort port { p1 with st := .miswired, retraining := false }

def execIdentify (port : PortId) (pmod : ModId) (pport : PortId) (pdir : BitVec 3) (pver : BitVec 4) (s : State) :
    Host.Outcome State Fault Refusal := .next (identifyOp port pmod pport pdir pver s)

/-- TRAINING_TIMEOUT: a state exceeds its bound (R255). An ACTIVE port has none and DETECT polls without limit. -/
def trainingTimeoutOp (port : PortId) (s : State) : State :=
  match (s.port port).st with
  | .equalise => s.failAttempt port
  | .align => s.failAttempt port
  | .negotiate => s.failAttempt port
  | .identify => s.failAttempt port
  | .retrain => s.failAttempt port
  | _ => s

def execTrainingTimeout (port : PortId) (s : State) : Host.Outcome State Fault Refusal := .next (trainingTimeoutOp port s)

/-- The first port to leave OFF locks the topology; after power-up that also fixes the time base's role (R274, R394). The PLL of a child
free-runs until its port is ACTIVE, whatever it had locked to before. -/
def State.lockTopo (s : State) : State :=
  if s.am.lock then s
  else
    let s1 := { s with am := { s.am with lock := true, everLocked := true } }
    if s1.tb.roleSet then s1
    else
      match s1.ports.entries.find? fun e => e.2.tpar with
      | some e => { s1 with tb := { s1.tb with roleSet := true, role := true, port := BitVec.ofNat 5 e.1, lock := false, sync := false } }
      | none => { s1 with tb := { s1.tb with roleSet := true, role := false, port := 0 } }

/-- The firmware of the nunatak that trains a port runs: that of the port's half (R30, R31). -/
def State.trains (s : State) (port : PortId) : Bool := if port.toNat < 16 then s.west.fwOn else s.east.fwOn

/-- AM_CTRL.EN: leave OFF and train, or return to OFF (R255, R273). -/
def amCtrlEnOp (port : PortId) (en : Bool) (s : State) : State :=
  let p := s.port port
  if s.inHold || !s.pw.on || !s.trains port then s
  else if en then
    (if p.st == .off then (s.setPort port { p with en := true, st := .detect, attempts := 0 }).lockTopo
     else s.setPort port { p with en := true })
  else
    let s1 := s.setPort port
      { p with en := false, st := .off, ver := 0, caps := 0, width := 0, laneok := 0, retraining := false }
    if p.st == .active then s1.leaveActive port else s1

def execAmCtrlEn (port : PortId) (en : Bool) (s : State) : Host.Outcome State Fault Refusal := .next (amCtrlEnOp port en s)

/-- AM_CTRL.TRAIN: restart from DETECT in DOWN or MISWIRED (R255). -/
def amCtrlTrainOp (port : PortId) (s : State) : State :=
  let p := s.port port
  if s.inHold || !s.pw.on || !s.trains port then s
  else if p.st == .down || p.st == .miswired then s.setPort port { p with st := .detect, ver := 0, attempts := 0, retraining := false }
  else s

def execAmCtrlTrain (port : PortId) (s : State) : Host.Outcome State Fault Refusal := .next (amCtrlTrainOp port s)

/-- REMOTE_TAG_TIMEOUT: no UCDONE within AM_RTO (R267). -/
def remoteTagTimeoutOp (tag : BitVec 10) (s : State) : State :=
  let r := s.am.tags.get tag.toNat .init
  if r.use.isSome && decide (r.start.toNat + 1000 * s.am.rto.toNat ≤ s.tb.now.toNat) then s.tagLost tag.toNat else s

def execRemoteTagTimeout (tag : BitVec 10) (s : State) : Host.Outcome State Fault Refusal := .next (remoteTagTimeoutOp tag s)

end Sys2Proof.Machine
end

