-- ==== Sys2Proof/Machine/Matrix.lean ====
section
/-! DEFINITION. The outer-product array (R73 to R102): the five matrix instructions, the K blocks of a sub-array and the scale fold. -/
namespace Sys2Proof.Machine

/-! ### Elements and products -/

/-- An element's value: `m · 2^e`; a non-zero BF16 element of which pre-alignment keeps no bit (R91); or not finite (R84). -/
inductive EV where
  | num (m e : Int)
  | lost (neg : Bool)
  | nan
  | inf (neg : Bool)
  deriving DecidableEq, Repr

def ofFVal : FVal → EV
  | .nan => .nan
  | .inf s => .inf s
  | .fin s m e => .num (if s then -(m : Int) else m) e

/-- The value of an element code (R84). -/
def elemVal (f : Fmt) (c : Nat) : EV :=
  match f with
  | .mxfp4 =>
    let m : Int := ([0, 1, 2, 3, 4, 6, 8, 12].getD (c % 8) 0 : Nat)
    .num (if 8 ≤ c % 16 then -m else m) (-1)
  | .mxint8 => .num (BitVec.ofNat 8 c).toInt (-6)
  | .e4m3 => ofFVal (fE4m3.decode c)
  | .e5m2 => ofFVal (fE5m2.decode c)
  | .int8 => .num (BitVec.ofNat 8 c).toInt 0
  | .uint8 => .num ((c % 256 : Nat) : Int) 0
  | .int16 => .num (BitVec.ofNat 16 c).toInt 0
  | .bf16 => ofFVal (fBf16.decode c)

/-- The special state of a block with one more special product (R88). -/
def Special.join : Special → Special → Special
  | .none, y => y
  | x, .none => x
  | .pinf, .pinf => .pinf
  | .ninf, .ninf => .ninf
  | _, _ => .nan

/-- What a product adds to I in units of 2^λ, whether bits were lost, and its special state (R87, R88). The 0 of `Inf × 0` is an
element that is 0 before pre-alignment. -/
def product (lam : Int) (x y : EV) : Int × Bool × Special :=
  match x, y with
  | .num m e, .num n f =>
    let p := m * n
    let sh := e + f - lam
    if 0 ≤ sh then (p * 2 ^ sh.toNat, false, .none)
    else
      let d : Int := 2 ^ (-sh).toNat
      let q := p.natAbs / d.toNat
      (if p < 0 then -(q : Int) else q, p.natAbs % d.toNat != 0, .none)
  | .num m _, .inf s => (0, false, if m = 0 then .nan else if s != decide (m < 0) then .ninf else .pinf)
  | .inf s, .num m _ => (0, false, if m = 0 then .nan else if s != decide (m < 0) then .ninf else .pinf)
  | .inf s, .inf t => (0, false, if s != t then .ninf else .pinf)
  | .inf s, .lost t => (0, false, if s != t then .ninf else .pinf)
  | .lost s, .inf t => (0, false, if s != t then .ninf else .pinf)
  | .lost _, .num _ _ => (0, false, .none)
  | .num _ _, .lost _ => (0, false, .none)
  | .lost _, .lost _ => (0, false, .none)
  | _, _ => (0, false, .nan)

/-- The largest magnitude of a format, the bound behind λ (R86). -/
def maxMag : Fmt → Nat
  | .mxfp4 => 6
  | .mxint8 => 2
  | .e4m3 => 448
  | .e5m2 => 57344
  | _ => 1

/-- λ of an MX pair: ⌊log2(32 × |a|max × |b|max)⌋ − 30 (R86). -/
def lambdaOf (a b : Fmt) : Int := ((32 * maxMag a * maxMag b).log2 : Int) - 30

/-! ### Tiles -/

/-- Element code `j` of step `k` of a block of `l` rows or columns (R76). -/
def codeAt (bs : List Byte) (s w l k j : Nat) : Nat :=
  if w = 4 then
    let b := (bs.getD (s + k * l / 2 + j / 2) 0).toNat
    if j % 2 = 0 then b % 16 else b / 16
  else if w = 16 then natOfBytes ((bs.drop (s + (k * l + j) * 2)).take 2)
  else (bs.getD (s + k * l + j) 0).toNat

/-- The element values of a block, row by row. -/
def tileRows (mode : MxMode) (f : Fmt) (bs : List Byte) (l : Nat) : List (List EV) :=
  (List.range l).map fun j => (List.range 32).map fun k => elemVal f (codeAt bs (scaleBytes mode f) (fmtBits f) l k j)

/-- A row or column of a BF16 block after pre-alignment: its shared exponent, the aligned elements, and whether a bit was
lost (R91). -/
structure Aligned where
  es : Nat
  vals : List EV
  lost : Bool

def bfExp (c : Nat) : Nat := max 1 (c / 128 % 256)

def alignRow (cs : List Nat) : Aligned :=
  let fin (c : Nat) : Bool := c / 128 % 256 != 255
  let es := cs.foldl (fun m c => if fin c && c % 32768 != 0 then max m (bfExp c) else m) 1
  let one (c : Nat) : EV × Bool :=
    if !fin c then (if c % 128 != 0 then .nan else .inf (32768 ≤ c), false)
    else
      let sig := (if c / 128 % 256 = 0 then c % 128 else c % 128 + 128) * 32
      let d := 2 ^ (es - bfExp c)
      let m : Int := (sig / d : Nat)
      (if m = 0 && sig != 0 then .lost (32768 ≤ c) else .num (if 32768 ≤ c then -m else m) 0, sig % d != 0)
  ⟨es, cs.map fun c => (one c).1, cs.any fun c => (one c).2⟩

def bfRows (bs : List Byte) (l : Nat) : List Aligned :=
  (List.range l).map fun j => alignRow ((List.range 32).map fun k => codeAt bs 0 16 l k j)

/-! ### One K block -/

/-- A cell after the 32 products of a block in an MX, BF16 or INT8 pair: I, lost bits, special state, and whether I
wrapped (R87, R88, R92). -/
structure MmaOut where
  i : Int
  lost : Bool
  sp : Special
  wrap : Bool

/-- The products of one block added to I. A sum that leaves 32 bits wraps: for INT8 that is R92's rule; for MX and BF16, where R87 lets
I never overflow within a block, it can come only of an I that another mode left, and the wrap, with no flag, is the model's
choice. (DEDUCED, log entry 16; unsafe.) -/
def mmaCell (lam : Int) (i0 : Word) (a b : List EV) : MmaOut :=
  (a.zip b).foldl (fun (o : MmaOut) p =>
    let r := product lam p.1 p.2
    let t := o.i + r.1
    let w := t < -2147483648 || 2147483647 < t
    ⟨if w then (BitVec.ofInt 32 t).toInt else t, o.lost || r.2.1, o.sp.join r.2.2, o.wrap || w⟩) ⟨i0.toInt, false, .none, false⟩

def EV.int : EV → Int
  | .num m _ => m
  | _ => 0

/-- I after one step of a distance or semiring mode, and whether it saturated (R93, R94). -/
def modeStep (mode : MxMode) (f : Fmt) (i a b : Int) : Int × Bool :=
  let sat (x : Int) : Int × Bool := if 2147483647 < x then (2147483647, true) else (x, false)
  let hi : Int := if f == .int16 then 32767 else 127
  let lo : Int := if f == .int16 then -32768 else -128
  match mode with
  | .l1d => sat (i + (a - b).natAbs)
  | .l2d => sat (i + (a - b) * (a - b))
  | .cmpc => sat (i + if b < a then 1 else 0)
  | .ham => sat (i + (popcount (BitVec.ofInt 8 a ^^^ BitVec.ofInt 8 b) : Nat))
  | .minplus => (min i (if a = hi || b = hi then 2147483647 else a + b), false)
  | .maxplus => (max i (if a = lo || b = lo then -2147483648 else a + b), false)
  | .mma => (i, false)

def modeCell (mode : MxMode) (f : Fmt) (i0 : Word) (a b : List EV) : Int × Bool :=
  (a.zip b).foldl (fun (o : Int × Bool) p =>
    let r := modeStep mode f o.1 p.1.int p.2.int; (r.1, o.2 || r.2)) (i0.toInt, false)

/-- First cell row and column of sub-array `s` (R73). -/
def subOrigin (pack : BitVec 2) (s : Nat) : Nat × Nat :=
  if pack = 0 then (0, 0) else if pack = 1 then (16 * (s / 2), 16 * (s % 2)) else (8 * (s / 4), 8 * (s % 4))

/-- The cells of a sub-array with their place in it. -/
def subCells (pack : BitVec 2) (s : Nat) : List (Nat × Nat × Nat) :=
  let d := subDim pack
  let o := subOrigin pack s
  (List.range d).flatMap fun m => (List.range d).map fun n => (32 * (o.1 + m) + o.2 + n, m, n)

def Arr.onSub (a : Arr) (s : Nat) (f : Nat → Nat → Cell → Cell) : Arr :=
  { a with cells := (subCells a.pack s).foldl (fun t p => t.put p.1 (f p.2.1 p.2.2 (t.get p.1 .init))) a.cells }

/-- The mode's initial value of I (R93). -/
def initOf : MxMode → Word
  | .minplus => 0x7FFFFFFF
  | .maxplus => 0x80000000
  | _ => 0

/-- The array after one K block of an MXOP of group `g`, with its tile bytes (R87 to R94). -/
def Arr.block (a : Arr) (g : BitVec 4) (s : Nat) (mode : MxMode) (fa fb : Fmt) (ab bb : List Byte) : Arr :=
  let d := subDim a.pack
  let row (t : List (List EV)) (i : Nat) : List EV := t.getD i []
  if mode == .mma && (isMx fa || fa == .bf16) then
    let ra := if fa == .bf16 then (bfRows ab d).map (·.vals) else tileRows mode fa ab d
    let rb := if fa == .bf16 then (bfRows bb d).map (·.vals) else tileRows mode fb bb d
    let sa := if fa == .bf16 then (bfRows ab d).map fun r => BitVec.ofNat 8 r.es else ab.take d
    let sb := if fa == .bf16 then (bfRows bb d).map fun r => BitVec.ofNat 8 r.es else bb.take d
    let lam : Int := if fa == .bf16 then -24 else lambdaOf fa fb
    let cost (i j : Nat) (c : Cell) : MmaOut := mmaCell (if fa == .bf16 then 0 else lam) c.i (row ra i) (row rb j)
    let nan (i j : Nat) : Bool := fa != .bf16 && (sa.getD i 0 == 0xFF || sb.getD j 0 == 0xFF)
    let lost := (fa == .bf16 && ((bfRows ab d).any (·.lost) || (bfRows bb d).any (·.lost))) ||
      (subCells a.pack s).any fun p => !nan p.2.1 p.2.2 && (cost p.2.1 p.2.2 (a.cells.get p.1 .init)).lost
    let a1 := a.onSub s fun i j c =>
      if nan i j then { c with h := c.i, i := 0, sp := .nan }
      else
        let o := cost i j c
        { c with h := BitVec.ofInt 32 o.i, i := 0, sp := c.sp.join o.sp }
    { a1.raise { trunc := lost } with folds := a1.folds ++ [{ grp := g, sub := s, lam := lam, sa := sa, sb := sb }] }
  else if mode == .mma then
    let ra := tileRows mode fa ab d
    let rb := tileRows mode fb bb d
    let cost (i j : Nat) (c : Cell) : MmaOut := mmaCell 0 c.i (row ra i) (row rb j)
    let wrap := (subCells a.pack s).any fun p => (cost p.2.1 p.2.2 (a.cells.get p.1 .init)).wrap
    (a.onSub s fun i j c => { c with i := BitVec.ofInt 32 (cost i j c).i }).raise { iovf := wrap }
  else
    let ra := tileRows mode fa ab d
    let rb := tileRows mode fb bb d
    let cost (i j : Nat) (c : Cell) : Int × Bool := modeCell mode fa c.i (row ra i) (row rb j)
    let sat := (subCells a.pack s).any fun p => (cost p.2.1 p.2.2 (a.cells.get p.1 .init)).2
    (a.onSub s fun i j c => { c with i := BitVec.ofInt 32 (cost i j c).1 }).raise { dsat := sat }

/-! ### The scale fold -/

/-- F after the fold of one cell (R89). -/
def foldCell (c : Cell) (ex : Int) : Cell :=
  let add : FVal := match c.sp with
    | .nan => .nan
    | .pinf => .inf false
    | .ninf => .inf true
    | .none => .fin (c.h.toInt < 0) c.h.toInt.natAbs ex
  { c with f := toF32 .rn (FVal.add .rn (f32 c.f) add), sp := .none }

def isInf32 (x : Word) : Bool := x.setWidth 31 == 0x7F800000#31
def isNan32 (x : Word) : Bool := 0x7F800000#31 < x.setWidth 31

/-- The first waiting sub-array is folded (R89, R90). -/
def Arr.fold (a : Arr) : Arr :=
  match a.folds with
  | [] => a
  | j :: rest =>
    let ex (i k : Nat) : Int := j.lam + ((j.sa.getD i 0).toNat : Int) - 127 + ((j.sb.getD k 0).toNat : Int) - 127
    let a1 := a.onSub j.sub fun i k c => foldCell c (ex i k)
    let fs := (subCells a.pack j.sub).map fun p => (a1.cells.get p.1 .init).f
    { a1.raise { inf := fs.any isInf32, nan := fs.any isNan32 } with folds := rest }

/-! ### Draining -/

/-- The bytes of a drained cell, and whether they are ±Inf, as a fold's result may be (R95, R101). (DEDUCED, log entry 16; unsafe.) -/
def drainCell (d : DFmt) (c : Cell) : List Byte × Bool :=
  match d with
  | .fp32 => (toBytes 4 c.f, isInf32 c.f)
  | .int32 => (toBytes 4 c.i, false)
  | .bf16 =>
    let x := fBf16.encode .rn (f32 c.f)
    (toBytes 2 (BitVec.ofNat 16 x), x % 32768 == 0x7F80)
  | .e4m3 => (toBytes 1 (BitVec.ofNat 8 (fE4m3.encode .rn (f32 c.f))), false)

/-! ### The queue -/

/-- The sub-array that SUB selects (R80). -/
def subOf (pack : BitVec 2) (sub : BitVec 4) : Nat := if pack = 0 then 0 else if pack = 1 then sub.toNat % 4 else sub.toNat

def Arr.waitsFold (a : Arr) (s : Nat) : Bool := a.folds.any (·.sub == s)

/-- The oldest queue entry of a sub-array, and the queue without it. -/
def takeFront (s : Nat) : List MxEntry → Option (MxEntry × List MxEntry)
  | [] => none
  | e :: t => if e.sub = s then some (e, t) else (takeFront s t).map fun r => (r.1, e :: r.2)

/-- The array's cells drained into the scratchpad, which lets the router read what an FNPUT waits for (R95, R234). -/
def Core.drain (c : Core) (s : Nat) (d : DFmt) (clr : Bool) (addr : Nat) : Core :=
  let cells := (subCells c.arr.pack s).map fun p => drainCell d (c.arr.cells.get p.1 .init)
  let c1 := (c.spadWrite addr (cells.flatMap (·.1)) false).readPuts
  let a1 := if clr then c1.arr.onSub s fun _ _ x => { x with i := 0, h := 0, f := 0 } else c1.arr
  { c1 with arr := a1.raise { inf := cells.any (·.2) } }

/-- Performs an MXZ or an MXDRN that stands first for its sub-array once its folds are done. An MXDRN waits until the router has read its
range for an earlier FNPUT (R234). -/
def Core.mxSettle (c : Core) : Nat → Nat → Core
  | 0, _ => c
  | n + 1, s =>
    if c.arr.waitsFold s then c
    else
      match takeFront s c.arr.queue with
      | none => c
      | some (e, rest) =>
        let c1 := { c with arr := { c.arr with queue := rest } }
        match e.work with
        | .z mode =>
          ({ c1 with arr := c1.arr.onSub s fun _ _ x => { x with i := initOf mode, h := 0, f := 0 } } : Core).mxSettle n s
        | .drn d clr addr =>
          if (e.ranges c.arr.pack).any fun r => c.putsHold e.puts r.1 r.2 then c else (c1.drain s d clr addr).mxSettle n s
        | .op _ _ _ _ _ _ _ => c

def Core.settlePass (c : Core) : Core := (List.range 16).foldl (fun c s => c.mxSettle 8 s) c

/-- What the array queue performs at once. A drain may free a range for the router and so a later drain, at most once per entry. -/
def Core.settleAll (c : Core) : Core :=
  if c.puts.isEmpty then c.settlePass else (List.range 8).foldl (fun c _ => c.settlePass) c.readPuts

/-- After E_MXDIV or a poisoned operand every queued matrix instruction is abandoned, and the array and the scratchpad
bytes of every abandoned MXDRN hold free values (R83, R372). -/
def State.arrayLost (s : State) (id : CoreId) : State :=
  let t := s.take
  let c := t.2.core id
  let free (i : Nat) : Word := Config.freeWord t.1 i
  let sp (w : Word) : Special := if w.toNat % 4 = 0 then .none else if w.toNat % 4 = 1 then .nan else if w.toNat % 4 = 2 then .pinf else .ninf
  let cells : Tab Cell := ⟨(List.range 1024).map fun k =>
    (k, { i := free (4 * k), h := free (4 * k + 1), f := free (4 * k + 2), sp := sp (free (4 * k + 3)) })⟩
  let drains := (c.arr.queue.map fun e => match e.work with
    | .drn _ _ _ => e.ranges c.arr.pack
    | _ => []).flatten
  let c1 := drains.foldl (fun c r =>
    c.spadWrite r.1 ((List.range r.2).map fun i => Config.freeByte t.1 (r.1 + i)) false) c
  (t.2.setCore id { c1 with arr := { c1.arr with
    pack := BitVec.ofNat 2 ((free 4096).toNat % 3), cells := cells, queue := [], folds := [] } }).putSweep id

/-- A matrix instruction stops its kernel because EXEC is not LMASK (R54, R83). -/
def State.mxDiv (s : State) (x : Ctx) : State := (s.kerr x 0x0201).arrayLost x.id

/-- An address operand fails the extent of the weight store or of the declared scratchpad (R75). -/
def Core.tileBad (c : Core) (ws : Bool) (addr len : Nat) : Bool :=
  0 < len && (if ws then 0x40000 else 64 * c.spadUnits.toNat) < addr + len

/-- An MXOP of no blocks (R78). -/
def MxEntry.noBlocks (e : MxEntry) : Bool :=
  match e.work with
  | .op _ _ _ _ _ _ left => left == 0
  | _ => false

/-- A matrix instruction that enters the array queue: the group waits with reason ARRAY while the queue is full (R79). An MXOP of no
blocks is complete once its checks have passed (R78). -/
def mxOp (g : GroupAt) (w : BitVec 64) (regs : List Nat) (act : Ctx → Code × MxEntry) (s : State) : State :=
  match s.issuer g w with
  | none => s
  | some x =>
    if 8 ≤ x.core.arr.queue.length then s.stall x 7
    else if x.gr.exec != x.gr.lmask then s.mxDiv x
    else if regs.any fun r => x.gr.spois.contains r then s.kerr x 0x0301
    else
      let r := act x
      if r.1 != 0 then s.kerr x r.1
      else
        let c := x.core
        if r.2.noBlocks then s.done x w c x.gr
        else
          (s.done x w ({ c with arr := { c.arr with queue := c.arr.queue ++ [{ r.2 with puts := c.putSerial }] } } : Core).settleAll
            x.gr).putSweep x.id

/-- MXPACK waits until the array is idle, and like every matrix instruction for room in the queue before it issues (R78, R79). -/
def mxpackOp (g : GroupAt) (f : XF) (s : State) : State :=
  let w := encX 0x01 f
  match s.issuer g w with
  | none => s
  | some x =>
    if 8 ≤ x.core.arr.queue.length then s.stall x 7
    else if x.gr.exec != x.gr.lmask then s.mxDiv x
    else if !x.core.arr.queue.isEmpty || !x.core.arr.folds.isEmpty then s.stall x 7
    else
      let p : BitVec 2 := match f.pack with
        | .p1 => 0
        | .p4 => 1
        | .p16 => 2
      s.done x w { x.core with arr := { x.core.arr with pack := p, cells := .empty } } x.gr

def execMxpack (g : GroupAt) (f : XF) (s : State) : Host.Outcome State Fault Refusal := .next (mxpackOp g f s)

def execMxz (g : GroupAt) (f : XF) (s : State) : Host.Outcome State Fault Refusal :=
  .next (mxOp g (encX 0x02 f) [] (fun x =>
    (0, { MxEntry.init with grp := x.g, pc := x.gr.pc, sub := subOf x.core.arr.pack f.sub, work := .z f.mode })) s)

/-- The checks of R75 on an MXOP: alignment of both tiles, then their extents. -/
def Ctx.mxopCode (x : Ctx) (f : XF) : Code :=
  let a := (x.gr.sreg f.sa.toNat).toNat
  let b := (x.gr.sreg f.sb.toNat).toNat
  let n := (x.gr.sreg f.sn.toNat).toNat
  let d := subDim x.core.arr.pack
  if a % 32 != 0 || b % 32 != 0 then 0x0202
  else if x.core.tileBad (!f.ascr) a (n * blockBytes f.mode f.afmt d) || x.core.tileBad false b (n * blockBytes f.mode f.bfmt d)
  then 0x0302 else 0

def execMxop (g : GroupAt) (f : XF) (s : State) : Host.Outcome State Fault Refusal :=
  .next (mxOp g (encX 0x03 f) [f.sa.toNat, f.sb.toNat, f.sn.toNat] (fun x =>
    (x.mxopCode f,
     { MxEntry.init with
       grp := x.g, pc := x.gr.pc, sub := subOf x.core.arr.pack f.sub,
       work := .op f.mode f.afmt f.bfmt f.ascr (x.gr.sreg f.sa.toNat).toNat (x.gr.sreg f.sb.toNat).toNat
         (x.gr.sreg f.sn.toNat).toNat })) s)

def execMxdrn (g : GroupAt) (f : XF) (s : State) : Host.Outcome State Fault Refusal :=
  .next (mxOp g (encX 0x04 f) [f.sb.toNat] (fun x =>
    let a := (x.gr.sreg f.sb.toNat).toNat
    let d := subDim x.core.arr.pack
    (if a % 32 != 0 then 0x0202 else if x.core.tileBad false a (d * d * drainBytes f.dfmt) then 0x0302 else 0,
     { MxEntry.init with grp := x.g, pc := x.gr.pc, sub := subOf x.core.arr.pack f.sub, work := .drn f.dfmt f.clr a })) s)

/-- MXSYNC holds the group until every matrix instruction it issued has completed, its blocks' folds among them (R78). One that finds the
queue full of whatever entries stalls before it issues (R79). (DEDUCED, log entry 16; unsafe.) -/
def mxsyncOp (g : GroupAt) (f : XF) (s : State) : State :=
  let w := encX 0x05 f
  match s.issuer g w with
  | none => s
  | some x =>
    if 8 ≤ x.core.arr.queue.length then s.stall x 7
    else if x.gr.exec != x.gr.lmask then s.mxDiv x
    else if x.core.arr.queue.any (·.grp == x.g) || x.core.arr.folds.any (·.grp == x.g) then s.stall x 7
    else s.done x w x.core x.gr

def execMxsync (g : GroupAt) (f : XF) (s : State) : Host.Outcome State Fault Refusal := .next (mxsyncOp g f s)

/-- Weight of a K step in MX_STEPS (R101). -/
def stepWeight (pack : BitVec 2) : Nat := if pack = 0 then 16 else if pack = 1 then 4 else 1

/-- The bytes of a tile block: from the core's weight store or its scratchpad (R75). -/
def State.tileBytes (s : State) (id : CoreId) (ws : Bool) (addr len : Nat) : List Byte :=
  if ws then s.ws.readBytes (262144 * id.toNat + addr) len else (s.core id).spadRead addr len

/-- K_BLOCK_END: the MXOP that stands first for a sub-array runs its next K block (R77, R89, R90). A poisoned scratchpad
operand stops the kernel at the MXOP (R372). An MXOP keeps its queue entry until its last block has run and gives it up before
the fold of that block; R79 says nothing of it. (DEDUCED, log entry 16; unsafe.) -/
def kBlock (id : CoreId) (sub : Nat) (s : State) : State :=
  let c := s.core id
  if !(s.clu (cluOf id)).runs || c.arr.waitsFold sub then s
  else
    match takeFront sub c.arr.queue with
    | none => s
    | some (e, rest) =>
      match e.work with
      | .op mode fa fb ascr aAddr bAddr left =>
        let d := subDim c.arr.pack
        let la := blockBytes mode fa d
        let lb := blockBytes mode fb d
        if left = 0 then s
        else if (ascr && c.spadPoisAt aAddr la) || c.spadPoisAt bAddr lb then
          (s.kernelError id e.grp e.pc 0x0301).arrayLost id
        else
          let ab := s.tileBytes id (!ascr) aAddr la
          let bb := s.tileBytes id false bAddr lb
          let e1 : MxEntry := { e with work := .op mode fa fb ascr (aAddr + la) (bAddr + lb) (left - 1), ran := e.ran + 1 }
          let q := if left = 1 then rest else e1 :: rest
          let a1 := c.arr.block e.grp sub mode fa fb ab bb
          let k := 32 * stepWeight c.arr.pack
          let c1 : Core := { c with arr := { a1 with queue := q, steps := a1.steps + BitVec.ofNat 64 k } }
          let s1 := ((s.setCore id c1.settleAll).putSweep id).count (cluOf id) 9 k
          { s1 with dg := { s1.dg with aoMx := s1.dg.aoMx + BitVec.ofNat 64 k } }
      | _ => s

def execKBlockEnd (core : CoreId) (sub : BitVec 4) (s : State) : Host.Outcome State Fault Refusal :=
  .next (kBlock core sub.toNat s)

/-- SCALE_FOLD: the first waiting sub-array of a core's array is folded (R90). -/
def execScaleFold (core : CoreId) (s : State) : Host.Outcome State Fault Refusal :=
  .next (if (s.clu (cluOf core)).runs && !(s.core core).arr.folds.isEmpty then
      (s.onCore core fun c => ({ c with arr := c.arr.fold } : Core).settleAll).putSweep core
    else s)

end Sys2Proof.Machine
end

