-- ==== Sys2Proof/Machine/Launch.lean ====
section
/-! DEFINITION. The start of a launch, shared by the LAUNCH packet and the PLACED node: the launch check (R131 to R135), the
instruction-cache space (R47, R133) and the argument block (R319). -/
namespace Sys2Proof.Machine

/-- What the launch check answers: it waits for a line, rejects with a REASON and an address, or passes the image. -/
inductive Checked where
  | wait
  | bad (reason pc : Nat)
  | ok (image : List (BitVec 64)) (s : State)

/-- The first word of the image that a row of R131 meets: its index and REASON. -/
def firstBad (a n : Nat) (ws : List (BitVec 64)) (pois : List Bool) : Option (Nat × Nat) :=
  (List.range ws.length).findSome? fun i =>
    if (List.range 8).any fun b => pois.getD (8 * i + b) false then some (i, 12)
    else (checkWord a i n (ws.getD i 0)).map fun r => (i, r)

/-- The row of R131 that word `i` of the code header meets: the entry's alignment and the first word, then the reserved words (R130). -/
def headerRow (entry i : Nat) (w : BitVec 64) : Option Nat :=
  let n := fieldN w 48 16
  if i = 0 then
    (if entry % 32 != 0 || lowW w != 0x54495331 || n = 0 || 4096 < n then some 1 else if fieldN w 32 16 != 1 then some 2 else none)
  else if w != 0 then some 1
  else none

/-- The REASON of the first word of the header, in ascending order, that a row of R131 meets. -/
def firstHeader (entry : Nat) (ws : List (BitVec 64)) (pois : List Bool) : Option Nat :=
  (List.range ws.length).findSome? fun i =>
    if (List.range 8).any fun b => pois.getD (8 * i + b) false then some 12 else headerRow entry i (ws.getD i 0)

/-- Words of 8 B. -/
def dwordsOf (bs : List Byte) (n : Nat) : List (BitVec 64) := (List.range n).map fun i => ofBytes 64 ((bs.drop (8 * i)).take 8)

/-- How many of `n` words of 8 B from an address translate under space 0 before the first that does not. -/
def State.wordsMapped (s : State) (a n : Nat) : Nat := ((List.range n).find? fun i => !s.openRange (a + 8 * i) 8).getD n

/-- The launch check of an image at entry `entry` with `a` allocated vector registers (R130, R131): each word of the header, then each
word of the image, in ascending address order. (DEDUCED, log entry 44; unsafe.) -/
def State.checkImage (s : State) (entry a : Nat) : Checked :=
  let hpc := (entry + 2 ^ 48 - 32) % 2 ^ 48
  if entry < 32 then .bad 11 hpc
  else
    let hk := s.wordsMapped (entry - 32) 4
    match s.vread 0 (entry - 32) (8 * hk) with
    | .wait => .wait
    | .fail _ _ => .bad 11 hpc
    | .ok h s1 =>
      let hw := dwordsOf h.data hk
      match firstHeader entry hw h.pois with
      | some r => .bad r hpc
      | none =>
        if hk < 4 then .bad 11 hpc
        else
          let n := fieldN (hw.getD 0 0) 48 16
          let k := s.wordsMapped entry n
          match s1.vread 0 entry (8 * k) with
          | .wait => .wait
          | .fail _ _ => .bad 11 entry
          | .ok b s2 =>
            let ws := dwordsOf b.data k
            match firstBad a n ws b.pois with
            | some (i, r) => .bad r (entry + 8 * i)
            | none => if k < n then .bad 11 (entry + 8 * k) else .ok ws s2

/-- The launch-check registers keep the first rejection until VALID is cleared (R135). -/
def State.recordReject (s : State) (q : QId) (reason pc : Nat) : State :=
  if s.fe.lchkV then s
  else { s with fe := { s.fe with lchkV := true, lchkReason := BitVec.ofNat 4 reason, lchkCode := reasonCode reason,
                                  lchkPc := BitVec.ofNat 48 pc, lchkQ := q, lchkAsid := 0 } }

/-- Shards that hold an instance of (LAYER, ROLE), in ascending core id (R361): index in the shard table and shard. -/
def insertCore (x : Nat × Shard) : List (Nat × Shard) → List (Nat × Shard)
  | [] => [x]
  | y :: t => if x.2.core < y.2.core then x :: y :: t else y :: insertCore x t

def State.placedShards (s : State) (layer role : Nat) : List (Nat × Shard) :=
  (((List.range s.eng.shards.length).zip s.eng.shards).filter fun x => x.2.holds layer role).foldl (fun l x => insertCore x l) []

/-- The clusters of a launch's core set. -/
def State.cluSet (s : State) (la : Launch) : List Clu :=
  if la.placed then dedupClu ((s.placedShards la.layer la.role).map fun x => cluOf x.2.core)
  else
    (List.range ((la.csbase + la.cscnt - 1) / 64 - la.csbase / 64 + 1)).map fun i => BitVec.ofNat 14 (la.csbase / 64 + i)

/-- Whether a launch holds an image in a cluster's instruction cache, that is, for as long as it runs (R47). -/
def State.launchOn (s : State) (la : Launch) (c : Clu) : Bool :=
  if la.placed then s.eng.shards.any fun x => cluOf x.core == c && x.holds la.layer la.role
  else la.csbase / 64 ≤ c.toNat && c.toNat ≤ (la.csbase + la.cscnt - 1) / 64

/-- Whether a node's fill takes space in a cluster's instruction cache (R133). -/
def State.fillOn (s : State) (f : NodeFill) (c : Clu) : Bool :=
  match s.eng.prog.bind fun g => g.nodes[f.node]? with
  | some n => s.eng.shards.any fun x => cluOf x.core == c && x.holds n.layer n.role
  | none => false

/-- Bytes of a cluster's 32 KiB instruction cache that the running launches and the fills of R133 take; the fill of node `own` apart. -/
def State.icacheUsed (s : State) (own : Option Nat) (c : Clu) : Nat :=
  (s.launches.vals.map fun la => if s.launchOn la c then 8 * la.image.length else 0).sum +
    (s.eng.fills.map fun f => if some f.node != own && s.fillOn f c then 8 * f.image.length else 0).sum

/-- A launch whose image does not fit in the space that the running launches leave waits (R133). -/
def State.imageFits (s : State) (la : Launch) (own : Option Nat) : Bool :=
  (s.cluSet la).all fun c => decide (s.icacheUsed own c + 8 * la.image.length ≤ 32768)

/-- The lines of a launch's header and image enter the L2 of each of its clusters as streaming fills; what can not be filled yet follows
(R192, R218). -/
def State.fillCaches (s : State) (la : Launch) : State :=
  (s.cluSet la).foldl (fun s k =>
    (s.setClu k { s.clu k with fillq := (s.clu k).fillq ++ linesOf (la.entry - 32) (32 + 8 * la.image.length) }).pumpFills k) s

/-- The allocation of R41 for `n` declared registers. -/
def regAlloc (n : Nat) : Nat := (n + 7) / 8 * 8

/-- The block of R38 and R41 and the SPAD of R318. -/
def blockOk (ngrp nthr vregs spad : Nat) : Bool :=
  1 ≤ ngrp && ngrp ≤ 16 && 1 ≤ nthr && nthr ≤ 512 && (nthr + 31) / 32 == ngrp && 1 ≤ vregs && vregs ≤ 256 &&
    ngrp ≤ min 16 (1024 / regAlloc vregs) && spad ≤ 1024

inductive Begun where
  | wait
  | reject (code : Code) (s : State)
  | ok (s : State)

/-- What the check and the fill of a launch's image answer (R131, R133). -/
inductive Filled where
  | wait
  | reject (code : Code) (s : State)
  | ok (image : List (BitVec 64)) (s : State)

/-- The check of a launch's image, a rejection recorded under R135, the wait for cache space, and the fill (R131 to R133, R218). -/
def State.fillImage (s : State) (la : Launch) : Filled :=
  match s.checkImage la.entry la.valloc with
  | .wait => .wait
  | .bad r pc => .reject (reasonCode r) (s.recordReject la.queue r pc)
  | .ok image s1 =>
    let la1 := { la with image := image }
    if s1.imageFits la1 none then .ok image (s1.fillCaches la1) else .wait

/-- The start of a launch: its image is checked and filled, unless a node's fill has done so (R133), and the argument block is
read once from `arg`, whose words 8 to 11 `inl` replaces (R319). (DEDUCED, log entry 44; unsafe.) -/
def State.begin (s : State) (la : Launch) (arg : Nat) (inl : Option (List Word)) : Begun :=
  match (match s.eng.fills.find? fun f => la.queue == 0xFFFF && f.node == la.node with
      | some f => Filled.ok f.image s
      | none => s.fillImage la) with
  | .wait => .wait
  | .reject c s1 => .reject c s1
  | .ok image s1 =>
    match s1.vread 0 arg 64 with
    | .wait => .wait
    | .fail c t => .reject c t
    | .ok b s2 =>
      if b.anyPois then .reject 0x0301 s2
      else
        let ws := wordsOf b.data 16
        let ws := match inl with
          | some l => ws.take 8 ++ l ++ ws.drop 12
          | none => ws
        let ids := ((List.range (s2.placedShards la.layer la.role).length).zip (s2.placedShards la.layer la.role)).map fun x =>
          (x.2.2.core, x.2.1)
        let la2 := { la with image := image, args := ws, binds := if la.placed then ids else [] }
        let fills := if la.queue == 0xFFFF then s2.eng.fills.filter (·.node != la.node) else s2.eng.fills
        .ok { s2 with launches := s2.launches.put s2.launchSerial la2, launchSerial := s2.launchSerial + 1,
                      eng := { s2.eng with fills := fills } }

end Sys2Proof.Machine
end

