-- ==== Sys2Proof/Machine/Check.lean ====
section
/-! DEFINITION. PACKET_CHECK: the checks of a fetched packet in the order of R310, with the layouts of R309, R313, R316, R318, R320
and R324 and the probes of R329. -/
namespace Sys2Proof.Machine

def allW : Word := 0xFFFFFFFF

/-- The words of a 48-bit address field that starts at word `i`. -/
def vaMask (i : Nat) : List (Nat × Word) := [(i, allW), (i + 1, 0xFFFF)]

/-- The fields that an opcode's layout names, as masks of words other than 0 and 2; none for a reserved opcode (R311). -/
def opLayout (op : Nat) : Option (List (Nat × Word)) :=
  match op with
  | 0x01 => some ([(1, 0xC0000000), (3, allW)] ++ vaMask 4 ++ vaMask 6 ++ [(8, allW), (9, allW)])
  | 0x02 => some ([(1, 0xC0000000), (3, allW)] ++ vaMask 4 ++ vaMask 6 ++ [(8, allW)])
  | 0x03 => some ([(1, 0xFFFFFFE0), (3, allW)] ++ vaMask 4 ++ vaMask 6 ++ [(8, 0xFFFFF), (9, 0x1FFFFF), (10, 0xFFFFFFF0),
      (11, 0x3FF), (12, allW), (13, allW), (14, allW), (15, allW)])
  | 0x04 => some ([(1, 0xE000FFFF)] ++ vaMask 4 ++ [(6, allW), (7, allW)])
  | 0x05 => some ([(1, 0xE000FFFF)] ++ vaMask 4 ++ [(6, allW), (7, allW)])
  | 0x06 => some []
  | 0x10 => some ([(1, 0xF01FFFFF)] ++ vaMask 4 ++ vaMask 6 ++ [(8, allW)])
  | 0x11 => some [(4, 0xFFFFFF)]
  | 0x12 => some [(4, 0xFFFFFF), (5, allW)]
  | 0x18 => some ([(1, 0xFFFF)] ++ vaMask 4 ++ [(6, allW)])
  | 0x19 => some ([(1, 0xFFFF)] ++ vaMask 4 ++ [(6, allW)])
  | 0x1A => some [(1, 0xFFFF)]
  | 0x1B => some [(1, 0xFFFF), (4, allW)]
  | 0x20 => some (vaMask 4)
  | 0x21 => some (vaMask 4)
  | 0x22 => some ([(1, 0xFFFF)] ++ vaMask 4)
  | 0x23 => some [(1, 0xFFFF)]
  | 0x24 => some ([(1, 0xF)] ++ vaMask 4 ++ [(6, 0x1FFFFF)])
  | _ => none

/-- Every bit that neither word 0's layout nor the opcode's names is 0 (R309, R310 step 5). -/
def Pkt.unusedZero (p : Pkt) : Bool :=
  let l := ((opLayout p.opcode).getD []) ++ [(0, 0xFF003FFF), (2, allW)]
  (List.range 16).all fun i =>
    let m := l.foldl (fun (a : Word) x => if x.1 = i then a ||| x.2 else a) 0
    p.w i &&& ~~~m == 0

/-- Opcodes that a user queue may carry, and XAS only on kernel queues (R310 step 4, R311, R320). -/
def Pkt.permitted (p : Pkt) (kernel : Bool) : Bool :=
  kernel || ((p.opcode == 1 || p.opcode == 2 || p.opcode == 4 || p.opcode == 5 || p.opcode == 6) &&
    !((p.opcode == 4 || p.opcode == 5) && p.f 1 29 1 == 1))

/-- Ranges overlap. -/
def rangesMeet (a n b m : Nat) : Bool := decide (a < b + m) && decide (b < a + n) && n != 0 && m != 0

/-- The ranges and alignments of each opcode's fields (R310 step 6). -/
def Pkt.fieldsOk (p : Pkt) : Bool :=
  match p.opcode with
  | 0x01 =>
    let kind := p.f 1 30 2
    kind != 3 && (kind = 2 || p.va 4 % 32 == 0) && (kind != 2 || p.va 4 == 0) &&
      (if kind = 1 then p.w 3 == 0 && p.va 6 % 4 == 0 && decide (1 ≤ (p.w 8).toNat) && decide ((p.w 8).toNat ≤ 16777215)
       else p.va 6 == 0 && p.w 8 == 0 && p.w 9 == 0)
  | 0x02 =>
    let n := (p.w 3).toNat
    let mode := p.f 1 30 2
    mode < 2 && decide (p.va 6 + n ≤ 2 ^ 48) &&
      (if mode = 1 then p.va 4 == 0
       else p.w 8 == 0 && decide (p.va 4 + n ≤ 2 ^ 48) && !rangesMeet (p.va 4) n (p.va 6) n)
  | 0x03 =>
    blockOk (p.f 1 25 5) (p.f 11 0 10) (p.f 1 16 9) (p.f 1 5 11) && p.va 6 % 64 == 0 && 1 ≤ p.f 10 16 16 &&
      (if p.f 1 31 1 = 1 then p.w 3 == 0 && p.w 8 == 0 && p.w 9 == 0
       else
         p.f 10 4 12 == 0 && decide (1 ≤ (p.w 3).toNat) && decide ((p.w 3).toNat ≤ 16777216) && 1 ≤ p.f 9 0 21 &&
           decide (p.f 8 0 20 + p.f 9 0 21 ≤ 1048576))
  | 0x04 => p.f 1 30 2 != 3 && p.va 4 % 8 == 0 && (p.f 1 29 1 = 1 || p.f 1 0 16 == 0)
  | 0x05 => p.f 1 30 2 != 3 && p.va 4 % 8 == 0 && (p.f 1 29 1 = 1 || p.f 1 0 16 == 0)
  | 0x10 => 6 ≤ p.f 1 16 5 && p.f 1 16 5 ≤ 16 && p.va 4 % 4096 == 0 && p.va 6 % 4096 == 0
  | 0x18 => p.f 1 0 16 != 0
  | 0x19 => decide (1 ≤ (p.w 6).toNat) && decide ((p.w 6).toNat ≤ 16777215)
  | 0x20 => p.va 4 % 4096 == 0
  | 0x21 => p.va 4 % 64 == 0
  | 0x22 => p.f 1 0 16 != 0 && p.va 4 % 64 == 0
  | 0x24 => 1 ≤ p.f 6 0 21 && p.f 6 0 21 ≤ 1048576 && p.va 4 % 8 == 0
  | _ => true

/-- The space that a WAIT or SIGNAL translates FENCE under (R320, R328). -/
def Pkt.fenceSpace (p : Pkt) : Asid := if p.f 1 29 1 = 1 then bits (p.w 1) 0 16 else p.asid

/-- The probe of a code header and of the image that it gives (R329): an entry below 32, or a header whose NINSTR is out of
range, is left to the launch check. -/
def State.probeImage (s : State) (entry : Nat) : Acc Unit :=
  if entry < 32 then .ok () s
  else
    (s.vread 0 (entry - 32) 32).bind fun h s =>
      let n := fieldN (wordAt (wordsOf h.data 8) 1) 16 16
      if n = 0 || 4096 < n then .ok () s else s.probe 0 entry (8 * n) false

/-- The probes of a packet that names a structure whose head gives the extent of the rest: `n` bytes are read, and `more` gives the further
range from them (R329). What a malformed or poisoned head gives is left to the checks of step 9. (DEDUCED, log entry 37; unsafe.) -/
def State.probeHead (s : State) (a : Asid) (va n : Nat) (more : List Word → Option (Nat × Nat)) : Acc Unit :=
  (s.vread a va n).bind fun h s =>
    match (if h.anyPois then none else more (wordsOf h.data (n / 4))) with
    | some r => s.probe a r.1 r.2 false
    | none => .ok () s

/-- The rest of a model image, after a header of R106. -/
def imageRest (va : Nat) (w : List Word) : Option (Nat × Nat) :=
  if wordAt w 0 == 0x4C4D4C47 && fieldN (wordAt w 1) 0 16 == 1 then some (va, (dwordAt w 4).toNat) else none

/-- The node array after a step-program header (R111). -/
def nodesRest (va : Nat) (w : List Word) : Option (Nat × Nat) :=
  if fieldN (wordAt w 0) 0 16 ≤ 4095 then some (va + 64, 32 * fieldN (wordAt w 0) 0 16) else none

/-- The entry list that a reduction descriptor names (R230). -/
def entriesRest (w : List Word) : Option (Nat × Nat) :=
  let d : Desc := { Desc.init with words := w }
  some (d.list, 16 * d.nent)

/-- The probes of R329. -/
def State.probePkt (s : State) (p : Pkt) : Acc Unit :=
  match p.opcode with
  | 0x01 =>
    let kind := p.f 1 30 2
    if kind = 2 then .ok () s
    else
      (s.probe p.asid (p.va 4) 32 true).bind fun _ s =>
        if kind = 1 then s.probe p.asid (p.va 6) (4 * (p.w 8).toNat) false else .ok () s
  | 0x02 =>
    let n := (p.w 3).toNat
    (if p.f 1 30 2 = 1 then Acc.ok () s else s.probe p.asid (p.va 4) n false).bind fun _ s => s.probe p.asid (p.va 6) n true
  | 0x03 => (s.probe p.asid (p.va 6) 64 false).bind fun _ s => s.probeImage (p.va 4)
  | 0x04 => s.probe p.fenceSpace (p.va 4) 8 false
  | 0x05 => s.probe p.fenceSpace (p.va 4) 8 true
  | 0x18 => s.probe 0 (p.va 4) 4096 false
  | 0x19 => s.probe 0 (p.va 4) (16 * (p.w 6).toNat) false
  | 0x20 => s.probeHead p.asid (p.va 4) 4096 (imageRest (p.va 4))
  | 0x21 => s.probeHead p.asid (p.va 4) 64 (nodesRest (p.va 4))
  | 0x22 => s.probeHead p.asid (p.va 4) 64 entriesRest
  | 0x24 => s.probe p.asid (p.va 4) (8 * p.f 6 0 21) false
  | _ => .ok () s

/-- A free launch's core set touches an excluded floe (R34, R310 step 8). -/
def State.namesExcluded (s : State) (p : Pkt) : Bool :=
  p.opcode == 3 && p.f 1 31 1 == 0 &&
    (List.range ((p.f 8 0 20 + p.f 9 0 21 - 1) / 8192 - p.f 8 0 20 / 8192 + 1)).any fun i =>
      s.excluded (BitVec.ofNat 7 (p.f 8 0 20 / 8192 + i))

/-- Steps 1 to 8 of R310: the code of the first row that applies, 0 when none does. -/
def State.checkPkt (s : State) (q : QId) (p : Pkt) : Acc Code :=
  if p.pois then .ok 0x0301 s
  else if bits (p.w 0) 8 4 != (s.queue q).ver then .ok 0x0102 s
  else if (opLayout p.opcode).isNone then .ok 0x0101 s
  else if !p.permitted (isKernelQ q) then .ok 0x0103 s
  else if p.f 0 24 8 != 4 || !p.unusedZero then .ok 0x0104 s
  else if !p.fieldsOk then .ok 0x0104 s
  else
    match s.probePkt p with
    | .wait => .wait
    | .fail _ t => .ok 0x0302 t
    | .ok _ s1 => .ok (if s1.namesExcluded p then 0x0502 else 0) s1

/-- The RESULT of a STEP's reply is its SEPOCH and SEQ; that of a JOIN without a sequence is 0 (R332). (DEDUCED, log entry 37; unsafe.) -/
def Pkt.seqResult (p : Pkt) : Word := if p.opcode = 1 && p.f 1 30 2 != 1 then p.w 3 else 0

/-- A packet is rejected, or ends with a code of its own: it completes at once (R310). -/
def State.reject (s : State) (q : QId) (p : Pkt) (code : Code) : State := s.finishPkt q p.serial code 0 0 p.seqResult

/-- PACKET_CHECK of the oldest unchecked packet of a queue. Packets fetched after a MODEL_LOAD are held (R107). -/
def packetCheckOp (q : QId) (s : State) : State :=
  let x := s.queue q
  if s.inHold || !s.pw.on || s.fe.rstBusy then s
  else
    match x.pkts.find? fun p => p.st == .fetched && x.runs p && !s.heldPkt p with
    | none => s
    | some p =>
      match s.checkPkt q p with
      | .wait => s
      | .fail _ _ => s
      | .ok c s1 =>
        if c != 0 then s1.reject q p c
        else
          let y := s1.queue q
          s1.setQueue q { y with pkts := y.pkts.map fun z => if z.serial = p.serial then { z with st := .accepted } else z }

def execPacketCheck (q : QId) (s : State) : Host.Outcome State Fault Refusal := .next (packetCheckOp q s)

end Sys2Proof.Machine
end

