-- ==== Sys2Proof/Machine/Packets.lean ====
section
/-! DEFINITION. The hot-path packets: STEP (R313 to R315), COPY (R316, R317), LAUNCH (R318, R319), WAIT and SIGNAL (R320 to R322) and
NOP (R323), each from its start. -/
namespace Sys2Proof.Machine

/-- FE_MODEL_STAT.STATE as a packet fetched before a load under way meets it (R107). -/
def State.modelState (s : State) : BitVec 4 :=
  match s.eng.load with
  | some l => if s.eng.mphase.toNat ≤ 2 then l.prev else s.eng.mst
  | none => s.eng.mst

def State.modelReady (s : State) : Bool := s.modelState == 2

/-- The live sequence that SEQ and SEPOCH name in a space (R314). -/
def Engine.findSeq (e : Engine) (a : Asid) (id : BitVec 24) (ep : BitVec 8) : Option (Nat × Seq) :=
  e.seqs.entries.find? fun x => x.2.asid == a && x.2.id == id && x.2.ep == ep

/-- Inserts a STEP in fetch order (R315). -/
def insertStep (x : PStep) : List PStep → List PStep
  | [] => [x]
  | y :: t => if x.serial < y.serial then x :: y :: t else y :: insertStep x t

/-- A STEP waits for the next step boundary, among the others in fetch order (R314, R315). -/
def State.pendStep (s : State) (q : QId) (p : Pkt) (prompt : List (BitVec 24)) : State :=
  let x : PStep := { queue := q, serial := p.serial, kind := bits (p.w 1) 30 2, asid := p.asid, id := bits (p.w 3) 0 24,
                     ep := bits (p.w 3) 24 8, out := p.va 4, prompt := prompt, seed := p.w 9 }
  let s1 := s.startPkt q p.serial
  { s1 with eng := { s1.eng with psteps := insertStep x s1.eng.psteps } }

/-- STEP: the state conditions of R314 and R355; an accepted STEP waits for a boundary. (DEDUCED, log entry 41; unsafe.) -/
def stepOp (q : QId) (s : State) : State :=
  match s.starting q 0x01 with
  | none => s
  | some p =>
    let kind := p.f 1 30 2
    if s.modelState == 3 then s.reject q p 0x0301
    else if s.modelState != 2 || (s.eng.prog.isNone && s.eng.nextProg.isNone) then s.reject q p 0x0104
    else if kind != 1 then
      (if (s.eng.findSeq p.asid (bits (p.w 3) 0 24) (bits (p.w 3) 24 8)).isNone then s.reject q p 0x0104 else s.pendStep q p [])
    else if 130552 < (p.w 8).toNat then s.reject q p 0x0104
    else
      match s.vread p.asid (p.va 6) (4 * (p.w 8).toNat) with
      | .wait => s
      | .fail c t => t.reject q p c
      | .ok b s1 =>
        let toks := (wordsOf b.data (p.w 8).toNat).map fun w => bits w 0 24
        if b.anyPois then s1.reject q p 0x0301
        else if toks.any fun t => s1.eng.vocab ≤ t.toNat then s1.reject q p 0x0104
        else s1.pendStep q p toks

def execStep (q : QId) (s : State) : Host.Outcome State Fault Refusal := .next (stepOp q s)

/-- COPY: the whole range, poison with its words, performed before it completes (R316, R317, R372). -/
def copyOp (q : QId) (s : State) : State :=
  match s.starting q 0x02 with
  | none => s
  | some p =>
    let n := (p.w 3).toNat
    if n = 0 then s.finish q p.serial 0
    else
      let src : Acc Bytes :=
        if p.f 1 30 2 = 1 then
          .ok ⟨(List.range n).map fun i => (p.w 8).extractLsb' (8 * (i % 4)) 8, List.replicate n false⟩ s
        else s.vread p.asid (p.va 4) n
      match src with
      | .wait => s
      | .fail c t => t.finish q p.serial c
      | .ok b s1 =>
        match s1.vput State.copyRange p.asid (p.va 6) b.data b.pois with
        | .wait => s
        | .fail c t => t.finish q p.serial c
        | .ok _ s2 => s2.finish q p.serial (if b.anyPois then 0x0301 else 0)

def execCopy (q : QId) (s : State) : Host.Outcome State Fault Refusal := .next (copyOp q s)

/-- The launch that a LAUNCH packet describes (R318). -/
def Pkt.launch (p : Pkt) (q : QId) : Launch :=
  let placed := p.f 1 31 1 == 1
  { Launch.init with
    queue := q, serial := p.serial, placed := placed, bim := p.f 1 30 1 == 1, ngrp := p.f 1 25 5, nthr := p.f 11 0 10,
    valloc := regAlloc (p.f 1 16 9), spad := p.f 1 5 11, entry := p.va 4, bound := p.f 10 16 16, ntile := (p.w 3).toNat,
    csbase := p.f 8 0 20, cscnt := p.f 9 0 21, layer := p.f 10 8 8, role := p.f 10 4 4 }

/-- LAUNCH: a placed one needs an instance of a READY model; then the launch check and the argument block (R319). Its reply
waits for the launch's end. -/
def launchOp (q : QId) (s : State) : State :=
  match s.starting q 0x03 with
  | none => s
  | some p =>
    let la := p.launch q
    if la.placed && (!s.modelReady || (s.placedShards la.layer la.role).isEmpty) then s.finish q p.serial 0x0104
    else
      match s.begin la (p.va 6) (some [p.w 12, p.w 13, p.w 14, p.w 15]) with
      | .wait => s
      | .reject c s1 => s1.finish q p.serial c
      | .ok s1 => s1.startPkt q p.serial

def execLaunch (q : QId) (s : State) : Host.Outcome State Fault Refusal := .next (launchOp q s)

/-! ### WAIT and SIGNAL -/

/-- COND of R320 against VALUE, unsigned. -/
def Pkt.meets (p : Pkt) (v : BitVec 64) : Bool :=
  let ref := dwordAt p.words 6
  match p.f 1 30 2 with
  | 0 => decide (ref.toNat ≤ v.toNat)
  | 1 => v == ref
  | _ => v != ref

/-- One read of FENCE by a WAIT: it completes when the word meets COND or is delivered poisoned, and otherwise keeps the
value read (R321). -/
def State.waitRead (s : State) (q : QId) (p : Pkt) : State :=
  match s.vread p.fenceSpace (p.va 4) 8 with
  | .wait => s
  | .fail c t => t.finish q p.serial c
  | .ok b s1 =>
    let v : BitVec 64 := ofBytes 64 b.data
    if b.anyPois then s1.finish q p.serial 0x0301
    else if p.meets v then s1.finishPkt q p.serial 0 0 0 (v.setWidth 32)
    else
      let x := s1.queue q
      s1.setQueue q { x with pkts := x.pkts.map fun y => if y.serial = p.serial then { y with last := v } else y }

/-- WAIT starts with a read of FENCE (R321). -/
def waitOp (q : QId) (s : State) : State :=
  match s.starting q 0x04 with
  | none => s
  | some p => (s.startPkt q p.serial).waitRead q p

def execWait (q : QId) (s : State) : Host.Outcome State Fault Refusal := .next (waitOp q s)

/-- The WAITs of a queue that have started and not completed: at most one in each epoch. -/
def Queue.waits (x : Queue) : List Pkt := x.pkts.filter fun p => p.st == .started && p.opcode == 4

/-- WAIT_POLL: the fence is read again (R321). -/
def waitPollOp (q : QId) (s : State) : State :=
  if s.inHold || s.fe.rstBusy then s else (s.queue q).waits.foldl (fun s p => s.waitRead q p) s

def execWaitPoll (q : QId) (s : State) : Host.Outcome State Fault Refusal := .next (waitPollOp q s)

/-- WAIT_TIMEOUT: E_WAITTO with the last value read, and the queue is FAILED: no later packet starts or replies (R322). The
WAIT of a destroyed queue fails no queue. (DEDUCED, log entry 39; unsafe.) -/
def waitTimeoutOp (q : QId) (s : State) : State :=
  let x := s.queue q
  match x.waits.find? fun p => decide (p.start.toNat + 1000 * p.wlim.toNat ≤ s.tb.now.toNat) with
  | none => s
  | some p =>
    if s.inHold || s.fe.rstBusy then s
    else
      let s1 := s.finishPkt q p.serial 0x0106 0 0 (p.last.setWidth 32)
      if p.ep != x.ep then s1
      else
        let y := s1.queue q
        s1.setQueue q { y with st := .failed, code := 0x0106,
                               pkts := y.pkts.filter fun z => z.ep != y.ep || z.serial ≤ p.serial }

def execWaitTimeout (q : QId) (s : State) : Host.Outcome State Fault Refusal := .next (waitTimeoutOp q s)

/-- The HBM offset of a WAIT's or SIGNAL's fence. -/
def State.fenceAt (s : State) (p : Pkt) : Option Nat :=
  ((s.pieces p.fenceSpace (p.va 4) 8 false).val.bind List.head?).map (·.1)

/-- Every WAIT that names the line of a SIGNAL reads its fence again (R321). -/
def State.rereadWaits (s : State) (off : Nat) : State :=
  s.queues.keys.foldl (fun s k =>
    let q : QId := BitVec.ofNat 16 k
    (s.queue q).waits.foldl (fun s p => if (s.fenceAt p).map (· / 128) == some (off / 128) then s.waitRead q p else s) s) s

/-- SET, ADD and MAX (R321). -/
def Pkt.signalled (p : Pkt) (old : BitVec 64) : BitVec 64 :=
  let v := dwordAt p.words 6
  match p.f 1 30 2 with
  | 0 => v
  | 1 => old + v
  | _ => if old.toNat < v.toNat then v else old

/-- SIGNAL: one 8 B .uc atomic on FENCE; a poisoned old value writes nothing (R321). -/
def signalOp (q : QId) (s : State) : State :=
  match s.starting q 0x05 with
  | none => s
  | some p =>
    match s.vread p.fenceSpace (p.va 4) 8 with
    | .wait => s
    | .fail c t => t.finish q p.serial c
    | .ok b s1 =>
      if b.anyPois then s1.finish q p.serial 0x0301
      else
        match s1.vwrite p.fenceSpace (p.va 4) (toBytes 8 (p.signalled (ofBytes 64 b.data))) [] with
        | .wait => s
        | .fail c t => t.finish q p.serial c
        | .ok _ s2 =>
          let s3 := s2.finish q p.serial 0
          match s3.fenceAt p with
          | some off => s3.rereadWaits off
          | none => s3

def execSignal (q : QId) (s : State) : Host.Outcome State Fault Refusal := .next (signalOp q s)

/-- NOP completes when it starts (R323). -/
def nopOp (q : QId) (s : State) : State :=
  match s.starting q 0x06 with
  | none => s
  | some p => s.finish q p.serial 0

def execNop (q : QId) (s : State) : Host.Outcome State Fault Refusal := .next (nopOp q s)

end Sys2Proof.Machine
end

