-- ==== Sys2Proof/Machine/Cold.lean ====
section
/-! DEFINITION. The cold-path packets other than MODEL_LOAD (R324, R325): queues, address spaces and their page tables (R338 to R346),
quotas (R352), step programs (R111 to R113), reduction descriptors (R230 to R233, R268, R471) and forward windows. -/
namespace Sys2Proof.Machine

/-! ### Queues -/

/-- The wait limit that a WLIMIT field gives (R324). -/
def waitLimit (w : Word) : Word := if w = 0 then 1000000 else w

/-- The ring and the reply page translate under a space. -/
def State.ringOk (s : State) (a : Asid) (rbase rply rlog : Nat) : Acc Unit :=
  (s.probe a rbase (64 * 2 ^ rlog) false).bind fun _ s => s.probe a rply 4096 true

/-- QUEUE_CREATE takes the lowest FREE user queue id (R325). -/
def queueCreateOp (q : QId) (s : State) : State :=
  match s.starting q 0x10 with
  | none => s
  | some p =>
    let a : Asid := bits (p.w 1) 0 16
    if p.f 1 28 4 != 1 then s.finish q p.serial 0x0102
    else if !s.spaces.has a.toNat then s.finish q p.serial 0x0104
    else
      match s.ringOk a (p.va 4) (p.va 6) (p.f 1 16 5) with
      | .wait => s
      | .fail c t => t.finish q p.serial c
      | .ok _ s1 =>
        match (List.range 0x4000).find? fun k => (s1.queue (BitVec.ofNat 16 k)).st == .free with
        | none => s1.finish q p.serial 0x0105
        | some k =>
          let id : QId := BitVec.ofNat 16 k
          let x := s1.queue id
          let s2 := s1.setQueue id
            { x with st := .active, code := 0, ver := 1, asid := a, rlog := p.f 1 16 5, rbase := p.va 4, rply := p.va 6,
                     wptr := 0, rptr := 0, done := 0, latch := false, fcount := 0, fhead := 0, gapTop := false,
                     head := none, underrun := false, gap := false, wlim := waitLimit (p.w 8) }
          s2.finishPkt q p.serial 0 0 0 (fld 16 x.ep ||| fld 0 id)

def execQueueCreate (q : QId) (s : State) : Host.Outcome State Fault Refusal := .next (queueCreateOp q s)

/-- The queue that QID and QEPOCH name: not FREE, and with that epoch (R325). -/
def State.namedQueue (s : State) (p : Pkt) : Option QId :=
  let id : QId := bits (p.w 4) 0 16
  let x := s.queue id
  if x.st != .free && x.ep == bits (p.w 4) 16 8 then some id else none

/-- QUEUE_DESTROY of a user queue (R325). -/
def queueDestroyOp (q : QId) (s : State) : State :=
  match s.starting q 0x11 with
  | none => s
  | some p =>
    match s.namedQueue p with
    | none => s.finish q p.serial 0x0104
    | some id => if isUserQ id then (s.endQueue id).finish q p.serial 0 else s.finish q p.serial 0x0104

def execQueueDestroy (q : QId) (s : State) : Host.Outcome State Fault Refusal := .next (queueDestroyOp q s)

/-- QUEUE_LIMIT sets the limit of later WAITs (R366). -/
def queueLimitOp (q : QId) (s : State) : State :=
  match s.starting q 0x12 with
  | none => s
  | some p =>
    match s.namedQueue p with
    | none => s.finish q p.serial 0x0104
    | some id => (s.setQueue id { s.queue id with wlim := waitLimit (p.w 5) }).finish q p.serial 0

def execQueueLimit (q : QId) (s : State) : Host.Outcome State Fault Refusal := .next (queueLimitOp q s)

/-! ### Address spaces -/

/-- AS_CREATE (R324, R338): an ASID in use is E_RANGE (R325). -/
def asCreateOp (q : QId) (s : State) : State :=
  match s.starting q 0x18 with
  | none => s
  | some p =>
    let a := p.f 1 0 16
    if s.spaces.has a then s.finish q p.serial 0x0104
    else
      let x : Space := { Space.init with root := BitVec.ofNat 48 (p.va 4), quota := p.w 6 }
      ({ s with spaces := s.spaces.put a x }).finish q p.serial 0

def execAsCreate (q : QId) (s : State) : Host.Outcome State Fault Refusal := .next (asCreateOp q s)

/-- A packet's addresses are translated under a space: its queue's, or that of a WAIT's or SIGNAL's fence (R328). -/
def Pkt.probes (p : Pkt) (a : Asid) : Bool := p.asid == a || ((p.opcode == 4 || p.opcode == 5) && p.fenceSpace == a)

/-- No packet of the space lies between its probe and its completion (R330). -/
def State.quiet (s : State) (a : Asid) : Bool :=
  s.queues.vals.all fun x => x.pkts.all fun p => !p.probes a || p.st == .fetched || p.st == .done

def State.dropXc (s : State) (a : Asid) : State := { s with fe := { s.fe with xc := s.fe.xc.filter (·.asid != a) } }

/-- AS_DESTROY (R325, R339). -/
def asDestroyOp (q : QId) (s : State) : State :=
  match s.starting q 0x1A with
  | none => s
  | some p =>
    let a : Asid := bits (p.w 1) 0 16
    if a = 0 || !s.spaces.has a.toNat || s.queuesOf a != 0 || s.seqsOf a != 0 then s.finish q p.serial 0x0104
    else if !s.quiet a then s
    else ({ s.dropXc a with spaces := s.spaces.del a.toNat }).finish q p.serial 0

def execAsDestroy (q : QId) (s : State) : Host.Outcome State Fault Refusal := .next (asDestroyOp q s)

/-- An entry of the edit list (R345). -/
structure Edit where
  level : Nat
  va : Nat
  entry : BitVec 64
  rsvd : Bool

def editsOf (bs : List Byte) (n : Nat) : List Edit :=
  (List.range n).map fun i =>
    let w := wordsOf (bs.drop (16 * i)) 4
    { level := fieldN (wordAt w 0) 0 2, va := fieldN (wordAt w 0) 16 16 * 65536 + 2 ^ 32 * fieldN (wordAt w 1) 0 16,
      entry := dwordAt w 2, rsvd := fieldN (wordAt w 0) 2 14 != 0 || fieldN (wordAt w 1) 16 16 != 0 }

/-- The offset of the level's entry for VA, through valid pointers above it (R346). A table in the closed golden region does not
translate (R349). A poisoned entry is data that a cold-path packet reads (R372). (DEDUCED, log entry 43; unsafe.) -/
def State.entryAt : Nat → State → Nat → Nat → Nat → Acc Nat
  | 0, s, l, tab, va => if s.openRange tab (tableSize l) then .ok (tab + 8 * levelIndex l va) s else .fail 0x0302 s
  | k + 1, s, l, tab, va =>
    if !s.openRange tab (tableSize l) then .fail 0x0302 s
    else
      (s.takeRange (tab + 8 * levelIndex l va) 8).bind fun b s =>
        let e : BitVec 64 := ofBytes 64 b.data
        if b.anyPois then .fail 0x0301 s
        else if !pteValid e || pteLeaf e || !s.pteOk l e then .fail 0x0104 s
        else entryAt k s (l + 1) (pteAddr e) va

/-- One edit: its checks (R346), then the entry written by a .uc store. -/
def State.edit (s : State) (root : Nat) (x : Edit) : Acc Unit :=
  if x.rsvd || x.va % levelSpan x.level != 0 || pteRsvd x.entry || (pteValid x.entry && !s.pteOk x.level x.entry) then
    .fail 0x0104 s
  else
    (s.entryAt x.level 0 root x.va).bind fun off s =>
      if s.rangeRests off 8 then .ok () (s.writeRange off (toBytes 8 x.entry) []) else .wait

/-- The translation of a page by a walk, without the cache. -/
def State.walked (s : State) (root va : Nat) : Option (Nat × Bool) :=
  ((s.walkFrom 4 0 root va).val).map fun r => (r.1 + va % r.2.1, r.2.2)

/-- A walk of one of the pages waits for a line. -/
def State.walksWait (s : State) (root : Nat) (vas : List Nat) : Bool := vas.any fun v => (s.walkFrom 4 0 root v).waits

/-- The 64 KiB pages of the rings and reply pages of a space's live queues (R325). -/
def State.queuePages (s : State) (a : Asid) : List Nat :=
  ((s.queues.vals.filter fun x => x.asid == a && x.st != .free).map fun x =>
    ((List.range ((x.rbase % 65536 + 64 * 2 ^ x.rlog + 65535) / 65536)).map fun i => x.rbase / 65536 * 65536 + 65536 * i) ++
      [x.rply / 65536 * 65536]).flatten

/-- AS_EDIT: the whole list is checked as if applied in order, and is written only when every entry passes (R345, R346);
then the space's cache entries are dropped (R344). -/
def asEditOp (q : QId) (s : State) : State :=
  match s.starting q 0x19 with
  | none => s
  | some p =>
    let a : Asid := bits (p.w 1) 0 16
    match s.spaces.get? a.toNat with
    | none => s.finish q p.serial 0x0104
    | some sp =>
      if a = 0 then s.finish q p.serial 0x0104
      else
        match s.vread 0 (p.va 4) (16 * (p.w 6).toNat) with
        | .wait => s
        | .fail c t => t.finish q p.serial c
        | .ok b s1 =>
          if b.anyPois then s1.finish q p.serial 0x0301
          else
            match (editsOf b.data (p.w 6).toNat).foldl (fun (r : Acc Unit) e => r.bind fun _ t => t.edit sp.root.toNat e)
                (.ok () s1) with
            | .wait => s
            | .fail c _ => s1.finish q p.serial c
            | .ok _ s2 =>
              if s1.walksWait sp.root.toNat (s1.queuePages a) || s2.walksWait sp.root.toNat (s1.queuePages a) then s
              else if (s1.queuePages a).any fun v => s1.walked sp.root.toNat v != s2.walked sp.root.toNat v then s1.finish q p.serial 0x0104
              else if !s.quiet a then s
              else (s2.dropXc a).finish q p.serial 0

def execAsEdit (q : QId) (s : State) : Host.Outcome State Fault Refusal := .next (asEditOp q s)

/-- KV_QUOTA; space 0 may be named (R352). -/
def kvQuotaOp (q : QId) (s : State) : State :=
  match s.starting q 0x1B with
  | none => s
  | some p =>
    match s.spaces.get? (p.f 1 0 16) with
    | none => s.finish q p.serial 0x0104
    | some x => ({ s with spaces := s.spaces.put (p.f 1 0 16) { x with quota := p.w 4 } }).finish q p.serial 0

def execKvQuota (q : QId) (s : State) : Host.Outcome State Fault Refusal := .next (kvQuotaOp q s)

/-! ### Step programs -/

/-- A node of R113. -/
def nodeOf (ws : List Word) : Node :=
  let f (i lo n : Nat) : Nat := fieldN (wordAt ws i) lo n
  { kind := bits (wordAt ws 0) 28 4, pred0 := bits (wordAt ws 0) 0 12, pred1 := bits (wordAt ws 0) 12 12,
    layer := f 1 24 8, role := f 1 20 4, bim := f 1 19 1 == 1, desc := bits (wordAt ws 1) 0 16,
    code := f 2 0 32 + 2 ^ 32 * f 3 0 16, arg := f 4 0 32 + 2 ^ 32 * f 5 0 16, bound := f 6 16 16, vregs := f 6 7 9,
    ngrp := f 6 0 5, nthr := f 7 22 10, spad := f 7 10 11,
    rsvd := f 0 24 4 != 0 || f 1 16 3 != 0 || f 3 16 16 != 0 || f 5 16 16 != 0 || f 6 5 2 != 0 || f 7 21 1 != 0 || f 7 0 10 != 0 }

def Node.placed (n : Node) : Bool := n.kind == 2

/-- REDUCE, SELECT, VERIFY and DRAFT name a descriptor (R113). -/
def Node.names (n : Node) : Bool := n.kind == 3 || n.kind == 4 || n.kind == 5 || n.kind == 6

def kindKnown (k : BitVec 4) : Bool := (1 ≤ k.toNat && k.toNat ≤ 7) || k == 0xF

/-- A node's fields (R112, R113): the launch fields of a PLACED node within the bounds of LAUNCH, DESC, CODE and BOUND 0 where the
node has none, and predecessors of lower index. VREGS, NGRP and NTHR bind PLACED nodes. (DEDUCED, log entry 42; unsafe.) -/
def State.nodeOk (s : State) (i : Nat) (n : Node) : Bool :=
  !n.rsvd && kindKnown n.kind &&
    (n.pred0 == 0xFFF || n.pred0.toNat < i) && (n.pred1 == 0xFFF || n.pred1.toNat < i) &&
    (n.names || n.desc == 0) &&
    (if n.placed then
      blockOk n.ngrp n.nthr n.vregs n.spad && 1 ≤ n.bound && !(s.placedShards n.layer n.role).isEmpty
     else n.code == 0 && n.bound == 0) &&
    (!n.names || s.descs.has n.desc.toNat)

/-- Columns of the largest sequence (R112). -/
def State.widest (s : State) (tree : Nat) : Nat :=
  if tree = 1 then 1 else (s.eng.shapes.map (·.nodes.length)).foldl max 0

/-- PROG_LOAD: the header of R111 and the nodes; the program waits for the next boundary (R112, R325). -/
def progLoadOp (q : QId) (s : State) : State :=
  match s.starting q 0x21 with
  | none => s
  | some p =>
    if !s.modelReady then s.finish q p.serial 0x0104
    else
      match s.vread p.asid (p.va 4) 64 with
      | .wait => s
      | .fail c t => t.finish q p.serial c
      | .ok h s1 =>
        let w := wordsOf h.data 16
        let n := fieldN (wordAt w 0) 0 16
        let maxseq := fieldN (wordAt w 0) 16 16
        let tree := fieldN (wordAt w 1) 0 8
        let pcol := fieldN (wordAt w 1) 8 8
        let coltab := (dwordAt w 2).toNat
        if h.anyPois then s1.finish q p.serial 0x0301
        else if n = 0 || 4095 < n then s1.finish q p.serial 0x0104
        else
          match s1.vread p.asid (p.va 4 + 64) (32 * n) with
          | .wait => s
          | .fail c t => t.finish q p.serial c
          | .ok b s2 =>
            if b.anyPois then s2.finish q p.serial 0x0301
            else
              let nodes := (List.range n).map fun i => nodeOf (wordsOf (b.data.drop (32 * i)) 8)
              let ok := 1 ≤ maxseq && maxseq ≤ 1024 && tree ≤ 1 && 1 ≤ pcol && pcol ≤ 32 && fieldN (wordAt w 1) 16 16 == 0 &&
                (w.drop 4).all (· == 0) && coltab < 2 ^ 48 && maxseq * max pcol (s2.widest tree) ≤ 1024 &&
                (List.range n).all fun i => s2.nodeOk i (nodes.getD i .init)
              if !ok then s2.finish q p.serial 0x0104
              else
                let g : Prog := { nodes := nodes, maxseq := maxseq, tree := tree, pcol := pcol, coltab := coltab, asid := p.asid }
                ({ s2 with eng := { s2.eng with nextProg := some g } }).finish q p.serial 0

def execProgLoad (q : QId) (s : State) : Host.Outcome State Fault Refusal := .next (progLoadOp q s)

/-! ### Reduction descriptors -/

/-- INFMT and OUTFMT that R227 allows for OP. -/
def opFormats (op inf outf : Nat) : Bool :=
  match op with
  | 0 => inf ≤ 1 && (outf = 0 || outf = 1 || outf = 4)
  | 1 => inf = 2 && outf = 2
  | 2 => inf ≤ 2 && (if inf = 2 then outf = 2 else outf = 0)
  | 3 => inf ≤ 2 && (if inf = 2 then outf = 2 else outf = 0)
  | 4 => (inf = 3 || inf = 4) && outf = 3
  | 5 => (inf = 3 || inf = 4) && outf = 3
  | 6 => inf = 5 && outf = 2
  | 7 => inf = 5 && outf = 2
  | _ => false

/-- The reserved bits of the 64 B descriptor (R230). -/
def descRsvd (ws : List Word) : Bool :=
  fieldN (wordAt ws 0) 0 10 != 0 || fieldN (wordAt ws 1) 0 5 != 0 || fieldN (wordAt ws 6) 16 16 != 0 ||
    fieldN (wordAt ws 7) 24 8 != 0 || fieldN (wordAt ws 8) 20 12 != 0 || fieldN (wordAt ws 9) 15 17 != 0 ||
    fieldN (wordAt ws 10) 0 16 != 0 || (List.range 5).any fun i => wordAt ws (11 + i) != 0

/-- The layout of R230, with every field that its KIND, DELIV or ROOTX does not use at 0. -/
def Desc.fieldsOk (d : Desc) : Bool :=
  let list := d.kind != 1
  !descRsvd d.words && d.kind ≤ 2 &&
    (d.isShard || (d.layer == 0 && d.role == 0)) && (d.deliv = 1 || d.fslot == 0) && (d.rootx = 1 || d.comp == 0) &&
    (d.rootx = 2 || (d.eps == 0 && d.inv == 0)) &&
    (list || (d.list == 0 && d.nent == 0 && d.rootCore == 0 && d.rootMod == 0)) && (!list || 1 ≤ d.nent) &&
    ((d.kind = 0 && d.deliv = 1) || d.blkBase == 0) &&
    (if d.isBarrier then
      d.op = 8 && !d.ao && d.infmt = 0 && d.outfmt = 0 && d.deliv = 0 && !d.watch && !d.bkchk && d.rootx = 0 && d.rows = 0 && d.cols = 0
     else
      opFormats d.op d.infmt d.outfmt && d.deliv ≤ 2 && d.rootx ≤ 3 && 1 ≤ d.rows && d.rows ≤ 16384 && 1 ≤ d.cols && d.cols ≤ 1024 &&
        d.rows * d.cols * inSize d.infmt ≤ 65536 && (d.outfmt != 4 || (d.cols ≤ 32 && d.rows % 32 == 0)) &&
        (!d.isShard || d.layer ≤ 254) && (d.rootx != 3 || (d.deliv = 2 && d.rows = 1)))

/-- An entry of R231 as its words give it: none when a reserved bit is set or ALL breaks its conditions. -/
def dentryOf (ws : List Word) : Option (DEntry × Bool) :=
  let all := bitAt (wordAt ws 0) 29
  let e : DEntry :=
    { c := bitAt (wordAt ws 0) 31, r := bitAt (wordAt ws 0) 30, core := bits (wordAt ws 0) 0 20, mod_ := bits (wordAt ws 1) 0 15,
      b := bitAt (wordAt ws 2) 31, bcore := bits (wordAt ws 2) 0 20, bmod := bits (wordAt ws 3) 0 15 }
  if fieldN (wordAt ws 0) 20 9 != 0 || fieldN (wordAt ws 1) 15 17 != 0 || fieldN (wordAt ws 2) 20 11 != 0 ||
      fieldN (wordAt ws 3) 15 17 != 0 || (all && (e.b || e.core != 0)) then none
  else some (e, all)

/-- The usable cores of a module in ascending id; for another module, every core (R231). -/
def State.usableCores (s : State) (m : ModId) : List CoreId :=
  (((List.range 128).filter fun f => m != s.mid || !s.excluded (BitVec.ofNat 7 f)).map fun f =>
    (List.range 8192).map fun i => BitVec.ofNat 20 (8192 * f + i)).flatten

/-- The list with ALL entries written out, or none when an entry breaks R231. -/
def State.entriesOf (s : State) (bs : List Byte) (n : Nat) : Option (List DEntry) :=
  (List.range n).foldl (fun acc i =>
    match acc, dentryOf (wordsOf (bs.drop (16 * i)) 4) with
    | some l, some (e, all) => some (l ++ (if all then (s.usableCores e.mod_).map fun c => { e with core := c } else [e]))
    | _, _ => none) (some [])

/-- The cores that a list names, as CORE or as BCORE. -/
def namedCores (l : List DEntry) : List (CoreId × ModId) :=
  (l.map fun e => (e.core, e.mod_) :: (if e.b then [(e.bcore, e.bmod)] else [])).flatten

/-- Whether a list has no repeats. -/
def distinctL {α : Type} [BEq α] : List α → Bool
  | [] => true
  | x :: t => !t.contains x && distinctL t

/-- A core of this module on an excluded floe (R34, R233). -/
def State.descExcluded (s : State) (d : Desc) : Bool :=
  if d.isShard then false
  else
    (namedCores d.entries).any (fun x => x.2 == s.mid && s.excluded (floeOf x.1)) ||
      (d.rootMod == s.mid && s.excluded (floeOf d.rootCore))

/-- COMP of a SCALE descriptor (R233). -/
def State.compOk (s : State) (d : Desc) : Bool :=
  d.rootx != 1 ||
    match s.descs.get? d.comp.toNat with
    | some c => c.owner == d.owner && c.rows == 1 && c.cols == d.cols && c.outfmt == 0
    | none => false

/-- Every router that a descriptor uses has the entry and the result memory that R471 reserves. -/
def State.routersHold (s : State) (d : Desc) : Bool :=
  ((s.rowgs d).map fun g => s.allRouters d g).flatten.all fun c => decide (s.dtab c ≤ 4096) && decide (s.resultMem c ≤ 16384)

/-- DESC_SET (R230 to R233): one that names other modules stays pending until every one has confirmed (R268). (DEDUCED, log entry 42; unsafe.) -/
def descSetOp (q : QId) (s : State) : State :=
  match s.starting q 0x22 with
  | none => s
  | some p =>
    let id : DescId := bits (p.w 1) 0 16
    (
      match s.vread p.asid (p.va 4) 64 with
      | .wait => s
      | .fail c t => t.finish q p.serial c
      | .ok b s1 =>
        let d0 : Desc := { Desc.init with owner := p.asid, words := wordsOf b.data 16, setQ := q, setSerial := p.serial, setAt := s.tb.now }
        if b.anyPois then s1.finish q p.serial 0x0301
        else if !d0.fieldsOk || s1.descs.has id.toNat || (d0.isShard && !s1.modelReady) then s1.finish q p.serial 0x0104
        else
          match s1.vread p.asid d0.list (16 * d0.nent) with
          | .wait => s
          | .fail c t => t.finish q p.serial c
          | .ok l s2 =>
            if l.anyPois then s2.finish q p.serial 0x0301
            else
              match s2.entriesOf l.data d0.nent with
              | none => s2.finish q p.serial 0x0104
              | some es =>
                let d := { d0 with entries := es, digest := ofBytes 384 (sha384 (b.data ++ l.data)),
                                   rootEp := s2.descEp.get id.toNat 0 }
                let others := s2.otherMods d
                let d := { d with pend := !others.isEmpty }
                let s3 := s2.setDesc id d
                if !distinctL (namedCores es) then s2.finish q p.serial 0x0104
                else if s2.descExcluded d then s2.finish q p.serial 0x0502
                else if !s2.compOk d then s2.finish q p.serial 0x0104
                else if !s3.routersHold d then s2.finish q p.serial 0x0105
                else if others.isEmpty then s3.finish q p.serial 0
                else others.foldl (fun s m => s.sendMgmt m id d false) (s3.startPkt q p.serial))

def execDescSet (q : QId) (s : State) : Host.Outcome State Fault Refusal := .next (descSetOp q s)

/-- A step program in effect, or accepted and waiting for a boundary, names the id (R233). -/
def Prog.namesDesc (g : Prog) (id : DescId) : Bool := g.nodes.any fun n => n.names && n.desc == id

def State.progNames (s : State) (id : DescId) : Bool :=
  (match s.eng.prog with
    | some g => g.namesDesc id
    | none => false) ||
  (match s.eng.nextProg with
    | some g => g.namesDesc id
    | none => false)

/-- The id is free and its EPOCH advances (R236). -/
def State.dropDesc (s : State) (id : DescId) : State :=
  { s with descs := s.descs.del id.toNat, descEp := s.descEp.put id.toNat (s.descEp.get id.toNat 0 + 1) }

/-- DESC_RELEASE (R233). One of a descriptor that is still pending (R268) is rejected too. (DEDUCED, log entry 42; unsafe.) -/
def descReleaseOp (q : QId) (s : State) : State :=
  match s.starting q 0x23 with
  | none => s
  | some p =>
    let id : DescId := bits (p.w 1) 0 16
    match s.descs.get? id.toNat with
    | none => s.finish q p.serial 0x0104
    | some d =>
      if s.progNames id || (s.descs.vals.any fun x => x.rootx == 1 && x.comp == id) || s.roundOpen id d || d.pend then
        s.finish q p.serial 0x0104
      else (s.dropDesc id).finish q p.serial 0

def execDescRelease (q : QId) (s : State) : Host.Outcome State Fault Refusal := .next (descReleaseOp q s)

/-- An entry of a forward-window list: core, NBLK and KBLK0 (R324). -/
def fwinEntries (bs : List Byte) (n : Nat) : List (List Word) := (List.range n).map fun i => wordsOf (bs.drop (8 * i)) 2

def State.putWindow (s : State) (slot : Nat) (w : List Word) : State :=
  let c : CoreId := bits (wordAt w 0) 0 20
  let r := s.rtr (cluOf c)
  let k := 64 * slot + c.toNat % 64
  let n : BitVec 8 := bits (wordAt w 1) 16 8
  let t := if n = 0 then r.fwin.del k else r.fwin.put k ⟨true, n, bits (wordAt w 1) 0 16⟩
  s.setRtr (cluOf c) { r with fwin := t }

/-- FWIN_SET: every entry is checked before a window changes; NBLK 0 clears (R324, R325, R471). -/
def fwinSetOp (q : QId) (s : State) : State :=
  match s.starting q 0x24 with
  | none => s
  | some p =>
    let slot := p.f 1 0 4
    match s.vread p.asid (p.va 4) (8 * p.f 6 0 21) with
    | .wait => s
    | .fail c t => t.finish q p.serial c
    | .ok b s1 =>
      let es := fwinEntries b.data (p.f 6 0 21)
      let s2 := es.foldl (fun s w => s.putWindow slot w) s1
      if b.anyPois then s1.finish q p.serial 0x0301
      else if es.any fun w => fieldN (wordAt w 0) 20 12 != 0 || fieldN (wordAt w 1) 24 8 != 0 then s1.finish q p.serial 0x0104
      else if es.any fun w => s1.excluded (floeOf (bits (wordAt w 0) 0 20)) then s1.finish q p.serial 0x0502
      else if !((s2.descs.vals.filter fun d => d.deliv == 1 && d.fslot == slot).all s2.routersHold) then s1.finish q p.serial 0x0105
      else s2.finish q p.serial 0

def execFwinSet (q : QId) (s : State) : Host.Outcome State Fault Refusal := .next (fwinSetOp q s)

end Sys2Proof.Machine
end

