-- ==== Sys2Proof/Machine/Model.lean ====
section
/-! DEFINITION. The model load (R103 to R110, R119, R125, R128, R347 to R350): MODEL_LOAD and its phases CHECK with END, GOLDEN, WRITE
and READY. -/
namespace Sys2Proof.Machine

/-! ### Sequences and the KV pool -/

/-- A sequence ends (R353): its id's epoch advances, its record is free, and the pages of all its units return to its space. -/
def State.endSeq (s : State) (rec_ : Nat) : State :=
  match s.eng.seqs.get? rec_ with
  | none => s
  | some x =>
    let pages := x.units.length * s.eng.nlayers
    let sp := match s.spaces.get? x.asid.toNat with
      | some y => s.spaces.put x.asid.toNat { y with used := y.used - pages }
      | none => s.spaces
    { s with spaces := sp,
             eng := { s.eng with seqs := s.eng.seqs.del rec_, seqEp := s.eng.seqEp.put x.id.toNat (x.ep + 1) } }

/-- The reply word of a sequence (R332). -/
def Seq.word (x : Seq) : Word := place 32 24 x.ep ||| place 32 0 x.id

/-- A pending STEP completes. -/
def State.finishStep (s : State) (q : QId) (serial : Nat) (code : Code) (stat ntok : BitVec 4) (x : Word) : State :=
  let s1 := s.finishPkt q serial code stat ntok x
  { s1 with eng := { s1.eng with psteps := s1.eng.psteps.filter (·.serial != serial) } }

def PStep.word (p : PStep) : Word := if p.kind = 1 then 0 else place 32 24 p.ep ||| place 32 0 p.id

/-! ### The image -/

def fmtOfNat (n : Nat) : Fmt :=
  match n with
  | 0 => .mxfp4
  | 1 => .mxint8
  | 2 => .e4m3
  | 3 => .e5m2
  | 4 => .int8
  | 5 => .uint8
  | 6 => .int16
  | _ => .bf16

/-- A shard descriptor (R104). -/
def shardOf (ws : List Word) : Shard :=
  let f (i lo n : Nat) : Nat := fieldN (wordAt ws i) lo n
  { core := bits (wordAt ws 0) 0 20, len := f 1 18 14, wsoff := f 1 0 18, src := f 2 0 32 + 2 ^ 32 * f 3 0 16, layer0 := f 4 24 8,
    nlayer := f 4 16 8, role := f 4 12 4, fmt := f 4 8 4, rows := f 4 6 2, rowg := bits (wordAt ws 5) 16 16, kblk0 := f 5 0 16,
    nblk := f 6 24 8, stride := f 6 10 14, crc := wordAt ws 7,
    rsvd := f 0 20 12 != 0 || f 3 16 16 != 0 || f 4 0 6 != 0 || f 6 0 10 != 0 }

/-- The weight-store offset of instance `i`, and its offset in the image. -/
def Shard.wsAt (x : Shard) (i : Nat) : Nat := x.wsoff + 32 * i * (if x.nlayer = 1 then 0 else x.stride)
def Shard.srcAt (x : Shard) (i : Nat) : Nat := x.src + 32 * i * x.len

/-- The instance of a layer. -/
def Shard.instOf (x : Shard) (layer : Nat) : Nat := if x.layer0 = 0xFF then 0 else layer - x.layer0

/-- The E_RANGE conditions of R105 on one descriptor. -/
def Shard.ok (x : Shard) (len : Nat) : Bool :=
  !x.rsvd && 1 ≤ x.len && x.len ≤ 8192 && x.wsoff % 32 == 0 && x.src % 32 == 0 && 1 ≤ x.nlayer && x.fmt ≤ 7 && x.rows ≤ 2 && 1 ≤ x.nblk &&
    (if x.layer0 = 0xFF then x.nlayer == 1 else x.layer0 + x.nlayer ≤ 255) &&
    x.len * 32 == x.nblk * blockBytes .mma (fmtOfNat x.fmt) (32 / 2 ^ x.rows) &&
    (List.range x.nlayer).all fun i => x.wsAt i + 32 * x.len ≤ 262144 && x.srcAt i + 32 * x.len ≤ len

/-- The layers of a shard. -/
def Shard.layers (x : Shard) : List Nat := (List.range x.nlayer).map fun i => if x.layer0 = 0xFF then 0xFF else x.layer0 + i

/-- Two instances that overlap in the weight store, or share layer and role, on one core (R105). -/
def shardsClash (x y : Shard) : Bool :=
  x.core == y.core &&
    ((x.role == y.role && x.layers.any y.layers.contains) ||
      (List.range x.nlayer).any fun i => (List.range y.nlayer).any fun j => rangesMeet (x.wsAt i) (32 * x.len) (y.wsAt j) (32 * y.len))

def Shard.selfClash (x : Shard) : Bool :=
  (List.range x.nlayer).any fun i => (List.range i).any fun j => rangesMeet (x.wsAt i) (32 * x.len) (x.wsAt j) (32 * x.len)

def shardsOk : List Shard → Nat → Bool
  | [], _ => true
  | x :: t, len => x.ok len && !x.selfClash && t.all (fun y => !shardsClash x y) && shardsOk t len

/-- A tree shape of 128 B: its nodes, or none when R119 rejects it. -/
def shapeOf (bs : List Byte) (ndraft : Nat) : Option Shape :=
  let w (j : Nat) : BitVec 16 := ofBytes 16 ((bs.drop (2 * j)).take 2)
  let count := (bs.getD 64 0).toNat
  let nodes := (List.range count).map fun j => (fieldN (w j) 11 5, fieldN (w j) 8 3)
  let step (acc : Option (List Nat)) (j : Nat) : Option (List Nat) :=
    acc.bind fun ds =>
      let n := nodes.getD j (0, 0)
      if j = 0 then (if n = (0, 0) then some [0] else none)
      else if j ≤ n.1 then none
      else
        let d := ds.getD n.1 0 + 1
        if ndraft < d || ((List.range j).any fun k => k != 0 && nodes.getD k (0, 0) == n) then none else some (ds ++ [d])
  if count = 0 || 32 < count || ((List.range 32).any fun j => fieldN (w j) 0 8 != 0 || (count ≤ j && w j != 0)) ||
      (bs.drop 65).any (· != 0) then none
  else ((List.range count).foldl step (some [])).map fun _ => ⟨nodes⟩

/-- The library, when every shape passes. -/
def shapesOf (bs : List Byte) (n ndraft : Nat) : Option (List Shape) :=
  (List.range n).foldl (fun acc i =>
    match acc, shapeOf ((bs.drop (128 * i)).take 128) ndraft with
    | some l, some x => some (l ++ [x])
    | _, _ => none) (some [])

/-- The start of the golden region for an image length (R349); none when it does not fit. -/
def goldStart (cap len : Nat) : Option Nat :=
  let g := (len + 2097151) / 2097152 * 2097152
  if cap < 2 * g then none else some (cap - 2 * g)

/-- The pool conditions of R350. -/
def State.poolOk (s : State) (nlayers image len gold : Nat) : Bool :=
  let base := s.fe.kvpBase.toNat
  let n := 65536 * s.fe.kvpNpage.toNat
  decide (2048 + 1025 * nlayers ≤ s.fe.kvpNpage.toNat) && decide (base + n ≤ s.capacity) && !rangesMeet base n image len &&
    !rangesMeet base n gold (s.capacity - gold) && !rangesMeet image len gold (s.capacity - gold)

/-- The header fields of R106, after MAGIC and VERSION. -/
def headerOk (h : List Byte) : Bool :=
  let n (o k : Nat) : Nat := natOfBytes ((h.drop o).take k)
  n 6 2 = 0 && n 39 1 = 0 && n 44 4 = 0 && (h.drop 112).all (· == 0) && 4096 ≤ n 16 8 && 1 ≤ n 36 1 && n 36 1 ≤ 254 && n 37 1 ≤ 7 &&
    1 ≤ n 38 1 && n 38 1 ≤ 16 && 2 ≤ n 40 4 && n 40 4 ≤ 16777216 && n 24 8 % 32 = 0 && n 48 8 % 32 = 0 && n 56 8 % 32 = 0 &&
    n 24 8 + 32 * n 32 4 ≤ n 16 8 && n 48 8 + 128 * n 38 1 ≤ n 16 8 && n 56 8 + 57 ≤ n 16 8

/-- The contents of a checked image. -/
structure Checkout where
  code : Code
  load : Load

/-- CHECK of R107, in its order, on an image of which `h` is the header and `b` the whole. -/
def State.checkBody (s : State) (l : Load) (h : List Byte) (b : Bytes) : Checkout :=
  let n (o k : Nat) : Nat := natOfBytes ((h.drop o).take k)
  let len := n 16 8
  let dig := (h.drop 64).take 48
  let shards := (List.range (n 32 4)).map fun i => shardOf (wordsOf (b.data.drop (n 24 8 + 32 * i)) 8)
  let shapes := shapesOf (b.data.drop (n 48 8)) (n 38 1) (n 37 1)
  let sel := ((b.data.drop (n 56 8)).take 57).map (·.toNat)
  let load : Load :=
    { l with len := len, modelId := ofBytes 64 ((h.drop 8).take 8), dig := ofBytes 384 dig, nlayers := n 36 1, ndraft := n 37 1,
             vocab := n 40 4, shards := shards, shapes := shapes.getD [], sel := sel }
  let code : Code :=
    if b.anyPois then 0x0301
    else if sha384 (b.data.take 64 ++ List.replicate 48 0#8 ++ b.data.drop 112) != dig then 0x0104
    else if !shardsOk shards len then 0x0104
    else if shards.any fun x => s.excluded (floeOf x.core) then 0x0502
    else if shapes.isNone || sel.any fun x => n 38 1 ≤ x then 0x0104
    else 0
  ⟨code, load⟩

/-- The whole CHECK. -/
def State.checkModel (s : State) (l : Load) : Acc Checkout :=
  (s.vread 0 l.image 4096).bind fun hb s =>
    let h := hb.data
    let n (o k : Nat) : Nat := natOfBytes ((h.drop o).take k)
    let bad (c : Code) : Acc Checkout := .ok ⟨c, l⟩ s
    if hb.anyPois then bad 0x0301
    else if n 0 4 != 0x4C4D4C47 then bad 0x0104
    else if n 4 2 != 1 then bad 0x0102
    else if !headerOk h then bad 0x0104
    else
      match goldStart s.capacity (n 16 8) with
      | none => bad 0x0104
      | some g =>
        if !s.poolOk (n 36 1) l.image (n 16 8) g then bad 0x0104
        else
          match s.vread 0 l.image (n 16 8) with
          | .wait => .wait
          | .fail c t => .ok ⟨c, l⟩ t
          | .ok b s1 => .ok (s1.checkBody l h b) s1

/-! ### The phases -/

/-- MODEL_LOAD starts in DRAIN (R107). -/
def modelLoadOp (q : QId) (s : State) : State :=
  match s.starting q 0x20 with
  | none => s
  | some p =>
    let s1 := s.startPkt q p.serial
    { s1 with eng := { s1.eng with
        mst := 1, mphase := 1,
        load := some { Load.init with queue := q, serial := p.serial, image := p.va 4, prev := s.eng.mst } } }

def execModelLoad (q : QId) (s : State) : Host.Outcome State Fault Refusal := .next (modelLoadOp q s)

/-- DRAIN ends once every packet fetched before MODEL_LOAD has completed and nothing that had started still runs (R107, R366). -/
def State.drained? (s : State) (l : Load) : Bool :=
  (s.queues.vals.all fun x => x.pkts.all fun p => l.serial ≤ p.serial || p.st == .done || !x.runs p) && s.launches.size = 0 && s.eng.sst == 0

/-- A load that fails in phase 1 or 2 leaves everything as it was (R107). -/
def State.loadFailed (s : State) (l : Load) (code : Code) : State :=
  ({ s with eng := { s.eng with mst := l.prev, mcode := code, load := none } }).finish l.queue l.serial code

/-- STEPs that wait when STATE becomes UNUSABLE complete with E_POISON, and so does a JOIN in progress outside the running batch (R109).
(DEDUCED, log entry 56; unsafe.) -/
def State.refuseSteps (s : State) : State :=
  let s1 := s.eng.psteps.foldl (fun s p => s.finishStep p.queue p.serial 0x0301 0 0 p.word) s
  s1.eng.seqs.entries.foldl (fun s e =>
    if e.2.joining && !(s.eng.batch.any (·.rec_ == e.1)) then
      let s1 := s.finishPkt e.2.joinQ e.2.joinSerial 0x0301 0 0 e.2.word
      { s1 with eng := { s1.eng with seqs := s1.eng.seqs.put e.1 { e.2 with joining := false } } }
    else s) s1

/-- END (R107): sequences end, the step program is unloaded, and SHARD descriptors and forward windows are released (R232). -/
def State.endModel (s : State) : State :=
  let s1 := s.eng.seqs.entries.foldl (fun s e =>
    (if e.2.joining then s.finishPkt e.2.joinQ e.2.joinSerial 0x0104 0 0 e.2.word else s).endSeq e.1) s
  let s2 := (s1.eng.psteps.filter (·.kind != 1)).foldl (fun s p => s.finishStep p.queue p.serial 0x0104 0 0 p.word) s1
  let s3 := (s2.descs.entries.filter (·.2.isShard)).foldl (fun s e => s.dropDesc (BitVec.ofNat 16 e.1)) s2
  { s3 with eng := { s3.eng with prog := none, nextProg := none }, rtrs := s3.rtrs.mapVals fun r => { r with fwin := .empty } }

/-- CHECK, and on success END (R107). -/
def checkOp (s : State) : State :=
  match s.eng.load with
  | none => s
  | some l =>
    if s.inHold || s.fe.rstBusy || s.eng.mphase != 1 || !s.drained? l then s
    else
      match s.checkModel l with
      | .wait => s
      | .fail c t => ({ t with eng := { t.eng with mphase := 2 } }).loadFailed l c
      | .ok r s1 =>
        let s2 := { s1 with eng := { s1.eng with mphase := 2 } }
        if r.code != 0 then s2.loadFailed l r.code
        else
          let s3 := s2.endModel
          { s3 with eng := { s3.eng with mphase := 3, load := some r.load } }

def execCheck (s : State) : Host.Outcome State Fault Refusal := .next (checkOp s)

/-- A load that ends UNUSABLE replies with E_POISON (R109). -/
def State.unusable (s : State) (l : Load) : State :=
  ({ s with eng := { s.eng with mst := 3, mcode := 0x0301, load := none, units := 0, prog := none, nextProg := none } }).finish
    l.queue l.serial 0x0301

/-- The half of the panel of a line's home (R30). -/
def State.eastLine (s : State) (line : Nat) : Bool := 64 ≤ (s.locOf line).floe.toNat

/-- A line for copy 1 of each line of copy 0: the lowest unused one whose home is in the other half (R108). (DESIGN CHOICE, log entry 48; unsafe.) -/
def State.pickCopies (s : State) : List Nat → List Nat → List Nat
  | [], _ => []
  | x :: t, avail =>
    let y := (avail.find? fun a => s.eastLine a != s.eastLine x).getD (avail.headD x)
    y :: pickCopies s t (avail.erase y)

/-- A firmware write of a line. -/
def State.fwLine (s : State) (line : Nat) (bs : List Byte) : State :=
  s.hostStore line (BitVec.allOnes 128) ⟨ofBytes 1024 bs, 0⟩

/-- GOLDEN: the region of the new image closes, MODEL_ID and DIGEST change (R128, R349), and both copies are written from the
image (R108); a poisoned word of it ends the load UNUSABLE (R109). -/
def goldenOp (s : State) : State :=
  match s.eng.load with
  | none => s
  | some l =>
    if s.inHold || s.fe.rstBusy || s.eng.mphase != 3 then s
    else
      let base := (goldStart s.capacity l.len).getD 0
      let n := ceilDiv l.len 128
      let c0 := (List.range n).map (base / 128 + ·)
      let c1 := s.pickCopies c0 ((List.range (s.capacity / 128 - (base / 128 + n))).map (base / 128 + n + ·))
      if !(s.rangeRests l.image l.len) || !((c0 ++ c1).all s.lineRests) then s
      else
        let r := s.readRange l.image l.len
        let s1 := { r.2 with eng := { r.2.eng with
          mphase := 4, modelId := l.modelId, dig := l.dig, imgLen := l.len, goldV := true, goldBase := base, gold0 := c0, gold1 := c1,
          shards := l.shards, shapes := l.shapes, sel := l.sel, nlayers := l.nlayers, ndraft := l.ndraft, vocab := l.vocab } }
        if r.1.anyPois then s1.unusable l
        else
          (List.range n).foldl (fun s i =>
            let bs := (r.1.data.drop (128 * i)).take 128
            (s.fwLine (c0.getD i 0) bs).fwLine (c1.getD i 0) bs) s1

def execGolden (s : State) : Host.Outcome State Fault Refusal := .next (goldenOp s)

/-- Bytes `[o, o + n)` of the image from a list of golden lines. -/
def State.goldBytes (s : State) (lines : List Nat) (o n : Nat) : Bytes × State :=
  let idx := linesOf o n
  let r := idx.foldl (fun (a : List (Nat × LineVal) × State) i =>
    let v := a.2.hostLine (lines.getD i 0); (a.1 ++ [(i, v.1)], v.2)) ([], s)
  let val (i : Nat) : LineVal := lookL r.1 ((o + i) / 128) ⟨0, 0⟩
  (⟨(List.range n).map fun i => (val i).data.extractLsb' (8 * ((o + i) % 128)) 8,
    (List.range n).map fun i => (val i).pois.getLsbD ((o + i) % 128 / 4)⟩, r.2)

/-- The bytes of all instances of a shard, in instance order. -/
def State.shardBytes (s : State) (lines : List Nat) (x : Shard) : Bytes × State :=
  (List.range x.nlayer).foldl (fun (a : Bytes × State) i =>
    let r := a.2.goldBytes lines (x.srcAt i) (32 * x.len)
    (⟨a.1.data ++ r.1.data, a.1.pois ++ r.1.pois⟩, r.2)) (⟨[], []⟩, s)

/-- Writes the instances of a shard into its core's weight store. -/
def Shard.put (x : Shard) (ws : Memory) (bs : List Byte) : Memory :=
  (List.range x.nlayer).foldl (fun m i =>
    m.writeBytes (x.core.toNat * 262144 + x.wsAt i) ((bs.drop (32 * x.len * i)).take (32 * x.len))) ws

/-- One shard of phase 5: copy 0, on a CRC mismatch copy 1; false when the load must end (R109, R325). -/
def State.writeShard (s : State) (x : Shard) : State × Bool :=
  let a := s.shardBytes s.eng.gold0 x
  if a.1.anyPois then (a.2, false)
  else if crc32c a.1.data == x.crc then ({ a.2 with ws := x.put a.2.ws a.1.data }, true)
  else
    let b := a.2.shardBytes s.eng.gold1 x
    if b.1.anyPois || crc32c b.1.data != x.crc then (b.2, false) else ({ b.2 with ws := x.put b.2.ws b.1.data }, true)

/-- A weight-store byte that some instance covers. -/
def covered (shards : List Shard) (a : Nat) : Bool :=
  shards.any fun x => x.core.toNat == a / 262144 && (List.range x.nlayer).any fun i =>
    decide (x.wsAt i ≤ a % 262144) && decide (a % 262144 < x.wsAt i + 32 * x.len)

/-- WRITE: every instance, then zero in every uncovered byte (R103, R107, R109). (DEDUCED, log entry 47; unsafe.) -/
def writeOp (s : State) : State :=
  match s.eng.load with
  | none => s
  | some l =>
    if s.inHold || s.fe.rstBusy || s.eng.mphase != 4 || !((s.eng.gold0 ++ s.eng.gold1).all s.lineRests) then s
    else
      let s0 := { s with eng := { s.eng with mphase := 5 } }
      let r := l.shards.foldl (fun (a : State × Bool) x => if a.2 then a.1.writeShard x else a) (s0, true)
      if r.2 then { r.1 with ws := ⟨r.1.ws.cells.filter fun c => covered l.shards c.1⟩ } else r.1.unusable l

def execWrite (s : State) : Host.Outcome State Fault Refusal := .next (writeOp s)

/-- READY: the model is resident, the pool is laid out (R348), and the reply carries 0. -/
def readyOp (s : State) : State :=
  match s.eng.load with
  | none => s
  | some l =>
    if s.inHold || s.fe.rstBusy || s.eng.mphase != 5 then s
    else
      ({ s with eng := { s.eng with
          mst := 2, mphase := 6, mcode := 0, load := none, withheld := [], count := 0,
          units := (s.fe.kvpNpage.toNat - 2048 - 1024 * l.nlayers) / l.nlayers } }).finish l.queue l.serial 0

def execReady (s : State) : Host.Outcome State Fault Refusal := .next (readyOp s)

end Sys2Proof.Machine
end

