-- ==== Sys2Proof/Machine/StepEngine.lean ====
section
/-! DEFINITION. The step engine (R113 to R126, R315, R351 to R360, R378 to R380): the boundary with batch formation, and one command
per node kind. -/
namespace Sys2Proof.Machine

/-! ### The pool -/

/-- The unit held nowhere and not withheld, lowest first (R358). -/
def State.freeUnits (s : State) (n : Nat) : List Nat :=
  let held := (s.eng.seqs.vals.map (·.units)).flatten ++ s.eng.withheld
  (((List.range (held.length + n)).filter fun u => u < s.eng.units && !held.contains u)).take n

/-- Data unit `u` starts at this offset (R348). -/
def State.unitAt (s : State) (u : Nat) : Nat := s.fe.kvpBase.toNat + 65536 * (2048 + s.eng.nlayers * (1024 + u))

/-- Tree unit of a batch slot (R348). -/
def State.treeAt (s : State) (slot : Nat) : Nat := s.fe.kvpBase.toNat + 65536 * (2048 + s.eng.nlayers * slot)

def State.recAt (s : State) (r : Nat) : Nat := s.fe.kvpBase.toNat + 16384 * r

/-- Takes `n` units for a space, all or none, from its quota and the pool; a quota below the use only stops growth (R352, R358). -/
def State.takeUnits (s : State) (a : Asid) (n : Nat) : Option (List Nat × State) :=
  if n = 0 then some ([], s)
  else
    match s.spaces.get? a.toNat with
    | none => none
    | some sp =>
      let us := s.freeUnits n
      if us.length < n || sp.quota.toNat < sp.used + n * s.eng.nlayers then none
      else some (us, { s with spaces := s.spaces.put a.toNat { sp with used := sp.used + n * s.eng.nlayers } })

/-! ### Batch formation -/

/-- A STEP packet other than a JOIN names the sequence (R313). -/
def Pkt.stepOf (p : Pkt) (x : Seq) : Bool :=
  p.opcode == 1 && p.f 1 30 2 != 1 && !p.pois && p.asid == x.asid && bits (p.w 3) 0 24 == x.id && bits (p.w 3) 24 8 == x.ep

/-- A STEP of the sequence that was fetched before the serial has not been checked or has not started, in whatever queue it stands (R315). -/
def State.earlierStep (s : State) (x : Seq) (serial : Nat) : Bool :=
  s.queues.vals.any fun q => q.pkts.any fun p =>
    p.stepOf x && (p.st == .fetched || p.st == .accepted) && decide (p.serial < serial) && q.runs p

/-- A sequence's oldest pending STEP, unless one that was fetched before it has still to start: STEPs take effect in fetch order, whichever
queues carry them (R315). (DEDUCED, log entry 54; unsafe.) -/
def State.oldest (s : State) (x : Seq) : Option PStep :=
  (s.eng.psteps.find? fun p => p.kind != 1 && p.asid == x.asid && p.id == x.id && p.ep == x.ep).filter fun p => !s.earlierStep x p.serial

/-- A sequence ends with a code for the STEP that it has pending; every later one names an ended sequence (R110, R353). -/
def State.endWith (s : State) (rec_ : Nat) (code : Code) : State :=
  match s.eng.seqs.get? rec_ with
  | none => s
  | some x =>
    let s1 := if x.joining then s.finishPkt x.joinQ x.joinSerial code 0 0 x.word else s
    let ps := s1.eng.psteps.filter fun p => p.kind != 1 && p.asid == x.asid && p.id == x.id && p.ep == x.ep
    let s2 := ((List.range ps.length).zip ps).foldl (fun s ip =>
      s.finishStep ip.2.queue ip.2.serial (if ip.1 = 0 && !x.joining then code else 0x0104) 0 0 x.word) s1
    s2.endSeq rec_

/-- Step 1 of R358: LEAVEs in fetch order; then the sequences of R354 and R379 end. A STEP pending for a sequence that R354 ends gets
E_RANGE, as one behind a LEAVE does. -/
def State.leaves (s : State) : State :=
  let s1 := (s.eng.psteps.filter (·.kind == 2)).foldl (fun s p =>
    match s.eng.findSeq p.asid p.id p.ep with
    | none => s
    | some x => if !x.2.joining && s.oldest x.2 == some p then s.endWith x.1 0 else s) s
  s1.eng.seqs.entries.foldl (fun s e =>
    if e.2.ending then s.endWith e.1 0x0104 else if e.2.kvPoison then s.endWith e.1 0x0301 else s) s1

/-- The shape that a generating sequence uses (R119, R125). -/
def State.shapeFor (s : State) (g : Prog) (x : Seq) : Shape :=
  if g.tree = 1 || s.eng.ndraft = 0 then ⟨[(0, 0)]⟩
  else if x.hist.length < 8 then s.eng.shapes.getD 0 ⟨[(0, 0)]⟩
  else s.eng.shapes.getD (s.eng.sel.getD ((x.hist.take 8).sum - 8) 0) ⟨[(0, 0)]⟩

/-- Depth of each node of a shape (R119). -/
def Shape.depths (x : Shape) : List Nat :=
  (x.nodes.drop 1).foldl (fun ds n => ds ++ [ds.getD n.1 0 + 1]) [0]

/-- Prompt columns of a step (R120). -/
def promptCols (g : Prog) (x : Seq) : Nat := min g.pcol x.prompt.length

/-- The e of R359. -/
def State.reach (s : State) (g : Prog) (x : Seq) : Nat :=
  if !x.prompt.isEmpty then promptCols g x - 1 else (s.shapeFor g x).depths.foldl max 0

/-- Candidates in the order of R357. -/
def insertCand (x : Nat × Seq) : List (Nat × Seq) → List (Nat × Seq)
  | [] => [x]
  | y :: t =>
    if x.2.lastRun.toNat < y.2.lastRun.toNat || (x.2.lastRun == y.2.lastRun && x.2.order < y.2.order) then x :: y :: t
    else y :: insertCand x t

def State.candidates (s : State) : List (Nat × Seq) :=
  (s.eng.seqs.entries.filter fun e => e.2.joining || ((s.oldest e.2).map (·.kind)) == some 0).foldl (fun l x => insertCand x l) []

/-- Poisoned entries of a sequence's record: its units that are withheld; none when the record is clean (R380). -/
def State.recordPoison (s : State) (r : Nat) (x : Seq) : Acc (Option (List Nat)) :=
  (s.takeRange (s.recAt r) (64 + 4 * x.units.length)).bind fun b s =>
    if b.anyPois then
      .ok (some (((List.range x.units.length).filter fun j => b.pois.getD (64 + 4 * j) false).map fun j => x.units.getD j 0)) s
    else .ok none s

/-- What batch formation has gathered. -/
structure Forming where
  batch : List Batch
  paused : Nat

/-- One candidate of step 2 (R358, R359). -/
def State.growOne (s : State) (g : Prog) (f : Forming) (c : Nat × Seq) : Acc Forming :=
  if g.maxseq ≤ f.batch.length then .ok f s
  else
    let x := c.2
    (s.recordPoison c.1 x).bind fun p s =>
      match p with
      | some us => .ok f ({ s with eng := { s.eng with withheld := s.eng.withheld ++ us } }.endWith c.1 0x0301)
      | none =>
        let need := ceilDiv (x.pos + s.reach g x + 1) 32 - x.units.length
        let step := s.oldest x
        let reply (s : State) (code : Code) (stat : BitVec 4) : State :=
          match step with
          | some p => if x.joining then s else s.finishStep p.queue p.serial code stat 0 x.word
          | none => s
        if 4080 < x.units.length + need then .ok f (reply s 0x0104 0)
        else
          match s.takeUnits x.asid need with
          | none => .ok { f with paused := f.paused + 1 } (reply s 0 1)
          | some (us, s1) =>
            let y := { x with units := x.units ++ us, lastRun := s1.eng.count }
            let b : Batch := { Batch.init with
              rec_ := c.1, gen := x.prompt.isEmpty, join := x.joining,
              queue := if x.joining then x.joinQ else (step.map (·.queue)).getD 0,
              serial := if x.joining then x.joinSerial else (step.map (·.serial)).getD 0,
              out := if x.joining then x.out else (step.map (·.out)).getD 0 }
            let ps := if x.joining then s1.eng.psteps else s1.eng.psteps.filter fun z => some z.serial != step.map (·.serial)
            .ok { f with batch := f.batch ++ [b] } { s1 with eng := { s1.eng with seqs := s1.eng.seqs.put c.1 y, psteps := ps } }

/-- One pending JOIN of step 3 (R353, R358, R359). -/
def State.joinOne (s : State) (g : Prog) (f : Forming) (p : PStep) : State × Forming :=
  if g.maxseq ≤ f.batch.length then (s, f)
  else
    let rec_ := (List.range 8192).find? fun r => r != 0 && !s.eng.seqs.has r
    let ids := s.eng.seqs.vals.map (·.id.toNat)
    let id := ((List.range (ids.length + 1)).find? fun i => !ids.contains (i + 1)).getD 0 + 1
    match rec_, s.takeUnits p.asid 1 with
    | some r, some (us, s1) =>
      let x : Seq := { Seq.init with
        id := BitVec.ofNat 24 id, ep := s1.eng.seqEp.get id 0, asid := p.asid, units := us, prompt := p.prompt, seed := p.seed,
        lastRun := s1.eng.count, order := s1.eng.joins, joinQ := p.queue, joinSerial := p.serial, joining := true, out := p.out }
      let b : Batch := { Batch.init with rec_ := r, queue := p.queue, serial := p.serial, out := p.out, join := true }
      ({ s1 with eng := { s1.eng with seqs := s1.eng.seqs.put r x, joins := s1.eng.joins + 1,
                                      psteps := s1.eng.psteps.filter (·.serial != p.serial) } },
        { f with batch := f.batch ++ [b] })
    | _, _ => (s.finishStep p.queue p.serial 0x0105 0 0 0, f)

/-- The columns of a prompt step (R120). -/
def promptColumns (slot : Nat) (x : Seq) (n : Nat) : List Col :=
  (List.range n).map fun j =>
    { token := x.prompt.getD j 0, slot := slot, node := j, parent := j - 1, depth := 0, prompt := true,
      anc := BitVec.ofNat 32 (2 ^ (j + 1) - 1), pos := x.pos + j }

/-- The columns of a generating step: the shape's nodes whose candidate exists, renumbered (R118, R119). -/
def treeColumns (vocab slot : Nat) (x : Seq) (sh : Shape) : List Col :=
  let root : Col := { token := x.root, slot := slot, node := 0, parent := 0, depth := 0, prompt := false, anc := 1, pos := x.pos }
  ((List.range sh.nodes.length).foldl (fun (a : List Col × List (Nat × Nat)) j =>
    if j = 0 then ([root], [(0, 0)])
    else
      let n := sh.nodes.getD j (0, 0)
      match (a.2.find? (·.1 == n.1)).bind fun m => a.1[m.2]? with
      | none => a
      | some p =>
        match (x.drafts.getD p.depth [])[n.2]? with
        | none => a
        | some t =>
          if vocab ≤ n.2 then a
          else
            let k := a.1.length
            let c : Col := { token := BitVec.ofNat 24 t, slot := slot, node := k, parent := p.node, depth := p.depth + 1, prompt := false,
                             anc := p.anc ||| BitVec.ofNat 32 (2 ^ k), pos := x.pos + p.depth + 1 }
            (a.1 ++ [c], a.2 ++ [(j, k)])) ([], [])).1

/-- A column-table entry (R118). -/
def Col.words (c : Col) : List Word :=
  [c.token.setWidth 32,
   flagAt 32 31 true ||| fldN 21 10 c.slot ||| fldN 16 5 c.node ||| fldN 11 5 c.parent ||| fldN 8 3 c.depth ||| flagAt 32 7 c.prompt,
   c.anc, fldN 0 32 c.pos]

/-- A sequence record (R351). -/
def Seq.bytes (x : Seq) : List Byte :=
  unwords [x.word, fldN 0 32 x.pos, fldN 0 32 x.units.length, x.asid.setWidth 32] ++ List.replicate 48 0#8 ++
    unwords (x.units.map fun u => fldN 0 32 u)

/-- A write by the step engine under space 0, which waits for lines at rest. -/
def State.putBytes (s : State) (off : Nat) (bs : List Byte) : Acc Unit :=
  if s.rangeRests off bs.length then .ok () (s.writeRange off bs []) else .wait

/-- Columns of the whole batch, contiguous by slot (R117). -/
def State.batchCols (s : State) (g : Prog) (bs : List Batch) : List Col :=
  (((List.range bs.length).zip bs).map fun ib =>
    let x := s.eng.seqs.get ib.2.rec_ .init
    if ib.2.gen then treeColumns s.eng.vocab ib.1 x (s.shapeFor g x) else promptColumns ib.1 x (promptCols g x)).flatten

/-- Records and slot table, written before the step starts (R351). -/
def State.writeRecords (s : State) (bs : List Batch) : Acc Unit :=
  let recs := bs.foldl (fun (acc : Acc Unit) b =>
    acc.bind fun _ s => s.putBytes (s.recAt b.rec_) (s.eng.seqs.get b.rec_ .init).bytes) (.ok () s)
  recs.bind fun _ s =>
    s.putBytes (s.recAt 0) (unwords ((List.range 1024).map fun i =>
      match bs[i]? with
      | some b => flagAt 32 31 true ||| fldN 0 13 b.rec_
      | none => 0))

/-! ### The end of a step -/

/-- A packet of the batch completes unless it has already. -/
def State.replyBatch (s : State) (b : Batch) (code : Code) (ntok : BitVec 4) (x : Word) : State :=
  let waits := (s.queue b.queue).pkts.any fun p => p.serial == b.serial && p.st != .done
  if waits then s.finishPkt b.queue b.serial code 0 ntok x else s

/-- The model that serves steps is UNUSABLE (R109). -/
def Engine.lost (e : Engine) : Bool :=
  match e.load with
  | some l => l.prev == 3
  | none => e.mst == 3

/-- Idle again (R114). -/
def Engine.idle (e : Engine) : Engine :=
  { e with sst := 0, cols := [], batch := [], started := [], doneN := [], targets := [], failCode := 0, failNode := 0, draftRanks := [], fills := [],
           prog := if e.lost then none else e.prog }

/-- A step has ended, and the next boundary follows at once (R356): the engine is forming, or idle where no boundary can occur. (DEDUCED,
log entry 54; unsafe.) -/
def Engine.ended (e : Engine) : Engine := { e.idle with sst := if e.lost then 0 else 1 }

/-- The sequence that holds the data unit of a poisoned address (R379). -/
def State.unitOwner (s : State) : Option Nat :=
  let off := fieldN s.fe.paddr 0 49
  if !s.fe.stepPoison || bits s.fe.paddr 49 15 != s.mid || off < s.unitAt 0 || s.eng.nlayers = 0 then none
  else
    let u := (off - s.unitAt 0) / (65536 * s.eng.nlayers)
    (s.eng.seqs.entries.find? fun e => e.2.units.contains u).map (·.1)

/-- The failed step ends: one code for every sequence of the batch, whose state stays; the data units that it took at
the boundary and its LASTRUN stay with it too (R116, R123, R378, R379). A JOIN in progress completes with the code, and its sequence
stays live. (DEDUCED, log entry 56; unsafe.) -/
def State.closeFailed (s : State) : State :=
  let c := s.eng.failCode
  let s1 := s.eng.batch.foldl (fun s b =>
    let x := s.eng.seqs.get b.rec_ .init
    let s1 := s.replyBatch b c 0 x.word
    if b.join && x.joining then { s1 with eng := { s1.eng with seqs := s1.eng.seqs.put b.rec_ { x with joining := false } } } else s1) s
  let s2 := if c = 0x0301 then
      let s2 := { s1 with fe := { s1.fe with psnSteps := satAdd s1.fe.psnSteps 1 } }
      match s2.unitOwner with
      | some r => { s2 with eng := { s2.eng with seqs := s2.eng.seqs.put r { s2.eng.seqs.get r .init with kvPoison := true } } }
      | none => s2
    else s1
  { s2 with eng := s2.eng.ended }

/-- A launch of the step is still running. -/
def State.stepRuns (s : State) : Bool := s.launches.vals.any (·.queue == 0xFFFF)

/-- Node `i` fails with a code: no node starts any more, and the step ends once its launches have (R116, R378). -/
def State.nodeFails (s : State) (i : Nat) (code : Code) : State :=
  let e := s.eng
  let first := e.failCode == 0 || (e.failCode != 0x0301 && (code == 0x0301 || i < e.failNode))
  let s1 := { s with eng := { e with
    failCode := if first then code else e.failCode, failNode := if first then i else e.failNode, sst := 3 } }
  if s1.stepRuns then s1 else s1.closeFailed

/-- STEP_BOUNDARY (R356 to R360): leaves, growth and joins, then records, slot table and column table, all before EMBED. A batch
with no sequence starts no step; a boundary whose writes must wait for a line is forming meanwhile (R127). (DEDUCED, log entry 54; unsafe.) -/
def stepBoundaryOp (s : State) : State :=
  if s.inHold || !s.pw.on || s.fe.rstBusy || 1 < s.eng.sst.toNat || !s.modelReady ||
      (s.eng.sst == 0 && s.eng.psteps.isEmpty && !s.eng.seqs.vals.any fun x => x.joining || x.ending || x.kvPoison) then s
  else
    match (match s.eng.nextProg with
        | some g => some g
        | none => s.eng.prog) with
    | none => s
    | some g =>
      let forming : State := { s with eng := { s.eng with sst := 1 } }
      let s0 := { s with eng := { s.eng with prog := some g, nextProg := none }, fe := { s.fe with stepPoison := false } }
      let s1 := s0.leaves
      match s1.candidates.foldl (fun (a : Acc Forming) c => a.bind fun f s => s.growOne g f c) (.ok ⟨[], 0⟩ s1) with
      | .wait => forming
      | .fail _ _ => forming
      | .ok f s2 =>
        let r := (s2.eng.psteps.filter (·.kind == 1)).foldl (fun (a : State × Forming) p => a.1.joinOne g a.2 p) (s2, f)
        let s3 := { r.1 with fe := { r.1.fe with paused := r.2.paused } }
        let bs := r.2.batch
        if bs.isEmpty then { s3 with eng := { s3.eng with sst := 0 } }
        else
          let cols := s3.batchCols g bs
          let s4 := { s3 with eng := { s3.eng.idle with sst := 2, cols := cols, batch := bs } }
          match s4.writeRecords bs with
          | .wait => forming
          | .fail _ _ => forming
          | .ok _ s5 =>
            match s5.vwrite 0 g.coltab (unwords ((cols.map Col.words).flatten) ++ List.replicate (16384 - 16 * cols.length) 0#8) [] with
            | .wait => forming
            | .fail c t => t.nodeFails 0 c
            | .ok _ s6 => s6

def execStepBoundary (s : State) : Host.Outcome State Fault Refusal := .next (stepBoundaryOp s)

/-! ### Nodes -/

/-- Every predecessor that a node names has completed (R114). -/
def Engine.predsDone (e : Engine) (n : Node) : Bool :=
  (n.pred0 == 0xFFF || e.doneN.contains n.pred0.toNat) && (n.pred1 == 0xFFF || e.doneN.contains n.pred1.toNat)

/-- Node `j` holds back no node of a higher index: it has started, is not ready, or is an END, which starts nothing and waits for every
other node (R114). -/
def Engine.standsAside (e : Engine) (g : Prog) (j : Nat) : Bool :=
  e.started.contains j || !e.predsDone (g.nodes.getD j .init) || (g.nodes.getD j .init).kind == 0xF

/-- Node `i` of kind `k` runs: its predecessors have completed, and nodes that are ready together start in index order (R114). -/
def State.nodeAt (s : State) (i : Nat) (k : BitVec 4) : Option Node :=
  if s.inHold || !s.pw.on || s.fe.rstBusy || s.eng.sst.toNat < 2 || s.eng.failCode != 0 then none
  else
    match s.eng.prog with
    | none => none
    | some g =>
      match g.nodes[i]? with
      | none => none
      | some n =>
        let earlier := (List.range i).all fun j => s.eng.standsAside g j
        if n.kind == k && !s.eng.doneN.contains i && s.eng.predsDone n && (s.eng.started.contains i || earlier) then some n else none

/-- The launch of a PLACED node (R113, R115). -/
def State.nodeLaunch (s : State) (i : Nat) (n : Node) : Launch :=
  let c := s.eng.cols.length
  { Launch.init with
    queue := 0xFFFF, node := i, placed := true, bim := n.bim, ngrp := n.ngrp, nthr := n.nthr, valloc := regAlloc n.vregs,
    spad := n.spad, entry := n.code, bound := n.bound, layer := n.layer, role := n.role, passes := ceilDiv c 32, cols := c }

/-- The PLACED nodes whose last predecessor has started and whose image is not yet filled (R133). -/
def Engine.toFill (e : Engine) : List (Nat × Node) :=
  let nodes := (e.prog.map (·.nodes)).getD []
  let on (p : BitVec 12) : Bool := p == 0xFFF || e.started.contains p.toNat
  ((List.range nodes.length).zip nodes).filter fun x =>
    x.2.placed && (x.2.pred0 != 0xFFF || x.2.pred1 != 0xFFF) && on x.2.pred0 && on x.2.pred1 && !e.started.contains x.1 &&
      !(e.fills.any (·.node == x.1))

/-- The fills of R133 start, as far as their lines are at rest and their space is free; the others start when their node does. A rejected
image ends the step (R132). (DEDUCED, log entry 44; unsafe.) -/
def State.startFills (s : State) : State :=
  s.eng.toFill.foldl (fun s x =>
    if s.eng.failCode != 0 || s.eng.sst.toNat < 2 then s
    else
      match s.fillImage (s.nodeLaunch x.1 x.2) with
      | .wait => s
      | .reject c s1 => s1.nodeFails x.1 c
      | .ok image s1 => { s1 with eng := { s1.eng with fills := s1.eng.fills ++ [⟨x.1, image⟩] } }) s

/-- A node has started, and the fills that wait for it start (R133). -/
def State.nodeStarts (s : State) (i : Nat) : State :=
  ({ s with eng := { s.eng with started := insertNat s.eng.started i } }).startFills

def State.nodeDone (s : State) (i : Nat) : State :=
  ({ s with eng := { s.eng with started := insertNat s.eng.started i, doneN := insertNat s.eng.doneN i } }).startFills

/-- EMBED: the gather that the argument block describes, poison with its words (R113). -/
def embedOp (i : Nat) (s : State) : State :=
  match s.nodeAt i 1 with
  | none => s
  | some n =>
    match s.vread 0 n.arg 64 with
    | .wait => s
    | .fail c t => t.nodeFails i c
    | .ok b s1 =>
      if b.anyPois then s1.nodeFails i 0x0301
      else
        let plan := (Config.embedPlan (wordsOf b.data 16) (s.eng.cols.map (·.token))).filter fun p =>
          s.openRange p.1 p.2.2 && s.openRange p.2.1 p.2.2
        if plan.all fun p => s1.rangeRests p.1 p.2.2 && s1.rangeRests p.2.1 p.2.2 then
          (plan.foldl (fun s p =>
            let r := s.readRange p.1 p.2.2
            r.2.writeRange p.2.1 r.1.data r.1.pois) s1).nodeDone i
        else s

def execEmbed (node : Nat) (s : State) : Host.Outcome State Fault Refusal := .next (embedOp node s)

/-- PLACED: the launch of R113 and R115 starts; the node completes with it. -/
def placedOp (i : Nat) (s : State) : State :=
  match s.nodeAt i 2 with
  | none => s
  | some n =>
    if s.eng.started.contains i then s
    else
      match s.begin (s.nodeLaunch i n) n.arg none with
      | .wait => s
      | .reject code s1 => s1.nodeFails i code
      | .ok s1 => s1.nodeStarts i

def execPlaced (node : Nat) (s : State) : Host.Outcome State Fault Refusal := .next (placedOp node s)

/-- The row groups of a node's descriptor: at the node's layer for a SHARD descriptor of LAYER 0xFE (R230). -/
def State.nodeRowgs (s : State) (d : Desc) (layer : Nat) : List (BitVec 16) :=
  if d.isShard then
    (s.eng.shards.filter fun x => x.holds (d.useLayer layer) d.role).foldl (fun l x => if l.contains x.rowg then l else l ++ [x.rowg]) []
  else [0]

/-- What a node finds of round `k` after the rounds that nodes have taken. -/
inductive NodeRound where
  | wait
  | lost
  | held (res : List Result)

/-- Whether every reader's router, or the step engine, holds the round (R244), or the round is lost or cut off from this module (R237,
R272). -/
def State.nodeRound (s : State) (did : DescId) (d : Desc) (layer k : Nat) : NodeRound :=
  let gs := s.nodeRowgs d layer
  let num (g : BitVec 16) : Nat := d.engTaken.get g.toNat 0 + k
  if gs.any fun g => d.lost.contains (num g) then .lost
  else if d.deliv = 2 then
    let rs := gs.filterMap fun g => d.results.find? fun r => r.rowg == g && r.num == num g && r.at_.contains .engine
    if rs.length = gs.length then .held rs else if s.cutOff d layer (num 0) then .lost else .wait
  else if gs.all fun g => (s.readerClus d g layer).all fun c => s.completedAt did d g (num g) c then
    (if gs.all fun g => decide (num g < d.round.get g.toNat 0) then .held [] else if s.cutOff d layer (num 0) then .lost else .wait)
  else if s.cutOff d layer (num 0) then .lost
  else .wait

/-- The first `n` rounds that a node runs, once the engine holds them all; otherwise the node waits, or fails when one is lost
(R272) or delivered poisoned (R372). (DEDUCED, log entry 55; unsafe.) -/
def State.nodeRounds (s : State) (i : Nat) (n : Node) (count : Nat) (act : State → List (List Result) → State) : State :=
  match s.descs.get? n.desc.toNat with
  | none => s.nodeFails i 0x0104
  | some d =>
    let rs := (List.range count).map fun k => s.nodeRound n.desc d n.layer k
    if rs.any fun r => match r with
        | .lost => true
        | _ => false then s.nodeFails i 0x0402
    else if rs.any fun r => match r with
        | .wait => true
        | _ => false then s.nodeStarts i
    else
      let res := rs.map fun r => match r with
        | .held l => l
        | _ => []
      let taken := (s.nodeRowgs d n.layer).foldl (fun (t : Tab Nat) g => t.put g.toNat (t.get g.toNat 0 + count)) d.engTaken
      let s1 := (s.setDesc n.desc { d with engTaken := taken }).clean n.desc
      let s2 := (s.nodeRowgs d n.layer).foldl (fun s g => s.settle n.desc g) s1
      if res.any fun l => l.any (·.poisAt .engine) then s2.nodeFails i 0x0301 else (act s2 res).nodeDone i

/-- REDUCE (R113, R244). -/
def reduceOp (i : Nat) (s : State) : State :=
  match s.nodeAt i 3 with
  | none => s
  | some n => s.nodeRounds i n 1 fun s _ => s

def execReduce (node : Nat) (s : State) : Host.Outcome State Fault Refusal := .next (reduceOp node s)

/-- Word `w` of element `e`, of `size` words, of the first row group's result; a free value where the result has no such
element. -/
def elemWord (free : Nat) (l : List Result) (size e w : Nat) : Word :=
  match l with
  | r :: _ =>
    if 4 * (size * e + w) + 4 ≤ r.data.length then ofBytes 32 ((r.data.drop (4 * (size * e + w))).take 4)
    else Config.freeWord free (size * e + w)
  | [] => Config.freeWord free (size * e + w)

/-- SELECT: the index of each column's winner is its target token (R121). -/
def selectOp (i : Nat) (s : State) : State :=
  match s.nodeAt i 4 with
  | none => s
  | some n => s.nodeRounds i n 1 fun s res =>
    let t := s.take
    { t.2 with eng := { t.2.eng with
        targets := (List.range s.eng.cols.length).map fun c => fieldN (elemWord t.1 (res.getD 0 []) 2 c 1) 0 24 } }

def execSelect (node : Nat) (s : State) : Host.Outcome State Fault Refusal := .next (selectOp node s)

/-- The target token of every column: what SELECT produced, else a free value that the step keeps (R121). -/
def State.targetsNow (s : State) : List Nat × State :=
  if s.eng.targets.length = s.eng.cols.length then (s.eng.targets, s)
  else
    let t := s.take
    let l := (List.range s.eng.cols.length).map fun c => fieldN (Config.freeWord t.1 c) 0 24
    (l, { t.2 with eng := { t.2.eng with targets := l } })

/-- mismatch(j): 1 where a column's token differs from its parent's target; 0 for a root and a prompt column (R121). -/
def mismatch (cols : List Col) (targets : List Nat) (c : Col) : Nat :=
  if c.node = 0 || c.prompt then 0
  else
    match ((List.range cols.length).zip cols).find? fun ip => ip.2.slot == c.slot && ip.2.node == c.parent with
    | none => 0
    | some ip =>
      let t := targets.getD ip.1 0
      (if t < c.token.toNat then 1 else 0) + (if c.token.toNat < t then 1 else 0)

/-- bad(j): the mismatches over the nodes that ANC names other than the root (R121, ANCSUM of R242). -/
def badOf (cols : List Col) (targets : List Nat) (c : Col) : Nat :=
  ((cols.filter fun p => p.slot == c.slot && p.node != 0 && c.anc.getLsbD p.node).map (mismatch cols targets)).sum

/-- The key of a column (R122). -/
def Col.key (c : Col) (bad : Nat) : Int :=
  if c.node = 0 || bad = 0 then (c.depth : Int) * 1024 + (1023 - c.node) else -1

/-- The node with the greatest key among the columns of a batch slot, where `bad` counts the mismatches of each column of the step (R122). -/
def winnerOf (cols : List Col) (bad : Nat → Nat) (slot : Nat) : Nat :=
  ((((List.range cols.length).zip cols).filter fun c => c.2.slot == slot).foldl (fun (best : Int × Nat) c =>
    let k := c.2.key (bad c.1)
    if best.1 < k then (k, c.2.node) else best) (-2, 0)).2

/-- Each batch slot's winner (R122). -/
def State.vote (s : State) (bad : Nat → Nat) : State :=
  { s with eng := { s.eng with
      batch := ((List.range s.eng.batch.length).zip s.eng.batch).map fun (ib : Nat × Batch) =>
        { ib.2 with winner := if ib.2.gen then winnerOf s.eng.cols bad ib.1 else 0 } } }

/-- Whether any core contributes to the round of a node's descriptor. -/
def State.contributed (s : State) (n : Node) : Bool :=
  match s.descs.get? n.desc.toNat with
  | some d => (s.nodeRowgs d n.layer).any fun g => !(s.members d g n.layer).isEmpty
  | none => false

/-- VERIFY: bad(j) is element j of the round of its descriptor, CMPNE with ANCSUM (R121, R242, R244). The step engine forms bad(j) itself where
no core contributes to that descriptor, as no core takes part in the verification (01 item 6). The key's argmax follows (R122). (DEDUCED,
log entry 55; unsafe.) -/
def verifyOp (i : Nat) (s : State) : State :=
  match s.nodeAt i 5 with
  | none => s
  | some n =>
    if s.contributed n then
      s.nodeRounds i n 1 fun s res =>
        let t := s.take
        t.2.vote fun j => (elemWord t.1 (res.getD 0 []) 1 j 0).toNat
    else
      let r := s.targetsNow
      (r.2.vote fun j => badOf s.eng.cols r.1 (s.eng.cols.getD j .init)).nodeDone i

def execVerify (node : Nat) (s : State) : Host.Outcome State Fault Refusal := .next (verifyOp node s)

/-- DRAFT: eight argmax rounds; element (head, slot) of round r is the token of rank r (R124). -/
def draftOp (i : Nat) (s : State) : State :=
  match s.nodeAt i 6 with
  | none => s
  | some n => s.nodeRounds i n 8 fun s res =>
    let t := s.take
    let cols := ((s.descs.get? n.desc.toNat).map (·.cols)).getD 0
    { t.2 with eng := { t.2.eng with
        draftRanks := (List.range s.eng.batch.length).map fun slot => (List.range s.eng.ndraft).map fun h => (List.range 8).map fun r =>
          fieldN (elemWord t.1 (res.getD r []) 2 (h * cols + slot) 1) 0 24 } }

def execDraft (node : Nat) (s : State) : Host.Outcome State Fault Refusal := .next (draftOp node s)

/-! ### COMMIT and END -/

/-- The columns of a batch slot with their index in the step. -/
def Engine.slotCols (e : Engine) (slot : Nat) : List (Nat × Col) :=
  ((List.range e.cols.length).zip e.cols).filter fun ic => ic.2.slot == slot

/-- The tokens that a sequence commits (R120, R122): the path from the root to the winner, and the winner's target. -/
def Engine.commits (e : Engine) (slot : Nat) (b : Batch) : List (Nat × Col) × Option Nat :=
  let cs := e.slotCols slot
  if b.gen then
    match cs.find? fun ic => ic.2.node == b.winner with
    | none => ([], none)
    | some w => (cs.filter fun ic => ic.2.node != 0 && w.2.anc.getLsbD ic.2.node, some w.1)
  else ([], cs.getLast?.map (·.1))

/-- The moves of COMMIT for one accepted column: source, destination, length (R123). -/
def State.kvMoves (s : State) (slot : Nat) (x : Seq) (c : Col) : List (Nat × Nat × Nat) :=
  match x.units[c.pos / 32]? with
  | none => []
  | some u =>
    ((List.range s.eng.nlayers).map fun l =>
      ((Config.kvPlan c.node (c.pos % 32)).filter fun p => p.1 + p.2.2 ≤ 65536 && p.2.1 + p.2.2 ≤ 65536).map fun p =>
        (s.treeAt slot + 65536 * l + p.1, s.unitAt u + 65536 * l + p.2.1, p.2.2)).flatten

/-- What one batch slot commits. -/
structure CommitPlan where
  slot : Nat
  b : Batch
  toks : List Nat
  moves : List (Nat × Nat × Nat)
  next : Seq
  reply : Bool

/-- The plan of a slot: target `t` gives each column's token (R120, R122, R123, R125). A generating step under TREE = 1 adds its count to
the history too. A prompt step moves no K and V: R123 names the moves of accepted nodes only, though R118 puts the K and V of every column other
than the root into tree slots. (DEDUCED, log entry 56; unsafe.) -/
def State.commitPlan (s : State) (target : Nat → Nat) (slot : Nat) (b : Batch) : CommitPlan :=
  let x := s.eng.seqs.get b.rec_ .init
  let r := s.eng.commits slot b
  let bonus := (r.2.map target).getD 0
  if b.gen then
    let toks := (r.1.map fun ic => ic.2.token.toNat) ++ [bonus]
    { slot := slot, b := b, toks := toks, moves := (r.1.map fun ic => s.kvMoves slot x ic.2).flatten, reply := true,
      next := { x with pos := x.pos + toks.length, root := BitVec.ofNat 24 bonus, hist := (toks.length :: x.hist).take 8, drafts := [] } }
  else
    let n := (s.eng.slotCols slot).length
    let left := x.prompt.drop n
    let y := { x with pos := x.pos + n, prompt := left, drafts := [] }
    if left.isEmpty then
      { slot := slot, b := b, toks := [bonus], moves := [], reply := true, next := { y with root := BitVec.ofNat 24 bonus, joining := false } }
    else { slot := slot, b := b, toks := [], moves := [], reply := !b.join, next := y }

/-- The OUT words: the tokens, then zeros (R315). -/
def outBytes (toks : List Nat) : List Byte := unwords ((List.range 8).map fun i => fldN 0 24 (toks.getD i 0))

/-- Writes one slot's K and V, its OUT buffer and its reply. -/
def State.commitSlot (s : State) (p : CommitPlan) : Acc Unit :=
  if !(p.moves.all fun m => s.rangeRests m.1 m.2.2 && s.rangeRests m.2.1 m.2.2) then .wait
  else
    let s1 := p.moves.foldl (fun s m => let r := s.readRange m.1 m.2.2; r.2.copyRange m.2.1 r.1.data r.1.pois) s
    let s2 := { s1 with eng := { s1.eng with seqs := s1.eng.seqs.put p.b.rec_ p.next } }
    if p.toks.isEmpty then .ok () (if p.reply then s2.replyBatch p.b 0 0 p.next.word else s2)
    else
      match s2.vwrite p.next.asid p.b.out (outBytes p.toks) [] with
      | .wait => .wait
      | .fail c t => .ok () (t.replyBatch p.b c 0 p.next.word)
      | .ok _ s3 => .ok () (s3.replyBatch p.b 0 (BitVec.ofNat 4 p.toks.length) p.next.word)

/-- Steps in which a space committed a token (R367). -/
def State.countSteps (s : State) (as_ : List Asid) : State :=
  as_.foldl (fun s a => match s.spaces.get? a.toNat with
    | some sp => { s with spaces := s.spaces.put a.toNat { sp with steps := sp.steps + 1 } }
    | none => s) s

/-- COMMIT (R120, R122, R123, R315, R367). A target that no SELECT produced is a free value. The step closes from here on (R127; log entry
54). -/
def commitOp (i : Nat) (s : State) : State :=
  match s.nodeAt i 7 with
  | none => s
  | some _ =>
    let t := s.targetsNow
    let target (c : Nat) : Nat := t.1.getD c 0
    let plans := ((List.range s.eng.batch.length).zip s.eng.batch).map fun ib => s.commitPlan target ib.1 ib.2
    match plans.foldl (fun (a : Acc Unit) p => a.bind fun _ s => s.commitSlot p) (.ok () t.2) with
    | .wait => s
    | .fail _ _ => s
    | .ok _ s1 =>
      let spaces := (plans.filter fun p => !p.toks.isEmpty).foldl (fun (l : List Asid) p =>
        if l.contains p.next.asid then l else l ++ [p.next.asid]) []
      let s2 := s1.countSteps spaces
      ({ s2 with eng := { s2.eng with batch := plans.map fun (p : CommitPlan) => { p.b with toks := p.toks }, sst := 3 } }).nodeDone i

def execCommit (node : Nat) (s : State) : Host.Outcome State Fault Refusal := .next (commitOp node s)

/-- END: every other node has completed, and the next boundary follows (R356); the draft ranks of the sequences that committed a root stay with them (R114, R119). -/
def endOp (i : Nat) (s : State) : State :=
  match s.nodeAt i 0xF with
  | none => s
  | some _ =>
    let nodes := (s.eng.prog.map (·.nodes)).getD []
    if !((List.range nodes.length).all fun j => s.eng.doneN.contains j || (nodes.getD j .init).kind == 0xF) then s
    else
      let seqs := ((List.range s.eng.batch.length).zip s.eng.batch).foldl (fun (t : Tab Seq) ib =>
        match t.get? ib.2.rec_ with
        | some x => if ib.2.toks.isEmpty then t else t.put ib.2.rec_ { x with drafts := s.eng.draftRanks.getD ib.1 [] }
        | none => t) s.eng.seqs
      { s with eng := { s.eng.ended with seqs := seqs, count := s.eng.count + 1 } }

def execEnd (node : Nat) (s : State) : Host.Outcome State Fault Refusal := .next (endOp node s)

end Sys2Proof.Machine
end

