-- ==== Sys2Proof/Machine/Reset.lean ====
section
/-! DEFINITION. Weight refetch (R373 to R375) and the device reset (R382 to R386). -/
namespace Sys2Proof.Machine

/-! ### Weight refetch -/

/-- The shard instance that covers a sector of a core's weight store, with the image offset of the sector (R103, R104). -/
def State.sectorSource (s : State) (c : CoreId) (sec : Nat) : Option Nat :=
  s.eng.shards.findSome? fun x =>
    if x.core != c then none
    else (List.range x.nlayer).findSome? fun i =>
      if x.wsAt i ≤ 32 * sec && 32 * sec < x.wsAt i + 32 * x.len then some (x.srcAt i + (32 * sec - x.wsAt i)) else none

/-- FE_WREF_ALL, FE_WREF_C1 and FE_WREF_LAST (R388). -/
def State.countRefetch (s : State) (c : CoreId) (sec : Nat) (c1 : Bool) : State :=
  { s with fe := { s.fe with
      wrefAll := satAdd s.fe.wrefAll 1, wrefC1 := if c1 then satAdd s.fe.wrefC1 1 else s.fe.wrefC1,
      wrefV := true, wrefSect := BitVec.ofNat 13 sec, wrefCore := c } }

def State.putSector (s : State) (c : CoreId) (sec : Nat) (bs : List Byte) : State :=
  { s with ws := s.ws.writeBytes (c.toNat * 262144 + 32 * sec) bs }

/-- The MXOP of a group that still reads the weight-store sector at offset `off` (R75, R77). -/
def Core.readerMxop (k : Core) (g : BitVec 4) (off : Nat) : Option MxEntry :=
  k.arr.queue.find? fun q => q.grp == g && match q.work with
    | .op mode fa _ false a _ left => decide (a < off + 32) && decide (off < a + left * blockBytes mode fa (subDim k.arr.pack))
    | _ => false

/-- The instruction at the group's PC is a load of the weight-store window that reads the sector at module-physical offset `off` (R65). -/
def State.loadsSector (s : State) (x : Ctx) (off : Nat) : Bool :=
  let reads (f : MF) : Bool := !f.spad && (x.lanes f false).any fun p => match placeOf s.mid p.2 with
    | .window o => o / 32 == off / 32
    | _ => false
  match (x.la.wordAt x.gr.pc).bind (instrOf ⟨x.id, x.g⟩) with
  | some (.ld _ f) => reads f
  | some (.lds _ f) => reads f
  | _ => false

/-- The kernel of the group whose read of a weight-store sector is held stops with E_POISON: at the MXOP that reads the sector, whose array
work is abandoned, or at the window load (R83, R372, R375). -/
def State.heldReadFails (s : State) (at_ : GroupAt) (c : CoreId) (off : Nat) : State :=
  let k := s.core at_.core
  match k.launch, k.groups.get? at_.grp.toNat with
  | some l, some gr =>
    let x : Ctx := ⟨at_.core, at_.grp, k, gr, l, s.launches.get l .init⟩
    let mx := if at_.core = c && !s.loadsSector x (262144 * c.toNat + off) then k.readerMxop at_.grp off else none
    (match mx with
      | some q => (s.kernelError at_.core at_.grp q.pc 0x0301).arrayLost at_.core
      | none => s.kernelError at_.core at_.grp gr.pc 0x0301)
  | _, _ => s

/-- Both golden copies are poisoned: the model is UNUSABLE, STEPs that wait for a boundary complete with E_POISON (R109), and the kernel that
reads the sector stops (R375). A MODEL_LOAD under way finds it so when it fails (R107). -/
def State.goldLost (s : State) (at_ : GroupAt) (c : CoreId) (off : Nat) : State :=
  let e := s.eng
  let running := 1 < e.sst.toNat
  let s0 := { s with eng := { e with
    mst := if e.load.isSome then e.mst else 3, load := e.load.map fun (l : Load) => ({ l with prev := 3 } : Load),
    mcode := 0x0301, units := 0, nextProg := none, prog := if running then e.prog else none, sst := if running then e.sst else 0 } }
  s0.refuseSteps.heldReadFails at_ c off

/-- WEIGHT_REFETCH: the sector at offset `off` of a core's weight store, whose read by an array or a window load of group `at_` is held,
is written again from golden copy 0, or from copy 1
when copy 0's line is delivered poisoned; a sector that no shard covers is written with 0 (R373). (DEDUCED, log entry 49; unsafe.) -/
def weightRefetchOp (at_ : GroupAt) (c : CoreId) (off : BitVec 18) (s : State) : State :=
  let sec := off.toNat / 32
  let nt := if (floeOf c).toNat < 64 then s.west else s.east
  if s.inHold || !s.pw.on || s.fe.rstBusy || !nt.fwOn then s
  else
    match s.sectorSource c sec with
    | none => (s.putSector c sec (List.replicate 32 0)).countRefetch c sec false
    | some o =>
      let l0 := s.eng.gold0.getD (o / 128) 0
      let l1 := s.eng.gold1.getD (o / 128) 0
      let i := o / 32 % 4
      if !s.lineRests l0 || !s.lineRests l1 then s
      else
        let a := s.hostLine l0
        if a.1.pois = 0 then (a.2.putSector c sec (toBytes 32 (a.1.sector i))).countRefetch c sec false
        else
          let b := a.2.hostLine l1
          let s1 := b.2.countRefetch c sec true
          if b.1.secPois i = 0 then
            (s1.putSector c sec (toBytes 32 (b.1.sector i))).hostStore l0 (BitVec.allOnes 128) b.1
          else if a.1.secPois i = 0 then s1.putSector c sec (toBytes 32 (a.1.sector i))
          else s1.goldLost at_ c (32 * sec)

def execWeightRefetch (g : GroupAt) (store : CoreId) (off : BitVec 18) (s : State) : Host.Outcome State Fault Refusal :=
  .next (weightRefetchOp g store off s)

/-! ### Device reset -/

/-- The bytes of a line that lie in the `n` from an HBM offset. -/
def rangeMask (line off n : Nat) : LineMask :=
  let lo := max off (128 * line)
  byteMask (lo - 128 * line) (min (off + n) (128 * line + 128) - lo)

/-- `n` bytes from an HBM offset become undefined, whatever still waits to be written there: free values. (DEDUCED, log entry 15; unsafe.) -/
def State.undefine (s : State) (off n : Nat) : State :=
  let t := s.take
  { t.2 with
    mem := t.2.mem.writeBytes off ((List.range n).map (Config.freeByte t.1))
    homes := t.2.homes.mapVals fun h => { h with wq := h.wq.map fun e => { e with mask := e.mask &&& ~~~rangeMask e.line off n } } }

/-- A state whose line is dirty. -/
def Moesi.owned : Moesi → Bool
  | .m => true
  | .o => true
  | _ => false

/-- The line of which a message carries the only current data. -/
def Msg.dirtyLine : Msg → Option Nat
  | .wbd r w => if Moesi.owned w.st then some r.line else none
  | .data r st _ _ => if Moesi.owned st then some r.line else none
  | .dataF r _ dirty _ _ _ => if dirty then some r.line else none
  | .ack line _ _ d _ _ => if d.isSome then some line else none
  | _ => none

/-- Lines that are dirty in an L2 slice, its writeback buffer or on their way (R201, R382). -/
def State.dirtyLines (s : State) : List Nat :=
  let l2 := (s.clus.vals.map fun c =>
    ((c.l2.vals.filter fun l => Moesi.owned l.st).map (·.line)) ++ ((c.wbuf.filter fun w => Moesi.owned w.st).map (·.line))).flatten
  let msgs := (s.net ++ (s.homes.vals.map fun h => h.ingress ++ h.parked).flatten).filterMap Msg.dirtyLine
  let fills := (s.clus.vals.map fun c =>
    c.miss.vals.filterMap fun m => if (m.fill.map fun x => Moesi.owned x.st) == some true then some m.line else none).flatten
  let back := (s.homes.vals.map fun h => (h.txns.filter fun t => !t.dirties.isEmpty).map (·.line)).flatten
  (l2 ++ msgs ++ fills ++ back).foldl insertNat []

/-- Write-combining and eviction buffers drain to HBM, and the writes that wait in the pseudo-channels' queues are served; a controller in STOP issues
none, and its writes stay in the queues (R290, R294, R382). -/
def State.drainHomes (s : State) : State :=
  let s1 := s.homes.vals.foldl (fun s h => (h.evb.foldl (fun s e => s.evDrain e) (h.wcb.foldl (fun s e => s.wcbOut e) s))) s
  s1.homes.vals.foldl (fun s h => h.wq.foldl (fun s e =>
    if s.hbmRuns e.line then (s.onHome e.line fun h => { h with wq := h.wq.erase e }).writeMem e else s) s) s1

/-- A core after a reset: stopped and cleared; MX_STEPS stays (R102). -/
def Core.cleared (c : Core) : Core := { Core.init with arr := { Arr.init with steps := c.arr.steps } }

/-- Every core stops and what it holds is discarded, with no write-back; the bytes that a running launch may have written
are undefined (R382, R430). -/
def State.stopCores (s : State) : State :=
  let s1 := s.launches.vals.foldl (fun s la => la.wrote.foldl (fun s r => s.undefine r.1 r.2) s) s
  let busy := s.cores.entries.filter fun e => e.2.launch.isSome
  let s2 := busy.foldl (fun s e =>
    let k := cluOf (BitVec.ofNat 20 e.1)
    s.setClu k { s.clu k with idleSince := s.tb.now }) s1
  { s2 with cores := s2.cores.mapVals Core.cleared, launches := .empty }

/-- A cluster after a device reset: no line, the debug selections and counters cleared and thawed, and the fields of PW_ISL_VIEW at their reset values; an
island that this restarts issues from its next code on (R9, R193, R384, R393, R405, R460). -/
def Cluster.reset (c : Cluster) : Cluster :=
  let c1 := c.miss.keys.foldl (fun c t => c.freeMiss t) c
  { c1 with l2 := .empty, wbuf := [], stq := [], held := [], fillq := [], stale := 0, draining := false, csel := .empty, cnt := .empty, frozen := false,
            trigSeen := 0, nextCore := 0, nextGrp := 0, gated := false, stopped := false, latched := c.latched && !c.gated && !c.stopped, sD := 0,
            sT := 0, tj := 0 }

/-- A request of another module (R385). -/
def Msg.foreign : Msg → Bool
  | .req _ r _ => match r.who with
    | .remote _ _ _ _ => true
    | _ => false
  | _ => false

/-- A home after a device reset: the requests of other modules wait in the ingress and the writes of a controller in STOP in their queue (R296, R385); no transaction, slots freed under a new epoch, and the generation raised (R201, R203); MR_TEMP.LAST and
MR_THERM take their reset values (R9, R299). -/
def Home.reset (h : Home) : Home :=
  { h with
    txns := [], gq := [], rq := [], wq := h.wq.map fun e => { e with dir := none }, reps := [], dcache := [],
    ingress := (h.ingress ++ h.parked).filter Msg.foreign, parked := [], wcb := [], evb := [], stale := 0,
    hot := false, tlast := 0, tstate := 3,
    slots := h.slots.mapVals fun x => { SlotRec.init with ep := if x.used then x.ep + 1 else x.ep },
    dir := if h.gen = 0xFFFF then .empty else h.dir, gen := h.gen + 1 }

/-- A port returned to OFF with its registers at their reset values; its counters since power-up stay (R9, R273, R384). -/
def Port.reset (p : Port) (dir : BitVec 3) : Port :=
  { Port.init with
    dir := dir, fecCorr := p.fecCorr, fecUnc := p.fecUnc, crc := p.crc, replay := p.replay, retrain := p.retrain,
    stale := p.stale, proto := p.proto, flits := p.flits, out := p.out, present := p.present, fault := p.fault }

/-- Every port returns to OFF (R384, R430). -/
def State.portsOff (s : State) : State :=
  { s with ports := ⟨s.ports.entries.map fun e => (e.1, e.2.reset (portDir e.1))⟩ }

/-- Queues that a device reset closes: packets in flight are dropped and get no reply (R304, R386). DB_DONE, the undelivered replies and
QEPOCH stay, and the other registers of the page take their reset values (R9, R384). -/
def Queue.close (q : Queue) (st : QState) (code : Code) : Queue :=
  let r := { q with wptr := 0, rptr := 0, underrun := false, gap := false, poisTag := 0, reply := [0, 0, 0, 0], wlim := 0, kbase := 0,
                    krply := 0, ken := false, kver := 1, krlog := 6, ver := 0 }
  { r with pkts := [], latch := false, st := if q.st == .free || q.st == .hold then q.st else st,
           code := if q.st == .free || q.st == .hold then q.code else code }

/-- The step engine's side of a device reset: a step whose COMMIT node has started ends its batch's sequences (R384). -/
def State.resetStep (s : State) : State :=
  let nodes := match s.eng.prog with
    | some g => g.nodes
    | none => []
  let committed := s.eng.started.any fun i => (nodes.getD i .init).kind == 7
  let gone := if committed then s.eng.batch.map (·.rec_) else []
  let s1 := gone.foldl (fun s r => s.endSeq r) s
  { s1 with
    eng := { s1.eng.idle with prog := none, nextProg := none, psteps := [], count := 0 }
    fe := { s1.fe with rstEnded := BitVec.ofNat 13 gone.length, paused := 0, stepPoison := false } }

/-- The model's side: a load in phase 1 or 2 is a failed load, a later one ends in STATE NONE (R128, R349, R384). -/
def State.resetModel (s : State) (code : Code) : State :=
  match s.eng.load with
  | none => s
  | some l =>
    if s.eng.mphase.toNat ≤ 2 then { s with eng := { s.eng with mst := l.prev, mcode := code, load := none } }
    else
      { s with eng := { s.eng with
          mst := 0, mcode := code, load := none, modelId := 0, dig := 0, goldV := false, goldBase := 0, units := 0, shards := [], gold0 := [],
          gold1 := [], imgLen := 0 } }

/-- A nunatak's page after a device reset: its firmware, identity, strap reading, verdict and measurement stay; the quote registers and the floe to view
take their reset values (R9, R384, R435). -/
def Nunatak.reset (n : Nunatak) : Nunatak := { n with nonce := 0, qbusy := false, qdone := false, qref := false, qbuf := [], repSel := 0 }

/-- Registers whose reset value a device reset restores (R9); the error page and the counters since power-up stay. -/
def State.resetPages (s : State) : State :=
  { s with
    fe := { s.fe with
      qstale := 0, lchkV := false, lchkReason := 0, lchkCode := 0, lchkPc := 0, lchkQ := 0, lchkAsid := 0, dsel := 0, asSel := 0,
      xc := [], hwin := 0, hwinErrV := false, hwinErrCode := 0 }
    dg := { Debug.init with
      pcsTotal := s.dg.pcsTotal, pcsLost := s.dg.pcsLost, twDrop := s.dg.twDrop, trTotal := s.dg.trTotal, aoBusy := s.dg.aoBusy,
      aoIssue := s.dg.aoIssue, aoMx := s.dg.aoMx, aoStretch := s.dg.aoStretch, aoGated := s.dg.aoGated,
      aoReplay := s.dg.aoReplay, aoPoison := s.dg.aoPoison }
    pw := { s.pw with gateEn := false, gateIdle := 100, islSel := 0, ilim := false }
    ilvSel := 0, west := s.west.reset, east := s.east.reset
    rtrs := s.rtrs.mapVals fun r => { Router.init with flits := r.flits } }

/-- Every set descriptor is released, with its EPOCH advanced, and nothing is left in the network (R236, R384). -/
def State.dropFirn (s : State) : State :=
  let s1 := s.descs.keys.foldl (fun s d => s.dropDesc (BitVec.ofNat 16 d)) s
  { s1 with fnet := [], dnet := [], upAsm := [], dnAsm := [] }

/-- The module page of Amdon: every tag is freed with its TEPOCH advanced, and the registers take their reset values, which
unlocks the topology (R266, R274, R384). -/
def Amdon.reset (a : Amdon) : Amdon :=
  let used := a.tags.entries.filter fun e => e.2.use.isSome
  { Amdon.init with tags := (used.foldl (fun a e => a.dropTag e.1) a).tags, everLocked := a.everLocked }

def rstCode : RstCause → Code
  | .tilehang => 0x0203
  | _ => 0x0301

def rstNum : RstCause → BitVec 4
  | .host => 1
  | .tilehang => 2
  | _ => 3

/-- The reset itself (R384). The write-combining and eviction buffers drain first; then the undefined bytes of R382.
(DEDUCED, log entry 50; unsafe.) -/
def State.deviceReset (s : State) (cause : RstCause) : State :=
  let lines := s.dirtyLines
  let s1 := lines.foldl (fun s l => s.undefine (128 * l) 128) s.drainHomes.stopCores
  let s2 := ((s1.resetStep).resetModel (rstCode cause)).resetPages.dropFirn.portsOff
  let homes := (List.range 128).foldl (fun t f => t.put f (t.get f .init).reset) s2.homes
  let s3 : State := { s2 with
    clus := s2.clus.mapVals Cluster.reset, homes := homes, net := s2.net.filter Msg.foreign, ucResv := [], am := s2.am.reset,
    queues := s2.queues.mapVals fun q => q.close .lost (rstCode cause),
    fe := { s2.fe with
      rstCause := rstNum cause, rstBusy := true, rstCount := satAdd s2.fe.rstCount 1,
      fatal := match cause with
        | .fatalQueue => 1
        | .fatalStep => 2
        | _ => s2.fe.fatal } }
  match cause with
  | .host => s3
  | .tilehang => s3
  | _ => s3.logInternal

/-- DEVICE_RESET: a cause that arrives during a reset is counted only (R383). -/
def deviceResetOp (cause : RstCause) (s : State) : State :=
  if s.inHold || !s.pw.on then s
  else if s.fe.rstBusy then { s with fe := { s.fe with rstCount := satAdd s.fe.rstCount 1 } }
  else s.deviceReset cause

def execDeviceReset (cause : RstCause) (s : State) : Host.Outcome State Fault Refusal := .next (deviceResetOp cause s)

/-- Firmware copies the held module id and topology into AM_MID and AM_TOPO and sets EN on every port whose direction has a
neighbour (R262, R415, R432). With coordinates outside the topology, the ports of every dimension of more than one module are set, so that
they stay in DETECT with WHY 0xB. -/
def State.startLinks (s : State) (mid : ModId) (topo : BitVec 31) : State :=
  let s1 := if s.am.lock then s else { s with am := { s.am with mid := mid, topo := topo &&& 0x70007FFF#31 } }
  (List.range 32).foldl (fun s p =>
    let q := BitVec.ofNat 5 p
    let d := (s.port q).dir.toNat
    let has := if s.coordsOk s.mid then (s.neighbour d).isSome else s.dimSize (d / 2) != 1
    if d < 6 && has then amCtrlEnOp q true s else s) s1

/-- RESET_COMPLETE: once the buffers have drained to HBM (R382), BUSY clears, the homes take the requests that have come from other modules (R385), and firmware brings the links up again from the values the rack gave (R384, R432). -/
def resetCompleteOp (s : State) : State :=
  if !s.fe.rstBusy || s.homes.vals.any fun h => !h.wq.isEmpty then s
  else
    let s1 := s.homes.keys.foldl (fun s f => s.pumpHome (BitVec.ofNat 7 f)) { s with fe := { s.fe with rstBusy := false } }
    match s1.mgmt.topo with
    | some t => s1.startLinks t.1 t.2
    | none => s1

def execResetComplete (s : State) : Host.Outcome State Fault Refusal := .next (resetCompleteOp s)

end Sys2Proof.Machine
end

