-- ==== Sys2Proof/Machine/Tiles.lean ====
section
/-! DEFINITION. Tiles: dispatch, start, finish and the tile timer (R361 to R365), and the end of a launch (R164, R319, R381). -/
namespace Sys2Proof.Machine

/-- The front end runs: the module is powered, not in HOLD and not in a device reset (R385, R430). -/
def State.feRuns (s : State) : Bool := s.pw.on && !s.inHold && !s.fe.rstBusy

/-- A launch has a tile for the core: a placed one binds it, a free one has an undispatched tile and the core in its set (R361). -/
def Launch.offers (la : Launch) (c : CoreId) : Bool :=
  !la.stopping &&
    (if la.placed then la.binds.any (·.1 == c)
     else decide (la.next < la.ntile) && decide (la.csbase ≤ c.toNat) && decide (c.toNat < la.csbase + la.cscnt))

/-- The launch that a free core goes to (R362): a PLACED node of the step, then placed launches, then free launches, each in the order
the launches started. -/
def State.launchFor (s : State) (c : CoreId) : Option Nat :=
  let l := s.launches.entries.filter fun e => e.2.offers c
  match l.find? (fun e => e.2.placed && e.2.queue == 0xFFFF) with
  | some e => some e.1
  | none =>
    match l.find? (fun e => e.2.placed) with
    | some e => some e.1
    | none => (l.head?).map (·.1)

/-- A free core: every group of its last tile has finished and its store buffer is empty (R362). -/
def State.coreFree (s : State) (c : CoreId) : Bool := (s.core c).launch.isNone && (s.core c).sb.isEmpty

/-- A free launch's tile goes to the lowest-numbered free core that R361 allows, on a floe other than those of `busy` (R362). -/
def State.lowestFree (s : State) (l : Nat) (la : Launch) (c : CoreId) (busy : List Floe) : Bool :=
  !busy.contains (floeOf c) &&
    !((List.range (c.toNat - la.csbase)).any fun i =>
      let b : CoreId := BitVec.ofNat 20 (la.csbase + i)
      s.coreFree b && s.launchFor b == some l && !busy.contains (floeOf b))

/-- The floes that have received a tile in the dispatch cycle, once the core receives one: in the cycle under way, or in the next one when its
floe has had its tile or a lower core than the cycle allows is meant; none when the core is not the one that either cycle's tile goes to (R361,
R362). A time code ends the cycle under way. (DEDUCED, log entry 45; unsafe.) -/
def State.dispatchCycle (s : State) (l : Nat) (la : Launch) (c : CoreId) : Option (List Floe) :=
  let now := s.fe.dispatched
  if la.placed then some (if now.contains (floeOf c) then [floeOf c] else now ++ [floeOf c])
  else if s.lowestFree l la c now then some (now ++ [floeOf c])
  else if s.lowestFree l la c [] then some [floeOf c]
  else none

/-- Writes back the dirty lines of a core's L1 as far as its slice accepts them; true when none is left (R164, R194). -/
def State.flushL1 (s : State) (c : CoreId) : State × Bool :=
  ((s.core c).l1.entries.filter fun e => e.2.dirty != 0).foldl (fun (a : State × Bool) e =>
    match a.1.l1Evict c e.1 with
    | some s => (s, a.2)
    | none => (a.1, false)) (s, true)

/-- TILE_DISPATCH: a free core receives a tile of the launch, with the state of R43, R64 and R74; its registers of R71 are written. The
L1 is invalid unless the launch's own earlier tiles filled it (R19, R164). -/
def tileDispatchOp (l : Nat) (c : CoreId) (s : State) : State :=
  match s.launches.get? l with
  | none => s
  | some la =>
    if !s.feRuns || !s.coreFree c || s.launchFor c != some l then s
    else
      match s.dispatchCycle l la c with
      | none => s
      | some floes =>
        let own := (s.core c).l1of == some l
        let r := if own then (s, true) else s.flushL1 c
        if !r.2 then r.1
        else
          let k := r.1.core c
          let k1 := { Core.init with
            launch := some l, tile := if la.placed then 0 else la.next, mode := la.bim, ngrp := BitVec.ofNat 5 la.ngrp,
            valloc := BitVec.ofNat 9 la.valloc, spadUnits := BitVec.ofNat 11 la.spad, run := 1,
            l1 := if own then k.l1 else .empty, l1of := some l, sbSerial := k.sbSerial, instSerial := k.instSerial,
            arr := { Arr.init with steps := k.arr.steps } }
          let la1 := { la with live := la.live + 1, next := if la.placed then la.next else la.next + 1,
                               binds := la.binds.filter (·.1 != c) }
          ({ r.1 with fe := { r.1.fe with dispatched := floes } }.setCore c k1).setLaunch l la1

def execTileDispatch (launch : Nat) (core : CoreId) (s : State) : Host.Outcome State Fault Refusal :=
  .next (tileDispatchOp launch core s)

/-- Words 12 to 15 of a core's copy of the argument block (R115, R319). -/
def State.tileWords (s : State) (la : Launch) (c : CoreId) (tile : Nat) : List Word :=
  if la.placed then
    match s.eng.shards.find? fun x => x.core == c && x.holds la.layer la.role with
    | some x =>
      [BitVec.ofNat 32 (x.wsAt (x.instOf la.layer)), place 32 16 x.rowg ||| fldN 0 16 x.kblk0,
        fldN 0 8 x.nblk ||| fldN 8 8 la.passes, BitVec.ofNat 32 la.cols]
    | none => []
  else [BitVec.ofNat 32 tile, BitVec.ofNat 32 la.ntile]

/-- LMASK of a group of a block of `t` threads (R39). -/
def lmaskOf (t g : Nat) : BitVec 32 :=
  (List.range 32).foldl (fun m l => if 32 * g + l < t then m ||| (1#32) <<< l else m) 0

/-- The state of a group at launch (R43). -/
def Launch.group (la : Launch) (args : List Word) (g : Nat) : Group :=
  { Group.init with
    pc := BitVec.ofNat 48 la.entry, exec := lmaskOf la.nthr g, lmask := lmaskOf la.nthr g,
    sregs := (List.range 16).foldl (fun t i => if args.getD i 0 = 0 then t else t.put i (args.getD i 0)) .empty }

/-- TILE_START: the groups of a dispatched tile start, once their island runs, and the tile's timer with a time-stamp of the island (R362, R365,
R392, R393, R445). -/
def tileStartOp (c : CoreId) (s : State) : State :=
  let k := s.core c
  match k.launch with
  | none => s
  | some l =>
    match s.launches.get? l with
    | none => s
    | some la =>
      if k.started || la.stopping || !s.feRuns || !(s.clu (cluOf c)).runs || (s.clu (cluOf c)).draining then s
      else
        let args := la.args.take 12 ++ (s.tileWords la c k.tile ++ (la.args.drop 12).drop (s.tileWords la c k.tile).length)
        let t := s.stampOf (cluOf c)
        t.2.setCore c { k with
          started := true, timer := some t.1, held := 0,
          groups := (List.range la.ngrp).foldl (fun t g => t.put g (la.group args g)) .empty }

def execTileStart (core : CoreId) (s : State) : Host.Outcome State Fault Refusal := .next (tileStartOp core s)

/-- The core holds no block any more; its island may idle from now on (R445). -/
def State.freeCore (s : State) (c : CoreId) (f : Core → Core) : State :=
  let k := s.core c
  let s1 := s.setCore c (f { k with launch := none, started := false, timer := none })
  s1.setClu (cluOf c) { s1.clu (cluOf c) with idleSince := s1.tb.now }

/-- TILE_FINISH: every group has finished, the store buffer is empty, every outstanding answer has come and the router has read every FNPUT's
range (R234, R362). The core's groups count as arrived at the barriers of its launch from now on (R171). A group whose
remote store was lost stops the kernel at the launch's end (R267). (DEDUCED, log entry 45; unsafe.) -/
def tileFinishOp (c : CoreId) (s : State) : State :=
  let k := s.core c
  match k.launch with
  | none => s
  | some l =>
    match s.launches.get? l with
    | none => s
    | some la =>
      if !s.feRuns || la.stopping || !k.started || !(k.groups.vals.all (·.fin)) || !k.sb.isEmpty || !k.ucOut.isEmpty ||
          !k.puts.isEmpty then s
      else
        let lost := (k.groups.entries.filter fun e => e.2.lostStore).map fun e => (c, BitVec.ofNat 4 e.1, e.2.lastPc, e.2.lostCode)
        let la1 := { la with live := la.live - 1, lost := la.lost ++ lost, ended := la.ended ++ [c],
                             cluBar := la.cluBar.filter (·.2 != c.toNat) }
        (s.freeCore c fun k => { k with run := 0 }).setLaunch l la1

def execTileFinish (core : CoreId) (s : State) : Host.Outcome State Fault Refusal := .next (tileFinishOp core s)

/-- The cores on which a tile of the launch is resident. -/
def State.coresOf (s : State) (l : Nat) : List CoreId :=
  (s.cores.entries.filter fun e => e.2.launch == some l).map fun e => BitVec.ofNat 20 e.1

/-- The launch has nothing more to run: every tile has finished, or a kernel error has stopped it and every store that had issued has
drained (R362, R381). -/
def State.launchOver (s : State) (l : Nat) (la : Launch) : Bool :=
  if la.stopping then (s.coresOf l).all fun c => (s.core c).sb.isEmpty && (s.core c).ucOut.isEmpty
  else la.live == 0 && (if la.placed then la.binds.isEmpty else la.next == la.ntile)

/-- The cores whose L1 a launch's tiles filled. -/
def State.cachesOf (s : State) (l : Nat) : List CoreId :=
  (s.cores.entries.filter fun e => e.2.l1of == some l).map fun e => BitVec.ofNat 20 e.1

/-- The lowest-numbered core whose lost store stops the kernel at the launch's end (R267, R319). The core records the error unless
it already runs another tile. -/
def State.lostAtEnd (s : State) (l : Nat) (la : Launch) : State × Launch :=
  la.lost.foldl (fun (a : State × Launch) x =>
    let k := a.1.core x.1
    let s1 := if k.launch.isNone && k.l1of == some l && !k.errSeen then
        a.1.setCore x.1 { k with errValid := true, errGrp := x.2.1, errCode := x.2.2.2, epc := x.2.2.1, errSeen := true, run := 2 }
      else a.1
    let low := a.2.errCode == 0 || x.1 < a.2.errCore
    (s1, { a.2 with errCore := if low then x.1 else a.2.errCore, errCode := if low then x.2.2.2 else a.2.errCode })) (s, la)

/-- A stopped core takes part in no barrier it had not left: its rounds of BARRIER descriptors count as taken. -/
def State.leaveBarriers (s : State) (c : CoreId) : State :=
  { s with descs := ⟨s.descs.entries.map fun e =>
      (e.1, if e.2.isBarrier && e.2.put_.has c.toNat then { e.2 with taken := e.2.taken.put c.toNat (e.2.put_.get c.toNat 0) } else e.2)⟩ }

/-- The cores that a kernel error has stopped are free again; what the routers had still to read of their FNPUTs is dropped. A core that has
recorded an error keeps RUN 2 until its next tile, another one is idle. (DEDUCED, log entry 45; unsafe.) -/
def State.releaseCores (s : State) (l : Nat) : State :=
  (s.coresOf l).foldl (fun s c =>
    ((s.freeCore c fun k => { k with groups := .empty, ucRes := [], puts := [], run := if k.errSeen then 2 else 0 }).leaveBarriers c)) s

/-- What a launch's end reports: the LAUNCH reply (R319), or the end of its step-program node (R116). -/
def State.reportLaunch (s : State) (l : Nat) (la : Launch) : State :=
  let s1 := { s with launches := s.launches.del l }
  if la.queue != 0xFFFF then
    s1.finishPkt la.queue la.serial la.errCode 0 0 (if la.errCode == 0 then 0 else la.errCore.setWidth 32)
  else if la.errCode != 0 then s1.nodeFails la.node (if la.anyPoison then 0x0301 else la.errCode)
  else
    let s2 := s1.nodeDone la.node
    if s2.eng.failCode != 0 && !s2.stepRuns then s2.closeFailed else s2

/-- LAUNCH_COMPLETE: the release of R164, which writes back every dirty L1 line of the launch and performs every store of it, and then
its report. A command that finds a line or a store still to do advances the release and leaves the launch. -/
def launchCompleteOp (l : Nat) (s : State) : State :=
  match s.launches.get? l with
  | none => s
  | some la =>
    if !s.feRuns || !s.launchOver l la then s
    else
      let ids := s.cachesOf l
      let r := ids.foldl (fun (a : State × Bool) c =>
        let b := a.1.flushL1 c; (b.1, a.2 && b.2)) (s, true)
      let queued := (r.1.clus.vals.any fun k => k.stq.any fun e => e.lid == some l) ||
        r.1.cores.vals.any fun k => k.ucOut.any fun u => u.store && u.lid == some l
      if !r.2 || queued then r.1
      else
        let e := r.1.lostAtEnd l la
        (e.1.releaseCores l).reportLaunch l e.2

def execLaunchComplete (launch : Nat) (s : State) : Host.Outcome State Fault Refusal := .next (launchCompleteOp launch s)

/-- TILE_TIMER_EXPIRY: a tile whose timer, read with a time-stamp of its island, exceeds 4 × BOUND × 64 ns before its last group finishes
resets the device (R365, R392). -/
def tileTimerExpiryOp (c : CoreId) (s : State) : State :=
  let k := s.core c
  match k.launch, k.timer with
  | some l, some t =>
    let now := s.stampOf (cluOf c)
    let ran := now.1.toNat - t.toNat - k.held.toNat
    if s.feRuns && !(k.groups.vals.all (·.fin)) && decide (4 * (s.launches.get l .init).bound * 64 < ran) then now.2.deviceReset .tilehang
    else s
  | _, _ => s

def execTileTimerExpiry (core : CoreId) (s : State) : Host.Outcome State Fault Refusal := .next (tileTimerExpiryOp core s)

end Sys2Proof.Machine
end

