-- ==== Sys2Proof/Machine/Power.lean ====
section
/-! DEFINITION. Clock islands and power gating (R197, R393, R443 to R445), the power stage (R436 to R441), coolant (R458) and the
cage inputs (R447). -/
namespace Sys2Proof.Machine

/-! ### Clock islands -/

/-- CLOCK_STOP: the island's supply falls below 0.90 of its setpoint; its clock stops until a restart, and no code latched before the stop
serves after it (R393, R444). The droop stretch is at least 8, by a free amount. -/
def clockStopOp (c : Clu) (s : State) : State :=
  let t := s.take
  let k := s.clu c
  if !s.pw.on || k.gated then s
  else t.2.setClu c { k with stopped := true, latched := false, sD := max k.sD (8 + (Config.freeWord t.1 0).toNat % 25) }

def execClockStop (clu : Clu) (s : State) : Host.Outcome State Fault Refusal := .next (clockStopOp clu s)

/-- CLOCK_RESTART: the supply exceeds 0.93 of its setpoint; issue waits for the next time code (R393). -/
def clockRestartOp (c : Clu) (s : State) : State :=
  let k := s.clu c
  if k.stopped then s.setClu c { k with stopped := false, latched := false } else s

def execClockRestart (clu : Clu) (s : State) : Host.Outcome State Fault Refusal := .next (clockRestartOp clu s)

/-- SUPPLY_DROOP: below 0.95 of the setpoint sD is at least 8, by a free amount, and at most 32 (R444). -/
def supplyDroopOp (c : Clu) (s : State) : State :=
  let t := s.take
  let k := s.clu c
  if !s.pw.on || k.gated then s else t.2.setClu c { k with sD := max k.sD (8 + (Config.freeWord t.1 0).toNat % 25) }

def execSupplyDroop (clu : Clu) (s : State) : Host.Outcome State Fault Refusal := .next (supplyDroopOp clu s)

/-- DROOP_RECOVERY_TICK: sD falls by 1 (R444). -/
def droopRecoveryTickOp (c : Clu) (s : State) : State :=
  let k := s.clu c
  if k.stopped then s else s.setClu c { k with sD := k.sD - 1 }

def execDroopRecoveryTick (clu : Clu) (s : State) : Host.Outcome State Fault Refusal := .next (droopRecoveryTickOp clu s)

/-- The thermal stretch of a junction temperature (R444). -/
def thermalStretch (c : Nat) : Nat := if c < 95 then 0 else min 32 (2 * (c - 95))

/-- TJ_SAMPLE (R444). -/
def tjSampleOp (c : Clu) (celsius : BitVec 8) (s : State) : State :=
  let k := s.clu c
  if s.pw.on then s.setClu c { k with tj := celsius, tjHot := 120 ≤ k.tj.toNat, sT := thermalStretch celsius.toNat } else s

def execTjSample (clu : Clu) (celsius : BitVec 8) (s : State) : Host.Outcome State Fault Refusal := .next (tjSampleOp clu celsius s)

/-- The state from which power returns: that of reset, with the queue of waiting commands and the count of free values kept. -/
def State.restart (s : State) : State := { State.reset with pending := s.pending, fresh := s.fresh }

/-- Every rail but the always-on rail is off: the rest of the module's state is lost; the time base, the management controller and the
power stage's readings stay (R439, R441). (DEDUCED, log entry 52; unsafe.) -/
def State.railsOff (s : State) : State :=
  { s.restart with
    tb := s.tb, mgmt := s.mgmt,
    pw := { Power.init with
      on := false, pgOut := false, lowv := s.pw.lowv, highv := s.pw.highv, cool := s.pw.cool, rfault := s.pw.rfault,
      ttrip := s.pw.ttrip, vin := s.pw.vin, tout := s.pw.tout, tin := s.pw.tin } }

/-- THERMAL_TRIP: two consecutive samples of an island at 120 °C or above (R439, R444). -/
def thermalTripOp (c : Clu) (s : State) : State :=
  let k := s.clu c
  if s.pw.on && k.tjHot && decide (120 ≤ k.tj.toNat) then
    { s.railsOff with pw := { s.railsOff.pw with ttrip := true } }
  else s

def execThermalTrip (clu : Clu) (s : State) : Host.Outcome State Fault Refusal := .next (thermalTripOp clu s)

/-! ### Power gating -/

/-- The cores of a cluster. -/
def coresIn (c : Clu) : List CoreId := (List.range 64).map fun i => BitVec.ofNat 20 (64 * c.toNat + i)

/-- Nothing is left to drain in the cluster. -/
def Cluster.drained (k : Cluster) : Bool := k.l2.entries.isEmpty && k.wbuf.isEmpty && k.miss.entries.isEmpty && k.stq.isEmpty && k.held.isEmpty

/-- ISLAND_GATE: an island without a block for IDLE µs drains in the order of R197 (store buffers, M and O lines, E and S lines), over as many of these commands as the write-back buffer and the
answers of the homes take, and then gates its power (R445). (DEDUCED, log entry 53; unsafe.) -/
def islandGateOp (c : Clu) (s : State) : State :=
  let k := s.clu c
  let idle := (coresIn c).all fun i => (s.core i).launch.isNone
  let due := idle && decide (k.idleSince.toNat + 1000 * s.pw.gateIdle.toNat ≤ s.tb.now.toNat)
  if !s.pw.on || k.gated || !k.runs then s
  else if !s.pw.gateEn then s.setClu c { k with draining := false }
  else if !(k.draining || due) then s
  else
    let r := (coresIn c).foldl (fun (a : State × Bool) i =>
      let b := a.1.flushL1 i
      let s1 := b.1.onCore i fun x => if x.launch.isNone && b.2 then { x with l1 := .empty, l1of := none } else x
      (s1, a.2 && b.2 && (s1.core i).sb.isEmpty)) (s, true)
    let leave (p : L2Line → Bool) (s : State) : State :=
      ((s.clu c).l2.entries.filter fun e => p e.2).foldl (fun s e => s.drainLine c e.1 e.2) s
    let dirty (l : L2Line) : Bool := l.st == .m || l.st == .o
    let s1 := if r.2 && (r.1.clu c).stq.isEmpty then leave dirty r.1 else r.1
    let s2 := if r.2 && (s1.clu c).stq.isEmpty && !(s1.clu c).l2.vals.any dirty then leave (fun _ => true) s1 else s1
    let k1 := s2.clu c
    if r.2 && k1.drained then s2.setClu c { k1 with draining := false, gated := true, latched := false, fillq := [] }
    else s2.setClu c { k1 with draining := true }

def execIslandGate (clu : Clu) (s : State) : Host.Outcome State Fault Refusal := .next (islandGateOp clu s)

/-- ISLAND_WAKE: a tile dispatched to a gated island wakes it; issue waits for the next time code (R393, R445). -/
def islandWakeOp (c : Clu) (s : State) : State :=
  let k := s.clu c
  if k.gated && (coresIn c).any fun i => (s.core i).launch.isSome then s.setClu c { k with gated := false, latched := false } else s

def execIslandWake (clu : Clu) (s : State) : Host.Outcome State Fault Refusal := .next (islandWakeOp clu s)

/-! ### The power stage -/

/-- POWER_UP: contact above the turn-on threshold brings the rails up in the order of R440; PG_OUT is asserted (R414, R440). A module that
is powered, or that a thermal trip or rail fault has turned off with its input present, is left as it is (R439, R441). -/
def powerUpOp (s : State) : State := if s.pw.aon then s else s.restart

def execPowerUp (s : State) : Host.Outcome State Fault Refusal := .next (powerUpOp s)

/-- INPUT_POWER_LOSS: everything is lost, the always-on domain included (R382, R439). -/
def inputPowerLossOp (s : State) : State :=
  { s.restart with pw := { Power.init with on := false, aon := false, pgOut := false } }

def execInputPowerLoss (s : State) : Host.Outcome State Fault Refusal := .next (inputPowerLossOp s)

/-- INPUT_VOLTAGE_CHANGE: LOWV between 43 V and 46 V, HIGHV between 58 V and 60 V (R438). -/
def inputVoltageChangeOp (mv : BitVec 16) (s : State) : State :=
  if !s.pw.aon then s
  else
    { s with pw := { s.pw with
        vin := mv, lowv := decide (43000 ≤ mv.toNat) && decide (mv.toNat < 46000),
        highv := decide (58000 < mv.toNat) && decide (mv.toNat ≤ 60000) } }

def execInputVoltageChange (mv : BitVec 16) (s : State) : Host.Outcome State Fault Refusal := .next (inputVoltageChangeOp mv s)

/-- CURRENT_LIMIT: the input current is held at its limit and ILIM is set (R437). -/
def currentLimitOp (s : State) : State :=
  if s.pw.on then { s with pw := { s.pw with ilim := true, iin := BitVec.ofNat 16 (inputLimit s.pw.vin.toNat) } } else s

def execCurrentLimit (s : State) : Host.Outcome State Fault Refusal := .next (currentLimitOp s)

/-- RAIL_FAULT: a rail other than the always-on rail leaves regulation after step 6 (R441). -/
def railFaultOp (s : State) : State :=
  if s.pw.on then { s.railsOff with pw := { s.railsOff.pw with rfault := true } } else s

def execRailFault (s : State) : Host.Outcome State Fault Refusal := .next (railFaultOp s)

/-- COOLANT_CONDITION: COOL while the inlet exceeds 35 °C or the outlet exceeds the inlet by more than 20 K (R458). -/
def coolantConditionOp (inlet outlet : BitVec 8) (s : State) : State :=
  if !s.pw.aon then s
  else
    { s with pw := { s.pw with
        tin := inlet, tout := outlet, cool := decide (35 < inlet.toNat) || decide (inlet.toNat + 20 < outlet.toNat) } }

def execCoolantCondition (inlet outlet : BitVec 8) (s : State) : Host.Outcome State Fault Refusal :=
  .next (coolantConditionOp inlet outlet s)

/-- CAGE_PRESENCE_FAULT: the filtered inputs of a cage (R447, R456). (DESIGN CHOICE, log entry 22; unsafe.) -/
def cagePresenceFaultOp (port : PortId) (present fault : Bool) (s : State) : State :=
  s.setPort port { s.port port with present := present, fault := fault }

def execCagePresenceFault (port : PortId) (present fault : Bool) (s : State) : Host.Outcome State Fault Refusal :=
  .next (cagePresenceFaultOp port present fault s)

end Sys2Proof.Machine
end

