-- ==== Sys2Proof/Machine/Boot.lean ====
section
/-! DEFINITION. Power-up, identity and the nunataks (R414 to R434): the boot stages, the strap and heartbeat, HOLD, quotes, and the
management port. -/
namespace Sys2Proof.Machine

def State.nt (s : State) (side : Side) : Nunatak :=
  match side with
  | .west => s.west
  | .east => s.east

def State.setNt (s : State) (side : Side) (n : Nunatak) : State :=
  match side with
  | .west => { s with west := n }
  | .east => { s with east := n }

/-- The other nunatak. -/
def peerSide : Side → Side
  | .west => .east
  | .east => .west

/-- The side that is primary under the latched strap readings (R427). -/
def State.primarySide (s : State) : Side := if s.primaryEast then .east else .west

/-- NT_BOOT.STAGE of both nunataks (R415). -/
def State.setStage (s : State) (k : Nat) : State := s.onNunataks fun n => { n with stage := k }

/-- The boot stages run: the module is powered and not in HOLD. -/
def State.booting (s : State) (stage : Nat) : Bool := s.pw.on && !s.inHold && s.primary.stage == stage

/-! ### Stage ROM, straps and heartbeat -/

/-- Stage ROM ends when the time base runs, both identity engines are done, both straps are latched and the heartbeat is established
(R415). -/
def State.bootAdvance (s : State) : State :=
  let up (n : Nunatak) : Bool := n.idst != 0 && n.latchSet && n.pvalid
  if s.booting 0 && s.tb.running && up s.west && up s.east then s.setStage 1 else s

/-- A record of the EEPROM, `n` bytes at an offset (R423). -/
def eepRecord (off n : Nat) : EepRecord :=
  ⟨(List.range (n - 4)).map fun i => Config.eepromByte (off + i), ofBytes 32 ((List.range 4).map fun i => Config.eepromByte (off + n - 4 + i))⟩

/-- The records of the EEPROM at the offsets of R423. -/
def readEeprom : Eeprom :=
  { modRec := eepRecord 0 256, helperW := eepRecord 0x100 4096, helperE := eepRecord 0x1100 4096, certW := eepRecord 0x2100 4096,
    certE := eepRecord 0x3100 4096, certP := eepRecord 0x4100 4096 }

/-- A nunatak's identity engine: STATE is FAIL on a bad CRC of the helper data or a reading that cannot be corrected, MISMATCH when the public key is not that
of the own certificate, and OK otherwise (R424). (DEDUCED, log entry 58; unsafe.) -/
def Eeprom.identity (e : Eeprom) (side : Side) (reading : Nat) (n : Nunatak) : Nunatak :=
  let r := match side with
    | .west => (e.helperW, e.certW)
    | .east => (e.helperE, e.certE)
  if n.idst != 0 then n
  else if crc32c r.1.data != r.1.crc then { n with idst := 2 }
  else
    match Config.pufKey (side == .east) r.1.data reading with
    | none => { n with idst := 2 }
    | some d => { n with idKey := d, idst := if Config.certKey r.2.data == curveMul d.toNat curveG then 1 else 3 }

/-- ROM: the time base starts, the EEPROM is read, and both identity engines reconstruct their keys (R390, R415, R423, R424). -/
def romOp (s : State) : State :=
  if !s.booting 0 then s
  else
    let a := s.take
    let b := a.2.take
    State.bootAdvance
      { b.2 with
        tb := { s.tb with running := true }
        eeprom := readEeprom
        west := readEeprom.identity .west a.1 s.west
        east := readEeprom.identity .east b.1 s.east
        mgmt := { s.mgmt with serial := (List.range 16).map Config.serialByte } }

def execRom (s : State) : Host.Outcome State Fault Refusal := .next (romOp s)

/-- STRAP_ACCEPT: a level held for 10 ms; the first is latched (R427). -/
def strapAcceptOp (side : Side) (level : Bool) (s : State) : State :=
  if !s.pw.on then s
  else
    let n := s.nt side
    (s.setNt side { n with live := level, latch := if n.latchSet then n.latch else level, latchSet := true }).bootAdvance

def execStrapAccept (side : Side) (level : Bool) (s : State) : Host.Outcome State Fault Refusal := .next (strapAcceptOp side level s)

/-- The module's part of HOLD: the cores stop and lose what they hold, every queue goes to HOLD and every port to OFF; the time base and
the management controller keep running (R430). -/
def State.holdModule (s : State) : State :=
  let s1 := s.stopCores.portsOff
  { s1 with queues := s1.queues.mapVals fun q => { q with pkts := [], latch := false, st := .hold, code := 0x0501 } }

/-- A nunatak enters HOLD and keeps the first cause (R429). (DEDUCED, log entry 57; unsafe.) -/
def State.enterHold (s : State) (side : Side) (why : BitVec 4) : State :=
  let n := s.nt side
  if n.hold then s
  else
    let s1 := s.setNt side { n with hold := true, hwhy := why }
    if s.inHold then s1 else s1.holdModule

/-- STRAP_LIVE_MISMATCH: the live level has differed from the latched reading for 10 ms (R429). -/
def strapLiveMismatchOp (side : Side) (s : State) : State :=
  let n := s.nt side
  if s.pw.on && n.latchSet && n.live != n.latch then s.enterHold side 4 else s

def execStrapLiveMismatch (side : Side) (s : State) : Host.Outcome State Fault Refusal := .next (strapLiveMismatchOp side s)

/-- The nunatak believes itself primary (R427, R428). -/
def believesPrimary (side : Side) (n : Nunatak) : Bool :=
  match side with
  | .west => !n.latch
  | .east => n.latch

/-- The frame that a nunatak's hardware builds (R428). -/
def heartbeat (side : Side) (n : Nunatak) : BitVec 64 :=
  let body : List Byte := toBytes 2 n.seq ++
    [flagAt 8 0 n.latch ||| flagAt 8 1 (believesPrimary side n) ||| flagAt 8 2 n.hold ||| flagAt 8 3 n.fwOn, BitVec.ofNat 8 n.stage]
  ofBytes 64 (body ++ toBytes 4 (crc32c body))

/-- Firmware has written NT_HB_KICK within the last 10 ms (R428). -/
def Nunatak.kicked (n : Nunatak) (now : BitVec 64) : Bool :=
  match n.kick with
  | none => false
  | some t => decide (now.toNat ≤ t.toNat + 10000000)

/-- HEARTBEAT_SEND: once firmware runs, only while it has kicked within 10 ms (R428). -/
def heartbeatSendOp (side : Side) (s : State) : State :=
  let n := s.nt side
  if !s.pw.on || !n.latchSet || (n.fwOn && !n.kicked s.tb.now) then s
  else s.setNt side { n with frames := n.frames ++ [heartbeat side n], seq := n.seq + 1 }

def execHeartbeatSend (side : Side) (s : State) : Host.Outcome State Fault Refusal := .next (heartbeatSendOp side s)

/-- HEARTBEAT_FRAME: a frame reaches a nunatak; one with a bad CRC is ignored. A reading other than its own, or a sender in HOLD, puts the
nunatak in HOLD (R428, R429). -/
def heartbeatFrameOp (side : Side) (f : BitVec 64) (s : State) : State :=
  if !s.pw.on then s
  else
    let p := s.nt (peerSide side)
    let s1 := s.setNt (peerSide side) { p with frames := p.frames.erase f }
    if crc32c ((toBytes 8 f).take 4) != bits f 32 32 then s1
    else
      let n := s1.nt side
      let s2 := s1.setNt side { n with pvalid := true, peer := bitAt f 16, pseq := bits f 0 16, lastFrame := s1.tb.now }
      let s3 := if n.latchSet && bitAt f 16 != n.latch then s2.enterHold side 1
        else if bitAt f 18 then s2.enterHold side 3
        else s2
      s3.bootAdvance

def execHeartbeatFrame (side : Side) (frame : BitVec 64) (s : State) : Host.Outcome State Fault Refusal :=
  .next (heartbeatFrameOp side frame s)

/-- HEARTBEAT_TIMEOUT: no valid frame for 1 ms, counted from 15 ms after power good (R429). -/
def heartbeatTimeoutOp (side : Side) (s : State) : State :=
  let n := s.nt side
  let since := max 15000000 (if n.pvalid then n.lastFrame.toNat else 0)
  if s.pw.on && s.tb.running && decide (since + 1000000 ≤ s.tb.now.toNat) then s.enterHold side 2 else s

def execHeartbeatTimeout (side : Side) (s : State) : Host.Outcome State Fault Refusal := .next (heartbeatTimeoutOp side s)

/-- NT_HB_KICK, written by firmware (R428, R435). -/
def ntHbKickOp (side : Side) (s : State) : State :=
  let n := s.nt side
  if s.pw.on && n.fwOn then s.setNt side { n with kick := some s.tb.now } else s

def execNtHbKick (side : Side) (s : State) : Host.Outcome State Fault Refusal := .next (ntHbKickOp side s)

/-! ### The firmware image -/

/-- The 256 B header and the body of the image in a boot window (R419). -/
def imgHeader (m : Memory) : List Byte := m.readBytes 0 256
def imgField (h : List Byte) (o n : Nat) : Nat := natOfBytes ((h.drop o).take n)
def imgBody (m : Memory) : List Byte := m.readBytes 256 (imgField (imgHeader m) 12 4)

/-- MAGIC, FMT, the RSVD bytes, LENGTH and ENTRY as R419 asks. -/
def imgFormatOk (h : List Byte) : Bool :=
  let len := imgField h 12 4
  let entry := imgField h 16 4
  imgField h 0 4 == 0x3146544E && imgField h 4 2 == 1 && imgField h 7 1 == 0 && ((h.drop 20).take 140).all (· == 0) &&
    decide (4 ≤ len) && decide (len ≤ 3145728) && len % 4 == 0 && entry % 4 == 0 && decide (entry < len)

/-- The measurement: SHA-384 of header bytes 0 to 159 and the body (R420). -/
def imgMeasure (m : Memory) : BitVec 384 := ofBytes 384 (sha384 ((imgHeader m).take 160 ++ imgBody m))

/-- RESULT of the ROM's check of an image: 1 accepted, 2 FORMAT, 3 SIGNATURE (R420). -/
def imgResult (m : Memory) : BitVec 4 :=
  let h := imgHeader m
  let slot := imgField h 6 1
  let key := Config.romKey slot
  if !imgFormatOk h then 2
  else if 1 < slot || !ecdsaOk (some (key.1.toNat, key.2.toNat)) (toBytes 48 (imgMeasure m)) (imgField h 160 48) (imgField h 208 48) then 3
  else 1

/-- BOOT_GO: the primary's ROM verifies the boot window; no effect outside WAITIMG or on the secondary. A rejected image changes RESULT
only, and the window is cleared (R420, R435). -/
def bootGoOp (side : Side) (s : State) : State :=
  if !s.booting 1 || side != s.primarySide then s
  else
    let n := s.nt side
    let r := imgResult n.window
    if r == 1 then (s.setNt side { n with meas := imgMeasure n.window, accepted := true }).setStage 2
    else s.setNt side { n with result := r, window := ⟨[]⟩ }

def execBootGo (side : Side) (s : State) : Host.Outcome State Fault Refusal := .next (bootGoOp side s)

/-- The image in the secondary's boot memory: a copy of the primary's, in which the link may have changed a byte. -/
def copied (m : Memory) (e : Option (Nat × Byte)) : Memory :=
  match e with
  | none => m
  | some (i, b) => if i < 256 + (imgBody m).length then m.write i b else m

/-- PEER_VERIFY: the image is copied into the secondary's boot memory, its ROM checks the copy and measures it as the primary's did, and the two
exchange their measurements. With both accepting and the measurements equal, firmware starts in both; else both report PEER and wait for an image again
(R420, R421). -/
def peerVerifyOp (s : State) : State :=
  let p := s.primary
  let side := s.primarySide
  if !s.booting 2 || !p.accepted then s
  else
    let t := s.take
    let copy := copied p.window (Config.copyError t.1)
    let q := t.2.nt (peerSide side)
    let meas := if imgResult copy == 1 then imgMeasure copy else q.meas
    let t1 := (t.2.setNt side { p with peerMeas := meas }).setNt (peerSide side) { q with window := copy, meas := meas, peerMeas := p.meas }
    if imgResult copy == 1 && meas == p.meas then
      t1.onNunataks fun n =>
        { n with result := 1, imgver := BitVec.ofNat 32 (imgField (imgHeader p.window) 8 4), fwOn := true, kick := none, accepted := true, stage := 3 }
    else t1.onNunataks fun n => { n with result := 4, accepted := false, stage := 1 }

def execPeerVerify (s : State) : Host.Outcome State Fault Refusal := .next (peerVerifyOp s)

/-! ### Self-test, HBM, links and time -/

/-- SELFTEST: the repair map takes effect, and every weight store and scratchpad reads 0. A fabric failure keeps the stage (R33, R418). -/
def selftestOp (r : SelfTestReport) (s : State) : State :=
  if !s.booting 3 || s.primary.result == 5 then s
  else if !r.fabricOk then s.onNunataks fun n => { n with result := 5 }
  else
    let s1 := s.setStage 4
    { s1 with
      failedClu := (r.failed.filter fun c => c < 16896).foldl insertNat [], mapped := true, ws := ⟨[]⟩,
      cores := s1.cores.mapVals fun c => { c with spad := ⟨[]⟩, spadPois := [] } }

def execSelftest (r : SelfTestReport) (s : State) : Host.Outcome State Fault Refusal := .next (selftestOp r s)

/-- Failed DQ, ECC and DBI lanes of a pseudo-channel in ascending order (R297). -/
def badLanes (l : List (BitVec 8)) : List Nat := ((l.map (·.toNat)).filter (· < 40)).foldl insertNat []

/-- Lanes replaced by the two spares of a pseudo-channel, as MR_CH_REP codes them (R297, R300). -/
def repHalf (l : List Nat) : BitVec 16 := BitVec.ofNat 8 (l.getD 1 0xFF) ++ BitVec.ofNat 8 (l.getD 0 0xFF)

/-- A channel after training: lanes repaired, or mapped out (R297, R298). -/
def trainChan (r : ChanReport) : Chan :=
  let l0 := badLanes r.lanes0
  let l1 := badLanes r.lanes1
  { Chan.init with
    st := if r.caFail then 1 else if 2 < l0.length || 2 < l1.length || r.testFail then 2 else 0
    sp0 := BitVec.ofNat 2 (min 2 l0.length)
    sp1 := BitVec.ofNat 2 (min 2 l1.length)
    rep := repHalf l1 ++ repHalf l0 }

/-- The channels of a floe's controller after training (R297, R298). -/
def trainFloe (r : List ChanReport) (f : Nat) : Tab Chan :=
  let mine := r.filter fun x => x.floe.toNat == f
  if mine.any (·.stackFail) then ⟨(List.range 16).map fun c => (c, { Chan.init with st := 3 })⟩
  else (mine.reverse).foldl (fun t x => t.put x.ch.toNat (trainChan x)) .empty

/-- The live-channel table: the sequence of R281 without the channels not in service. -/
def liveTable (homes : Tab Home) : List Nat :=
  (List.range 2048).filterMap fun j =>
    let c := j / 128
    let p := j % 128
    let f := p / 2 + 64 * (p % 2)
    if (((homes.get f .init).chans.get c .init).st) == 0 then some (16 * f + c) else none

/-- HBM_TRAINING: lane repair and map-out, the live-channel table, and every line zero with its directory entry UNC and GEN 0. Every
controller but that of a failed stack has taken its first temperature reading (R201, R281, R295, R297, R298). -/
def hbmTrainingOp (r : List ChanReport) (s : State) : State :=
  let out (f : Nat) : Bool := r.any fun x => x.floe.toNat == f && x.stackFail
  let read := (List.range 128).all fun f => out f || (s.homes.get f .init).tvalid
  if !s.booting 4 || !read then s
  else
    let homes := (List.range 128).foldl (fun t f =>
      let h := t.get f .init
      t.put f { h with chans := trainFloe r f, dir := .empty, gen := 0 }) s.homes
    { s.setStage 5 with homes := homes, live := liveTable homes, mem := ⟨[]⟩, poison := [] }

def execHbmTraining (r : List ChanReport) (s : State) : Host.Outcome State Fault Refusal := .next (hbmTrainingOp r s)

/-- A port has come to the end of its training (R415). -/
def portSettled (p : Port) : Bool := p.st == .active || p.st == .down || p.st == .miswired

/-- LINKS: waits for the rack's values with SWAIT 1; the first command with them starts the ports; a later one ends the stage when every such
port has settled, or 100 ms after EN (R262, R415, R432). -/
def linksOp (s : State) : State :=
  if !s.booting 5 then s
  else
    match s.mgmt.topo, s.am.linkStart with
    | none, _ => s.onNunataks fun n => { n with swait := 1 }
    | some t, none =>
      let s1 := (s.onNunataks fun n => { n with swait := 0 }).startLinks t.1 t.2
      { s1 with am := { s1.am with linkStart := some s1.tb.now } }
    | some _, some t0 =>
      if (s.ports.vals.filter (·.en)).all portSettled || decide (t0.toNat + 100000000 ≤ s.tb.now.toNat) then s.setStage 6 else s

def execLinks (s : State) : Host.Outcome State Fault Refusal := .next (linksOp s)

/-- SYNC: the module reaches READY once TB_STAT.SYNC is set; SWAIT gives the reason while it is not (R396, R415, R434). -/
def syncOp (s : State) : State :=
  if !s.booting 6 then s
  else if s.tb.sync then s.onNunataks fun n => { n with stage := 7, swait := 0 }
  else
    let why : BitVec 4 := if s.isChild then (if s.parentUp then 3 else 2) else 4
    s.onNunataks fun n => { n with swait := why }

def execSync (s : State) : Host.Outcome State Fault Refusal := .next (syncOp s)

/-! ### Quotes -/

/-- QUOTE: NT_QCTL.GO; refused unless NT_ID.STATE is OK, and without effect while BUSY is 1 (R424, R426). -/
def quoteOp (side : Side) (s : State) : State :=
  let n := s.nt side
  if !s.pw.on || !(1 ≤ n.stage || s.inHold) || n.qbusy then s
  else if n.idst != 1 then s.setNt side { n with qref := true }
  else s.setNt side { n with qbusy := true }

def execQuote (side : Side) (s : State) : Host.Outcome State Fault Refusal := .next (quoteOp side s)

/-- REPAIR: SHA-384 over the repair maps of floes 0 to 127 and the state of every channel (R425). -/
def State.repairDigest (s : State) : List Byte :=
  let maps := (List.range 128).map fun f => (List.range 20).map fun k =>
    BitVec.ofNat 8 ((List.range 8).foldl (fun m i => if s.passed f (8 * k + i) then m + 2 ^ i else m) 0)
  let chans := (List.range 2048).map fun k => (((s.homes.get (k / 16) .init).chans.get (k % 16) .init).st.setWidth 8 : Byte)
  sha384 (maps.flatten ++ chans)

/-- Bytes 0 to 271 of a quote (R425). (DEDUCED, log entry 58; unsafe.) -/
def State.quoteBody (s : State) (side : Side) : List Byte :=
  let n := s.nt side
  let e := s.eng
  let flags : BitVec 16 := flagAt 16 0 s.primaryEast ||| flagAt 16 1 s.degraded ||| flagAt 16 2 s.inHold ||| flagAt 16 3 (e.mst == 2) |||
    flagAt 16 4 s.tb.sync ||| flagAt 16 5 (side == .east)
  toBytes 4 0x31514E47#32 ++ toBytes 2 1#16 ++ toBytes 2 flags ++ toBytes 32 n.nonce ++ toBytes 8 s.tb.now ++
    toBytes 2 (s.am.mid.setWidth 16) ++ toBytes 2 s.mgmt.record.stepping ++ [BitVec.ofNat 8 s.excludedFloes.length, 0] ++
    toBytes 2 (BitVec.ofNat 16 s.nch) ++ toBytes 48 n.meas ++ toBytes 48 n.peerMeas ++
    toBytes 48 (if e.mst == 0 then 0 else e.dig) ++ toBytes 8 e.modelId ++ s.repairDigest ++ toBytes 4 n.imgver ++ List.replicate 12 0

/-- QUOTE_DONE: the quote is in NT_QBUF, signed with the device identity key, and DONE is set (R425, R426). -/
def quoteDoneOp (side : Side) (s : State) : State :=
  let n := s.nt side
  if !s.pw.on || !n.qbusy then s
  else
    let body := s.quoteBody side
    let t := s.take
    let sig := ecdsaSign n.idKey.toNat (sha384 body) (Config.quoteNonce t.1).toNat
    t.2.setNt side { n with
      qbusy := false, qdone := true, qbuf := body ++ toBytes 48 (BitVec.ofNat 384 sig.1) ++ toBytes 48 (BitVec.ofNat 384 sig.2) }

def execQuoteDone (side : Side) (s : State) : Host.Outcome State Fault Refusal := .next (quoteDoneOp side s)

/-! ### The host port -/

/-- HOST_PORT_TRAINED: from stage WAITIMG on the primary trains the port; in HOLD the nunatak that holds a trained port keeps it, and the
west nunatak trains it when neither does (R415, R416, R430). -/
def hostPortTrainedOp (side : Side) (s : State) : State :=
  let n := s.nt side
  let free := !s.west.portUp && !s.east.portUp
  let may := if s.inHold then n.portUp || (free && side == .west) else decide (1 ≤ n.stage) && side == s.primarySide
  if !s.pw.on || !may then s
  else { s.setNt side { n with portUp := true } with host := { s.host with answers := true } }

def execHostPortTrained (side : Side) (s : State) : Host.Outcome State Fault Refusal := .next (hostPortTrainedOp side s)

/-! ### The management port -/

/-- CMD and payload of a frame whose length and CRC are good (R431). -/
def frameOf (f : List Byte) : Option (Nat × List Byte) :=
  let cmd := (f.getD 0 0).toNat
  let len := (f.getD 1 0).toNat
  if 60 < len || f.length != len + 4 then none
  else if ofBytes 16 (f.drop (len + 2)) != crc16 (f.take (len + 2)) then none
  else some (cmd, (f.drop 2).take len)

/-- The answer frame: CMD | 0x80, the status and the data (R431). -/
def answerFrame (cmd : Byte) (status : Nat) (data : List Byte) : List Byte :=
  let h := [cmd ||| 0x80, BitVec.ofNat 8 (data.length + 1), BitVec.ofNat 8 status] ++ data
  h ++ toBytes 2 (crc16 h)

/-- The controller, in the always-on domain, sends an answer (R431). -/
def State.answer (s : State) (f : List Byte) (status : Nat) (data : List Byte) : State :=
  { s with mgmt := { s.mgmt with answer := answerFrame (f.getD 0 0) status data } }

/-- The payload of a good frame of command `cmd` that reaches a powered controller. -/
def State.mgmtFrame (s : State) (cmd : Nat) (f : List Byte) : Option (List Byte) :=
  match frameOf f with
  | some x => if s.pw.aon && x.1 = cmd then some x.2 else none
  | none => none

/-- STATUS: NT_BOOT of the primary, or of the west nunatak in HOLD; TB_STAT, or PW_STAT after a rail fault or thermal trip; the serial
number (R432, R441). -/
def statusOp (f : List Byte) (s : State) : State :=
  match s.mgmtFrame 1 f with
  | some [] =>
    let n := if s.inHold then s.west else s.primary
    let w := if s.pw.rfault || s.pw.ttrip then s.powerWord 0 else s.tb.word 0x08
    s.answer f 0 (toBytes 4 (s.nunatakWord n 0) ++ toBytes 4 w ++ (List.range 16).map fun i => s.mgmt.serial.getD i 0)
  | _ => s

def execStatus (frame : List Byte) (s : State) : Host.Outcome State Fault Refusal := .next (statusOp frame s)

/-- SETTOPO: refused once AM_TOPO.LOCK has set since power-up; else the values replace those held (R432). -/
def setTopoOp (f : List Byte) (s : State) : State :=
  match s.mgmtFrame 2 f with
  | some p =>
    if p.length != 6 then s
    else if s.am.everLocked then s.answer f 3 []
    else
      let s1 := s.answer f 0 []
      { s1 with mgmt := { s1.mgmt with topo := some (ofBytes 15 (p.take 2), ofBytes 31 (p.drop 2)) } }
  | none => s

def execSetTopo (frame : List Byte) (s : State) : Host.Outcome State Fault Refusal := .next (setTopoOp frame s)

/-- RESET: refused with any payload but 0xA55A; else the answer is sent and the full reset follows (R414, R432). -/
def resetCmdOp (f : List Byte) (s : State) : State :=
  match s.mgmtFrame 3 f with
  | some p =>
    if p == [0x5A, 0xA5] then
      let s1 := s.answer f 0 []
      { s1.restart with mgmt := { Mgmt.init with answer := s1.mgmt.answer } }
    else s.answer f 3 []
  | none => s

def execResetCmd (frame : List Byte) (s : State) : Host.Outcome State Fault Refusal := .next (resetCmdOp frame s)

/-- The largest of a list of byte readings. -/
def hottest (l : List Byte) : Byte := l.foldl (fun m x => if m.toNat < x.toNat then x else m) 0

/-- The readings of the halves whose nunatak runs firmware, which collects them (R30): those of a table over the floes or clusters, of which
the first `half` lie in the west half. -/
def State.collected {α : Type} (s : State) (half : Nat) (t : Tab α) : List α :=
  (t.entries.filter fun e => if e.1 < half then s.west.fwOn else s.east.fwOn).map (·.2)

/-- TELEM: what firmware posts, with a new reading of the input power; all 0 before it starts (R432, R460). -/
def telemOp (f : List Byte) (s : State) : State :=
  match s.mgmtFrame 4 f with
  | some [] =>
    if s.west.fwOn || s.east.fwOn then
      let t := s.measured
      t.answer f 0 (toBytes 2 t.pw.vin ++ toBytes 4 t.pw.pin ++
        [hottest ((s.collected 8192 s.clus).map (·.tj)), hottest ((s.collected 64 s.homes).map (·.tlast))])
    else s.answer f 0 (List.replicate 8 0)
  | _ => s

def execTelem (frame : List Byte) (s : State) : Host.Outcome State Fault Refusal := .next (telemOp frame s)

/-- STRAP: NT_STRAP of both nunataks (R432). -/
def strapCmdOp (f : List Byte) (s : State) : State :=
  match s.mgmtFrame 5 f with
  | some [] => s.answer f 0 (toBytes 4 (s.nunatakWord s.west 0x010) ++ toBytes 4 (s.nunatakWord s.east 0x010))
  | _ => s

def execStrapCmd (frame : List Byte) (s : State) : Host.Outcome State Fault Refusal := .next (strapCmdOp frame s)

/-- The payload length that R432 gives a command; RESET refuses every other payload itself. -/
def lenOk (cmd len : Nat) : Bool := if cmd = 2 then len == 6 else cmd = 3 || len == 0

/-- UNKNOWN_CMD: a frame with a bad CRC or LEN is answered with 1, one with an unknown CMD with 2 (R431). -/
def unknownCmdOp (f : List Byte) (s : State) : State :=
  if !s.pw.aon then s
  else
    match frameOf f with
    | none => s.answer f 1 []
    | some x =>
      if x.1 = 0 || 5 < x.1 then s.answer f 2 []
      else if lenOk x.1 x.2.length then s
      else s.answer f 1 []

def execUnknownCmd (frame : List Byte) (s : State) : Host.Outcome State Fault Refusal := .next (unknownCmdOp frame s)

end Sys2Proof.Machine
end

