-- ==== Sys2Proof/Machine/Debug.lean ====
section
/-! DEFINITION. Observation: the FIFO of PC samples (R401 to R403), event counters and the trigger (R404 to R406), and the trace FIFO
(R408 to R410). -/
namespace Sys2Proof.Machine

/-- The host reaches the debug pages: the module is powered and READY and not in HOLD (R416, R430). -/
def State.dgOpen (s : State) : Bool := s.pw.on && s.ready && !s.inHold

/-- A DG_ write is rejected; DG_ERR keeps the first code since VALID was cleared (R404, R412). -/
def State.dgErr (s : State) : State :=
  { s with dg := { s.dg with errV := true, errCode := if s.dg.errV then s.dg.errCode else 0x0104 } }

/-- A FIFO takes an entry; a full one drops it and puts a gap marker in place of the newest stored entry (R23). Further entries that find it
full are dropped, and the marker stays as it is, as in the table of R334. The first flag tells that the entry was dropped, the second that a
marker was stored. (DEDUCED, log entry 36; unsafe.) -/
def fifoPut (cap : Nat) (l : List FifoEnt) (e gap : FifoEnt) : List FifoEnt × Bool × Bool :=
  if l.length < cap then (l ++ [e], false, false)
  else if (l.getLast?.map (·.gap)).getD false then (l, true, false)
  else (l.dropLast ++ [gap], true, true)

/-! ### PC samples -/

/-- The entries of R402: a sample, an extension, a gap marker. -/
def pcsEntry (kind : Nat) (w0 : Word) (pcHi : BitVec 16) (stall grp : BitVec 4) (core : CoreId) (time : BitVec 64) : FifoEnt :=
  { words := [w0, fld 28 stall ||| fld 24 grp ||| fldN 22 2 kind ||| fld 0 pcHi, core.setWidth 32, lowW time], pois := 0, gap := kind == 2 }

def Debug.pcsPut (d : Debug) (e : FifoEnt) (time : BitVec 64) : Debug :=
  let r := fifoPut 16384 d.pcs e (pcsEntry 2 0x107 0 0 0 0 time)
  if r.2.1 then { d with pcs := r.1, pcsGap := d.pcsGap || r.2.2, pcsLost := d.pcsLost + 1 }
  else { d with pcs := r.1, pcsHi := some (highW time) }

/-- A sample at the collector: dropped while it is busy, else stored, with the extension entry of R401 before it when TIME[63:32] differs
from the previous stored entry's. -/
def Debug.sample (d : Debug) (e : FifoEnt) (time now : BitVec 64) (busy : Bool) : Debug :=
  let d0 := { d with pcsTotal := d.pcsTotal + 1 }
  if busy then { d0 with pcsLost := d.pcsLost + 1 }
  else
    let d1 := { d0 with pcsAt := some now }
    let d2 := if d.pcsHi == some (highW time) then d1 else d1.pcsPut (pcsEntry 1 (highW time) 0 0 0 0 time) time
    d2.pcsPut e time

/-- The cluster is selected for sampling (R400). -/
def Debug.selects (d : Debug) (c : Clu) : Bool :=
  d.pcsEn && (d.pcsAll || floeOfClu c == d.pcsFloe) && c.toNat % 128 % 2 ^ d.pcsCstr.toNat == 0

/-- The first of `n` indices from `start` on, wrapping, that satisfies `p`. -/
def nextFrom (n start : Nat) (p : Nat → Bool) : Option Nat := ((List.range n).map fun i => (start + i) % n).find? p

/-- A read of DG_PCS_POP0 pops the head entry, or repeats the last word delivered and sets UNDERRUN on an empty FIFO (R22, R403). -/
def State.popPcs (s : State) : List Word × State :=
  match s.dg.pcs with
  | [] => (s.dg.pcsPop, { s with dg := { s.dg with pcsUnder := true } })
  | e :: t => (e.words, { s with dg := { s.dg with pcs := t, pcsPop := e.words, pcsPois := (e.pois &&& 0xF) <<< 4 } })

/-- A page's read completes with what a pop delivers; with zeros while the page is not reached (R416, R430). -/
def State.popTo (s : State) (n : RdSize) (pop : State → List Word × State) : State :=
  if s.dgOpen then (pop s).2.complete .ok (popBytes n (pop s).1) else s.complete .ok (List.replicate n.bytes 0)

/-- DG_PCS_POP0. -/
def dgPcsPop0Op (n : RdSize) (s : State) : State := s.popTo n State.popPcs

def execDgPcsPop0 (n : RdSize) (s : State) : Host.Outcome State Fault Refusal := .next (dgPcsPop0Op n s)

/-! ### The trace FIFO -/

/-- A marker of R410. -/
def traceMark (kind w1 w2 w3 : Word) : FifoEnt := { words := [kind, w1, w2, w3, 0, 0, 0, 0], pois := 0, gap := kind == 0xF }

def Debug.tracePut (d : Debug) (e : FifoEnt) (hi lo : Word) : Debug :=
  let r := fifoPut 4096 d.tr e (traceMark 0xF 0x107 lo hi)
  let d1 := { d with tr := r.1, trTotal := d.trTotal + 1 }
  if r.2.1 then { d1 with trGap := d.trGap || r.2.2 } else { d1 with trHi := some hi }

/-- An entry enters the trace FIFO, after an extension entry when TIME[63:32] differs from the previous stored entry's (R409). -/
def Debug.trace (d : Debug) (e : FifoEnt) (hi lo : Word) : Debug :=
  (if d.trHi == some hi then d else d.tracePut (traceMark 1 0 lo hi) hi lo).tracePut e hi lo

/-- WATCH_RECORD: the oldest record that waits at a root reaches the front end (R409). -/
def watchRecordOp (did : DescId) (rowg : BitVec 16) (s : State) : State :=
  match s.dg.waiting.find? fun r => r.desc == did && r.rowg == rowg with
  | none => s
  | some r =>
    let d := { s.dg with waiting := s.dg.waiting.erase r }
    { s with dg := d.trace { words := r.words, pois := 0, gap := false } r.hi (wordAt r.words 2) }

def execWatchRecord (desc : DescId) (rowg : BitVec 16) (s : State) : Host.Outcome State Fault Refusal :=
  .next (watchRecordOp desc rowg s)

/-- A read of DG_TR_POP0 (R403, R410). -/
def State.popTrace (s : State) : List Word × State :=
  match s.dg.tr with
  | [] => (s.dg.trPop, { s with dg := { s.dg with trUnder := true } })
  | e :: t => (e.words, { s with dg := { s.dg with tr := t, trPop := e.words, trPois := e.pois } })

/-- DG_TR_POP0. -/
def dgTrPop0Op (n : RdSize) (s : State) : State := s.popTo n State.popTrace

def execDgTrPop0 (n : RdSize) (s : State) : Host.Outcome State Fault Refusal := .next (dgTrPop0Op n s)

/-! ### Counters and the trigger -/

/-- An event code that R404 defines. -/
def eventOk (e : Nat) : Bool := e ≤ 0x0E || (0x10 ≤ e && e ≤ 0x1B)

/-- DG_CSELn: selects the event and clears the counter, or is rejected for a reserved code (R404, R405). -/
def dgCselWriteOp (c : Clu) (n : BitVec 3) (v : Word) (s : State) : State :=
  if !s.pw.on || s.excluded (floeOfClu c) then s
  else if !eventOk (fieldN v 0 8) then s.dgErr
  else
    let k := s.island c
    s.setClu c { k with csel := k.csel.put n.toNat (bits v 0 8), cnt := k.cnt.put n.toNat 0 }

def execDgCselWrite (clu : Clu) (n : BitVec 3) (v : Word) (s : State) : Host.Outcome State Fault Refusal :=
  .next (if s.dgOpen then dgCselWriteOp clu n v s else s)

/-- DG_CCTL.CLR sets the eight counters to 0 (R405). -/
def dgCctlClrOp (c : Clu) (s : State) : State :=
  if !s.pw.on || s.excluded (floeOfClu c) then s else s.setClu c { s.island c with cnt := .empty }

def execDgCctlClr (clu : Clu) (s : State) : Host.Outcome State Fault Refusal := .next (if s.dgOpen then dgCctlClrOp clu s else s)

/-- A write to DG_TRIG_CTL: ACT is set, and with ARM 1 the action is armed for AT, unless R406 rejects it. -/
def dgTrigArmOp (v : Word) (s : State) : State :=
  let d := s.dg
  let act : BitVec 2 := bits v 24 2
  if !s.pw.on then s
  else if act == 3 then s.dgErr
  else if !bitAt v 31 then { s with dg := { d with trigAct := act } }
  else if d.trigAt.toNat < s.tb.now.toNat + 2048 || d.armed then s.dgErr
  else
    { s with
      dg := { d with trigAct := act, armed := true, armAt := d.trigAt, acts := d.acts ++ [(d.trigAt, act)] } }

def execDgTrigArm (v : Word) (s : State) : Host.Outcome State Fault Refusal := .next (if s.dgOpen then dgTrigArmOp v s else s)

/-- The markers of the actions that an island has applied and the trace FIFO has not recorded (R406, R410). -/
def Debug.markActs (d : Debug) (n : Nat) : Debug :=
  { ((d.acts.take n).drop d.trigMark).foldl (fun d a => d.trace (traceMark 2 (a.2.setWidth 32) (lowW a.1) (highW a.1)) (highW a.1) (lowW a.1)) d with
    trigMark := max d.trigMark n }

/-- TRIGGER_ACTION: an island that runs has applied the armed actions up to the code it has latched, each once, and the trace FIFO records each
action once, as a marker timed at AT (R406). The latch itself applies them (TIME_CODE); this command is the record of it, and applies what an island
that has counted nothing since reset has not looked at. (DEDUCED, log entry 36; unsafe.) -/
def triggerActionOp (c : Clu) (s : State) : State :=
  let k := s.island c
  if !s.pw.on || !k.runs then s
  else { s with dg := s.dg.markActs k.trigSeen }.setClu c k

def execTriggerAction (clu : Clu) (s : State) : Host.Outcome State Fault Refusal := .next (triggerActionOp clu s)

end Sys2Proof.Machine
end

