-- ==== Sys2Proof/Machine/Access.lean ====
section
/-! DEFINITION. Register accesses (R8, R12, R389, R464 to R468): where an access lands, what a read clears, and what a write does under the
Access codes of each register's table. -/
namespace Sys2Proof.Machine

/-- The control-space offset that an access names: R465 for BAR0, the windows of R466 for BAR2, itself for firmware. -/
def ctlOff (a : Agent) (x : Nat) : Option Nat :=
  match a with
  | .firmware => some x
  | .bar0 => if x < 0x400_0000 then some (0x400_0000 + x) else none
  | .bar2 =>
    if x < 0x10_2000 then some x
    else if 0x14_0000 ≤ x && x < 0x16_1000 then some x
    else if 0x20_0000 ≤ x && x < 0x22_0000 then some x
    else if 0x30_0000 ≤ x && x < 0x30_1000 then some (0x880_0000 + (x - 0x30_0000))
    else if 0x30_1000 ≤ x && x < 0x30_2000 then some (0x940_0000 + (x - 0x30_1000))
    else if 0x40_0000 ≤ x && x < 0x80_0000 then some (0x60_0000 + (x - 0x40_0000))
    else if 0x80_0000 ≤ x && x < 0xA0_0000 then
      some (0x800_0000 + (x - 0x80_0000) / 0x4000 * 0x1_0000 + (x - 0x80_0000) % 0x4000)
    else if 0xC0_0000 ≤ x && x < 0x100_0000 then some (0x900_0000 + (x - 0xC0_0000))
    else none

/-- The host reaches a page: every page in READY, the nunatak pages and BAR0's doorbell pages in every stage, the boot window but in HOLD, and every
doorbell page in HOLD too (R416, R430). -/
def State.hostReaches (s : State) (p : Page) : Bool :=
  match p with
  | .nt _ _ => true
  | .bootWin _ => !s.inHold
  | .db _ _ => true
  | .kq _ _ => s.ready || s.inHold
  | _ => s.ready && !s.inHold

/-- The access is made: the host's port is open, or firmware runs (R416, R421). -/
def State.agentUp (s : State) (a : Agent) : Bool :=
  match a with
  | .firmware => s.pw.on && (s.west.fwOn || s.east.fwOn)
  | _ => s.portOpen

/-! ### Reads -/

/-- The register's RC fields are cleared to 0 (R8). -/
def State.clearRc (s : State) (p : Page) : State :=
  if s.pageOut p then s
  else
    match p with
    | .l2 c 0 => s.setClu (BitVec.ofNat 14 c) { s.clu (BitVec.ofNat 14 c) with stale := 0 }
    | .mr f 0x18 => s.setHome (BitVec.ofNat 7 f) { s.home (BitVec.ofNat 7 f) with stale := 0 }
    | .fn c 0x10 => s.setRtr (BitVec.ofNat 14 c) { s.rtr (BitVec.ofNat 14 c) with stale := 0 }
    | .fn c 0x18 => s.setRtr (BitVec.ofNat 14 c) { s.rtr (BitVec.ofNat 14 c) with bkdup := 0 }
    | .fe 0x10 => { s with fe := { s.fe with qstale := 0 } }
    | _ => s

/-- The bytes of a host's read complete it; firmware has them for itself. -/
def State.readTo (s : State) (a : Agent) (bs : List Byte) : State :=
  match a with
  | .firmware => s
  | _ => s.complete .ok bs

/-- The page that the 4 B word at an offset of the agent's space reaches (R416, R465, R466). -/
def State.reached (s : State) (a : Agent) (off : Nat) : Option Nat :=
  match ctlOff a off with
  | none => none
  | some o => if a != .firmware && !s.hostReaches (pageOf o) then none else some o

/-- A read of one word of a register: its value, and its RC fields cleared in the same access (R8); a word that the agent does not reach reads 0. -/
def State.readWord (s : State) (a : Agent) (off : Nat) : List Byte × State :=
  match s.reached a off with
  | none => (toBytes 4 (0#32), s)
  | some o => let s1 := s.readings (pageOf o); (toBytes 4 (s1.regWord o), s1.clearRc (pageOf o))

/-- A read of DB_REPLY0. Firmware's read changes the queue as the host's does; while the reply page's line is not at rest it is still to
come (R334, R468). (DEDUCED, log entry 59; unsafe.) -/
def State.readReply (s : State) (a : Agent) (q : QId) (n : RdSize) : State :=
  match a with
  | .firmware => if s.inHold then s else ((s.popReply q).map (·.2)).getD s
  | _ => s.hostAsk (.pop q n)

/-- A read of DG_PCS_POP0 or DG_TR_POP0 (R403, R410). -/
def State.readPop (s : State) (a : Agent) (n : RdSize) (pop : State → List Word × State) : State :=
  match a with
  | .firmware => (pop s).2
  | _ => s.popTo n pop

/-- The access that reads up to `n` words of an entry from its pop register on (R334, R403, R467). -/
def popSize (n : Nat) : RdSize := if n ≤ 1 then .b4 else if n = 2 then .b8 else .b16

/-- READ_CLEAR: a read of `len` bytes, performed as aligned accesses in ascending order, of which a partial word returns the whole word, each word's RC
fields cleared in the same access (R8, R184, R385, R466, R467). One that starts at a register whose read pops a FIFO pops it once (R22, R334, R403). -/
def readClearOp (a : Agent) (off len : Nat) (s : State) : State :=
  let w0 := off / 4 * 4
  let n := (off + len + 3) / 4 - off / 4
  if !s.agentUp a then s
  else if a == .bar0 && s.fe.rstBusy then s.readTo a (List.replicate (4 * n) 0xFF)
  else
    match (s.reached a w0).map pageOf with
    | some (.db q 0x040) => s.readReply a (BitVec.ofNat 16 q) (popSize n)
    | some (.kq k 0x040) => s.readReply a (BitVec.ofNat 16 (0x4000 + k)) (popSize n)
    | some (.dg 0x020) => s.readPop a (popSize n) State.popPcs
    | some (.dg 0x080) => s.readPop a (popSize n) State.popTrace
    | _ =>
      let r := (List.range n).foldl (fun (r : List Byte × State) i => let t := r.2.readWord a (w0 + 4 * i); (r.1 ++ t.1, t.2)) ([], s)
      r.2.readTo a r.1

def execReadClear (a : Agent) (off len : Nat) (s : State) : Host.Outcome State Fault Refusal := .next (readClearOp a off len s)

/-! ### Writes -/

/-- A 64-bit register with one half written. -/
def half (x : BitVec 64) (hi : Bool) (v : Word) : BitVec 64 := if hi then v ++ lowW x else highW x ++ v

/-- A write that the register's rules refuse: the host's is recorded (R389). -/
def State.hostRefused (s : State) (a : Agent) (off : Nat) : State :=
  match a with
  | .firmware => s
  | .bar0 => s.hwErr false off
  | .bar2 => s.hwErr true off

/-- FE_KVP_BASE and FE_KVP_NPAGE (R347); a refused write of the host is recorded at the offset it was made at (R389). -/
def State.kvpWrite (s : State) (a : Agent) (boff : Nat) (npage : Bool) (v : BitVec 64) : State := s.kvpSet npage v (·.hostRefused a boff)

/-- The front-end pages (R127, R135, R250, R368, R388, R461). -/
def State.feWrite (s : State) (a : Agent) (boff o : Nat) (v : Word) : State :=
  let f := s.fe
  match o with
  | 0x2000 => if bitAt v 31 then { s with fe := { f with lchkV := false } } else s
  | 0x3000 => { s with fe := { f with dsel := bits v 0 16 } }
  | 0x4000 => s.kvpWrite a boff false (half (f.kvpBase.setWidth 64) false v)
  | 0x4004 => s.kvpWrite a boff false (half (f.kvpBase.setWidth 64) true v)
  | 0x4008 => s.kvpWrite a boff true (v.setWidth 64)
  | 0x4040 => { s with fe := { f with asSel := bits v 0 16 } }
  | 0x5008 => if bitAt v 0 then deviceResetOp .host s else s
  | 0x5038 => if bitAt v 31 then { s with fe := { f with pstatV := false } } else s
  | 0x5054 => if bitAt v 31 then { s with fe := { f with hwV := false } } else s
  | 0x6000 => feHwinWriteOp (half (f.hwin.setWidth 64) false v) s
  | 0x6004 => feHwinWriteOp (half (f.hwin.setWidth 64) true v) s
  | 0x6008 => if bitAt v 31 then { s with fe := { f with hwinErrV := false } } else s
  | _ => s

/-- DB_RSTAT: each 1 clears UNDERRUN or GAP (R336). -/
def Queue.rstatWrite (q : Queue) (v : Word) : Queue :=
  { q with underrun := q.underrun && !bitAt v 31, gap := q.gap && !bitAt v 30 }

/-- A doorbell page; in HOLD a write has no effect (R304, R336). -/
def State.dbWrite (s : State) (a : Agent) (boff : Nat) (q : QId) (o : Nat) (v : Word) : State :=
  let x := s.queue q
  let locked := x.ken
  if s.inHold then s
  else
    match o with
    | 0x000 => doorbellOp q v s
    | 0x020 => s.setQueue q (x.rstatWrite v)
    | 0x080 => if !isKernelQ q then s else if locked then s.hostRefused a boff else
        s.setQueue q { x with kbase := (half (x.kbase.setWidth 64) false v).setWidth 48 }
    | 0x084 => if !isKernelQ q then s else if locked then s.hostRefused a boff else
        s.setQueue q { x with kbase := (half (x.kbase.setWidth 64) true v).setWidth 48 }
    | 0x088 => if !isKernelQ q then s else if locked then s.hostRefused a boff else
        s.setQueue q { x with krply := (half (x.krply.setWidth 64) false v).setWidth 48 }
    | 0x08C => if !isKernelQ q then s else if locked then s.hostRefused a boff else
        s.setQueue q { x with krply := (half (x.krply.setWidth 64) true v).setWidth 48 }
    | 0x090 => if a == .firmware && x.ken && bitAt v 31 then s else dbKcfgEnOp q v s
    | _ => s

/-- The power page (R460). -/
def State.pwWrite (s : State) (a : Agent) (boff o : Nat) (v : Word) : State :=
  match o with
  | 0x00 => if bitAt v 29 then { s with pw := { s.pw with ilim := false } } else s
  | 0x20 =>
    if fieldN v 0 16 < 10 then s.hostRefused a boff
    else { s with pw := { s.pw with gateEn := bitAt v 31, gateIdle := bits v 0 16 } }
  | 0x28 => { s with pw := { s.pw with islSel := bits v 0 14 } }
  | _ => s

/-- Another port has TPAR set (R273). -/
def State.tparElsewhere (s : State) (p : PortId) : Bool := s.ports.entries.any fun e => e.1 != p.toNat && e.2.tpar

/-- A port page, written by the firmware of the port's half (R30, R273). DIR and TPAR take effect before EN and TRAIN. -/
def State.portWrite (s : State) (p : PortId) (o : Nat) (v : Word) : State :=
  let x := s.port p
  if !s.trains p then s
  else
  match o with
  | 0x08 =>
    let dir : BitVec 3 := bits v 0 3
    let x1 := { x with
      tpar := if bitAt v 29 && s.tparElsewhere p then x.tpar else bitAt v 29
      dir := if x.st == .off && dir != 7 then dir else x.dir }
    let s1 := s.setPort p x1
    let s2 := if bitAt v 31 == x.en then s1 else amCtrlEnOp p (bitAt v 31) s1
    if bitAt v 30 then amCtrlTrainOp p s2 else s2
  | 0x10 => if 48 < fieldN v 0 6 then s else s.setPort p { x with swing := bits v 0 6 }
  | 0x60 => if bitAt v 31 then s.setPort p { x with errValid := false } else s
  | _ => s

/-- The Amdon module page, written by firmware (R274). -/
def State.amWrite (s : State) (o : Nat) (v : Word) : State :=
  match o with
  | 0x00 => if s.am.lock then s else { s with am := { s.am with topo := v.setWidth 31 &&& 0x70007FFF#31 } }
  | 0x08 => if s.am.lock then s else { s with am := { s.am with mid := bits v 0 15 } }
  | 0x10 => if fieldN v 0 16 = 0 then s else { s with am := { s.am with rto := bits v 0 16 } }
  | _ => s

/-- A nunatak page (R435); NT_HB_KICK takes firmware's writes alone. -/
def State.ntWrite (s : State) (a : Agent) (side : Side) (o : Nat) (v : Word) : State :=
  let n := s.nt side
  if 0x080 ≤ o && o < 0x0A0 then
    let k := 8 * (o - 0x080)
    s.setNt side { n with nonce := (n.nonce &&& ~~~(place 256 k (0xFFFFFFFF#32))) ||| place 256 k v }
  else
    match o with
    | 0x008 => if bitAt v 0 then bootGoOp side s else s
    | 0x060 => if a == .firmware && bitAt v 0 then ntHbKickOp side s else s
    | 0x0A0 =>
      let s1 := s.setNt side { n with qdone := n.qdone && !bitAt v 29, qref := n.qref && !bitAt v 28 }
      if bitAt v 31 then quoteOp side s1 else s1
    | 0x300 => s.setNt side { n with repSel := bits v 0 7 }
    | _ => s

/-- The boot window, mapped to the primary's boot memory in stage WAITIMG alone (R435). -/
def State.bootWrite (s : State) (o : Nat) (v : Word) : State :=
  if s.booting 1 then
    let n := s.nt s.primarySide
    s.setNt s.primarySide { n with window := n.window.writeBytes o (toBytes 4 v) }
  else s

/-- The debug module page (R404, R406, R412). -/
def State.dgWrite (s : State) (o : Nat) (v : Word) : State :=
  let d := s.dg
  if !s.pw.on then s
  else if 0x058 ≤ o && o < 0x068 then
    let n := (o - 0x058) / 4
    let one : BitVec 4 := (1#4) <<< n
    { s with dg := { d with twV := if bitAt v 31 then d.twV ||| one else d.twV &&& ~~~one, twId := d.twId.put n (bits v 0 16) } }
  else
    match o with
    | 0x000 =>
      if fieldN v 15 5 < 12 || 30 < fieldN v 15 5 then s.dgErr
      else
        { s with dg := { d with
            pcsEn := bitAt v 31, pcsAll := bitAt v 30, pcsFloe := bits v 23 7, pcsCstr := bits v 20 3, pcsPer := bits v 15 5,
            pcsHi := if bitAt v 31 && !d.pcsEn then none else d.pcsHi } }
    | 0x008 => { s with dg := { d with pcsUnder := d.pcsUnder && !bitAt v 31, pcsGap := d.pcsGap && !bitAt v 30 } }
    | 0x040 => { s with dg := { d with trigAt := half d.trigAt false (v &&& 0xFFFFFFC0) } }
    | 0x044 => { s with dg := { d with trigAt := half d.trigAt true v } }
    | 0x048 => dgTrigArmOp v s
    | 0x050 => { s with dg := { d with twDec := bits v 0 3 } }
    | 0x070 => { s with dg := { d with trUnder := d.trUnder && !bitAt v 31, trGap := d.trGap && !bitAt v 30 } }
    | 0x0A0 => if bitAt v 31 then { s with dg := { d with errV := false } } else s
    | _ => s

/-- A debug cluster page (R413). -/
def State.dgCluWrite (s : State) (c : Clu) (o : Nat) (v : Word) : State :=
  if o < 0x20 then dgCselWriteOp c (BitVec.ofNat 3 (o / 4)) v s
  else if o = 0x80 && bitAt v 31 then dgCctlClrOp c s
  else s

/-- A router page, written by firmware (R249). An entry is valid with 1 to 255 blocks only. -/
def State.fnWrite (s : State) (c : Clu) (o : Nat) (v : Word) : State :=
  let r := s.rtr c
  if 0x1000 ≤ o then
    let k := 64 * ((o - 0x1000) / 256) + (o - 0x1000) % 256 / 4
    if bitAt v 31 && fieldN v 16 8 = 0 then s
    else s.setRtr c { r with fwin := r.fwin.put k ⟨bitAt v 31, bits v 16 8, bits v 0 16⟩ }
  else if o = 0 then s.setRtr c { r with par := r.par && !bitAt v 31, bkdiff := r.bkdiff && !bitAt v 30 }
  else s

/-- A page that the host only reads (R399, R273, R298 to R300, R466). -/
def hostReadOnly (p : Page) : Bool :=
  match p with
  | .tb _ => true
  | .port _ _ => true
  | .am _ => true
  | .mr _ _ => true
  | _ => false

/-- A write of one 4 B word at control-space offset `o`, made at offset `boff` of its BAR. -/
def State.wordWrite (s : State) (a : Agent) (boff o : Nat) (v : Word) : State :=
  let p := pageOf o
  if s.pageOut p || (a != .firmware && (!s.hostReaches p || hostReadOnly p)) then s
  else
    match p with
    | .fe o => s.feWrite a boff o v
    | .kq k o => s.dbWrite a boff (BitVec.ofNat 16 (0x4000 + k)) o v
    | .db q o => s.dbWrite a boff (BitVec.ofNat 16 q) o v
    | .pw o => s.pwWrite a boff o v
    | .port p o => s.portWrite (BitVec.ofNat 5 p) o v
    | .am o => s.amWrite o v
    | .nt e o => s.ntWrite a (if e then .east else .west) o v
    | .bootWin o => s.bootWrite o v
    | .mr f 0x1008 =>
      let h := s.home (BitVec.ofNat 7 f)
      if bitAt v 29 then s.setHome (BitVec.ofNat 7 f) { h with hot := false } else s
    | .mrMod 0x08 => { s with ilvSel := bits v 0 11 }
    | .dgClu c o => s.dgCluWrite (BitVec.ofNat 14 c) o v
    | .dg o => s.dgWrite o v
    | .fn c o => s.fnWrite (BitVec.ofNat 14 c) o v
    | .co _ _ => s.kernelStoreWord o v
    | .mx _ _ => s.kernelStoreWord o v
    | _ => s

/-- The 4 B word at offset `w` of a write of `n` bytes at `off`: written when the write covers it, otherwise left (R467). -/
def State.wordIn (s : State) (a : Agent) (off n : Nat) (v : BitVec 64) (w : Nat) : State :=
  if w < off || off + n < w + 4 then s
  else
    match ctlOff a w with
    | none => s
    | some o => s.wordWrite a w o ((v >>> (8 * (w - off))).setWidth 32)

/-- REGISTER_WRITE: a write of 4 or 8 bytes, performed as 4 B words in ascending order, the low half of an aligned 8 B first (R8, R184, R385,
R467). A register that has rows of its own acts as they do. (DEDUCED, log entry 59; unsafe.) -/
def registerWriteOp (a : Agent) (off : Nat) (wide : Bool) (v : BitVec 64) (s : State) : State :=
  if !s.agentUp a || (a == .bar0 && (s.fe.rstBusy || !s.ready)) then s
  else
    let n := if wide then 8 else 4
    let w := (off + 3) / 4 * 4
    (s.wordIn a off n v w).wordIn a off n v (w + 4)

def execRegisterWrite (a : Agent) (off : Nat) (wide : Bool) (v : BitVec 64) (s : State) : Host.Outcome State Fault Refusal :=
  .next (registerWriteOp a off wide v s)

end Sys2Proof.Machine
end

