-- ==== Sys2Proof/Machine/Atomic.lean ====
section
/-! DEFINITION. Atomics (R148, R172 to R175, R214): integer atomics and AFADD combine the lanes of one address; exchanges and
compare-and-swaps of one address run one after another. -/
namespace Sys2Proof.Machine

/-- The operand of a lane, and for ACAS the value it swaps in (R148). -/
def Group.atomOpnd (gr : Group) (f : MF) (l : Nat) : BitVec 64 := (gr.dataOf f.data f.size l).setWidth 64

def Group.atomSwap (gr : Group) (op : BitVec 8) (f : MF) (l : Nat) : BitVec 64 :=
  if op = 0x19 then
    match f.data with
    | .v n =>
      if f.size == .b8 then gr.vreg (n.toNat + 3) l ++ gr.vreg (n.toNat + 2) l else (gr.vreg (n.toNat + 1) l).setWidth 64
    | _ => 0
  else 0

/-- The swap operand is a register too, and may be poisoned. -/
def Group.swapPois (gr : Group) (op : BitVec 8) (f : MF) (l : Nat) : Bool :=
  op == 0x19 &&
    match f.data with
    | .v n =>
      if f.size == .b8 then gr.vpois.contains (32 * (n.toNat + 2) + l) || gr.vpois.contains (32 * (n.toNat + 3) + l)
      else gr.vpois.contains (32 * (n.toNat + 1) + l)
    | _ => false

/-- AXCHG and ACAS (R174). -/
def swaps (op : BitVec 8) : Bool := op == 0x18 || op == 0x19

def fadd32 (a b : BitVec 64) : BitVec 64 := atomicNew 0x1A .b4 a b 0

/-- The lanes of one address in ascending order, applied to an old value: what each receives and what is left (R173 to
R175). -/
def combine (op : BitVec 8) (sz : MSize) (old : BitVec 64) (ls : List (Nat × BitVec 64 × BitVec 64)) :
    List (Nat × BitVec 64) × BitVec 64 :=
  if op = 0x1A then
    -- Q is the running sum of the addends; the first lane receives the old value
    let r := ls.foldl (fun (acc : List (Nat × BitVec 64) × Option (BitVec 64)) p =>
      match acc.2 with
      | none => (acc.1 ++ [(p.1, old)], some p.2.1)
      | some q => (acc.1 ++ [(p.1, fadd32 old q)], some (fadd32 q p.2.1))) ([], none)
    (r.1, match r.2 with
      | some q => fadd32 old q
      | none => old)
  else
    ls.foldl (fun (acc : List (Nat × BitVec 64) × BitVec 64) p =>
      (acc.1 ++ [(p.1, acc.2)], atomicNew op sz acc.2 p.2.1 p.2.2)) ([], old)

/-- The combined operand that one UCA carries for the lanes of an address (R173, R175). -/
def combinedOpnd (op : BitVec 8) (sz : MSize) (ls : List (Nat × BitVec 64 × BitVec 64)) : BitVec 64 :=
  match ls with
  | [] => 0
  | p :: t => t.foldl (fun q x => atomicNew op sz q x.2.1 0) p.2.1

/-- The lanes with their address and operands. -/
def Ctx.atomLanes (x : Ctx) (op : BitVec 8) (f : MF) (acc : List (Nat × BitVec 64)) (a : BitVec 64) :
    List (Nat × BitVec 64 × BitVec 64) :=
  (acc.filter fun p => p.2 == a).map fun p => (p.1, x.gr.atomOpnd f p.1, x.gr.atomSwap op f p.1)

/-- The distinct addresses in lane order. -/
def addrsOf (acc : List (Nat × BitVec 64)) : List (BitVec 64) :=
  acc.foldl (fun l p => if l.contains p.2 then l else l ++ [p.2]) []

def atomPart (l : Nat) (d : BitVec 64) (err : Code) : LanePart := { lane := l, data := d.setWidth 128, err := err, ok := true }

/-- The atomics of one sector performed in the slice, which owns the line; an address whose old value is poisoned is left
as it is (R372). -/
def State.atomSector (s : State) (x : Ctx) (op : BitVec 8) (f : MF) (acc : List (Nat × BitVec 64)) (q : Nat) : State :=
  let k := cluOf x.id
  let mine := acc.filter fun p => p.2.toNat / 32 == q
  let n := sizeBytes f.size
  let s0 := s.launchWrote x q
  (addrsOf mine).foldl (fun s a =>
    match placeOf s.mid a with
    | .hbm off =>
      let line := off / 128
      let y := ((s.clu k).line? line).getD .init
      let v : LineVal := ⟨y.data, y.pois⟩
      let ls := x.atomLanes op f mine a
      if v.poisAt (off % 128) n then ls.foldl (fun s p => s.addPart x (atomPart p.1 0 0x0301)) s
      else
        let r := combine op f.size (v.at (off % 128) n) ls
        let s1 := s.l2Write k line (byteMask (off % 128) n) (putAt (off % 128) r.2) (some (x.id, x.g))
        r.1.foldl (fun s p => s.addPart x (atomPart p.1 p.2 0)) s1
    | _ => s) s0

/-- One sector of a .ca or .cg atomic: performed when the slice owns its line, otherwise asked for (R172, R214). -/
def State.atomTry (s : State) (x : Ctx) (op : BitVec 8) (f : MF) (acc : List (Nat × BitVec 64)) (q : Nat) : State :=
  let a : BitVec 64 := BitVec.ofNat 64 (32 * q)
  let mine := acc.filter fun p => p.2.toNat / 32 == q
  if mine.all fun p => ((x.again s).gr.partOf p.1).isSome then s
  else
    match placeOf s.mid a with
    | .hbm off =>
      let line := off / 128
      match mine.foldl (fun r p => let t := r.1.settleSector x p.2 (sizeBytes f.size) true; (t.1, r.2 && t.2)) (s, true) with
      | (s1, false) => s1
      | (s1, true) =>
        if s1.protectedBy (some (x.id, x.g)) (· == off / 32) then s1
        else if holdsOwned (s1.clu (cluOf x.id)) line then (s1.ownHit x line a (if swaps op then mine.length else (addrsOf mine).length)).atomSector x op f acc q
        else s1.askOwn x line a
    | _ => s

/-- One unit of a .uc atomic: the lanes of an address together, or one lane of a swap (R173, R174, R187). Its answer
gives each lane its value; a poisoned old value or a lost link gives the lanes a code. No copy older than what it leaves stays in L1
(R153, R172). -/
def State.atomUc (s : State) (x : Ctx) (op : BitVec 8) (f : MF) (a : BitVec 64) (ls : List (Nat × BitVec 64 × BitVec 64)) : State :=
  match ls with
  | [] => s
  | p :: _ =>
    if ((x.again s).gr.partOf p.1).isSome then s
    else
      match (s.core x.id).ucRes.find? fun r => r.grp == x.g && r.addr == a && r.lane == p.1 with
      | some r =>
        if r.err != 0 then ls.foldl (fun s q => s.addPart x (atomPart q.1 0 r.err)) s
        else if r.pois != 0 then ls.foldl (fun s q => s.addPart x (atomPart q.1 0 0x0301)) s
        else (combine op f.size (r.data.setWidth 64) ls).1.foldl (fun s q => s.addPart x (atomPart q.1 q.2 0)) (s.onCore x.id (·.l1Stale (a.toNat / 32 % 2 ^ 44)))
      | none =>
        if (s.core x.id).ucOut.any fun o => o.grp == x.g && o.addr == a && !o.store then s
        else
          match s.settleSector x a (sizeBytes f.size) true with
          | (s1, false) => s1
          | (s1, true) =>
            let v := if swaps op then p.2.1 else combinedOpnd op f.size ls
            let y := p.2.2
            let mark (s : State) : State := (s.onCore x.id (·.ask x.g a p.1 true .zero)).launchWrote x (a.toNat / 32)
            match placeOf s.mid a with
            | .hbm off =>
              let pay : Pay := { Pay.init with sector := off / 32, addr := off, data := (y ++ v).setWidth 256, core := x.id,
                                               grp := x.g, lane := p.1 }
              ((s1.l2Request (cluOf x.id) (.uca op f.size) (off / 128) false pay).map mark).getD s1
            | .remote m off =>
              ((mark s1).sendTag (.atomic x.id x.g a p.1) m off 0x03 op (if f.size == .b8 then 3 else 2)
                (toBytes 16 (y ++ v)) 0).getD s1
            | _ => s

/-- The units of a .uc atomic in the order the lanes name them. -/
def Ctx.ucUnits (x : Ctx) (op : BitVec 8) (f : MF) (acc : List (Nat × BitVec 64)) :
    List (BitVec 64 × List (Nat × BitVec 64 × BitVec 64)) :=
  if swaps op then acc.map fun p => (p.2, [(p.1, x.gr.atomOpnd f p.1, x.gr.atomSwap op f p.1)])
  else (addrsOf acc).map fun a => (a, x.atomLanes op f acc a)

/-- An atomic of the group. -/
def atomOp (g : GroupAt) (op : BitVec 8) (f : MF) (s : State) : State :=
  let w := encM op f
  match s.issuer g w with
  | none => s
  | some x =>
    let code := s.checkLanes x f ⟨true, true, false⟩
    let acc := x.lanes f false
    let n := sizeBytes f.size
    if x.memPois f true || (lanesOf x.gr.exec).any fun l => x.gr.swapPois op f l then s.kerr x 0x0301
    else if code != 0 then s.kerr x code
    else if f.spad then
      if x.core.storeHeld n acc then s.stall x 4
      else if acc.any fun p => x.core.spadPoisAt p.2.toNat n then s.kerr x 0x0301
      else
        let r := (addrsOf acc).foldl (fun (st : Core × Group) a =>
          let old : BitVec 64 := ofBytes 64 (st.1.spadRead a.toNat n)
          let c := combine op f.size old (x.atomLanes op f acc a)
          (st.1.spadWrite a.toNat (toBytes n c.2) false,
           c.1.foldl (fun gr p => gr.setData f.data f.size p.1 (p.2.setWidth 128)) st.2)) (x.core, x.gr)
        s.done x w r.1 r.2
    else
      let s1 := if f.kind == .uc then (x.ucUnits op f acc).foldl (fun s u => s.atomUc x op f u.1 u.2) s
        else (sectorsOf n acc).foldl (fun s q => s.atomTry x op f acc q) s
      let y := x.again s1
      if acc.all fun p => (y.gr.partOf p.1).isSome then
        s1.lanesDone x w acc fun gr => acc.foldl (fun gr p => gr.setData f.data f.size p.1 ((gr.partOf p.1).getD .init).data) gr
      else s1.waitMem x

def execAadd (g : GroupAt) (f : MF) (s : State) : Host.Outcome State Fault Refusal := .next (atomOp g 0x10 f s)
def execAand (g : GroupAt) (f : MF) (s : State) : Host.Outcome State Fault Refusal := .next (atomOp g 0x11 f s)
def execAor (g : GroupAt) (f : MF) (s : State) : Host.Outcome State Fault Refusal := .next (atomOp g 0x12 f s)
def execAxor (g : GroupAt) (f : MF) (s : State) : Host.Outcome State Fault Refusal := .next (atomOp g 0x13 f s)
def execAmin (g : GroupAt) (f : MF) (s : State) : Host.Outcome State Fault Refusal := .next (atomOp g 0x14 f s)
def execAmax (g : GroupAt) (f : MF) (s : State) : Host.Outcome State Fault Refusal := .next (atomOp g 0x15 f s)
def execAumin (g : GroupAt) (f : MF) (s : State) : Host.Outcome State Fault Refusal := .next (atomOp g 0x16 f s)
def execAumax (g : GroupAt) (f : MF) (s : State) : Host.Outcome State Fault Refusal := .next (atomOp g 0x17 f s)
def execAxchg (g : GroupAt) (f : MF) (s : State) : Host.Outcome State Fault Refusal := .next (atomOp g 0x18 f s)
def execAcas (g : GroupAt) (f : MF) (s : State) : Host.Outcome State Fault Refusal := .next (atomOp g 0x19 f s)
def execAfadd (g : GroupAt) (f : MF) (s : State) : Host.Outcome State Fault Refusal := .next (atomOp g 0x1A f s)

end Sys2Proof.Machine
end

