-- ==== Sys2Proof/Machine/Moraine.lean ====
section
/-! DEFINITION. The moraine controller's own events: draining its buffers (R208, R286), gathers (R288), the check of a stack read (R280),
refresh (R293), temperature (R294 to R296) and command parity (R276, R377). -/
namespace Sys2Proof.Machine

/-- EVICTION_DRAIN: the line's entry drains its dirty sectors, and a writeback that waited for the room is taken; in STOP it waits (R207,
R208, R296). -/
def evictionDrainOp (line : Nat) (s : State) : State :=
  match (s.homeOfLine line).evFind line with
  | some e => if s.hbmRuns line then (s.evDrain e).pumpHome (s.locOf line).floe else s
  | none => s

def execEvictionDrain (line : Nat) (s : State) : Host.Outcome State Fault Refusal := .next (evictionDrainOp line s)

/-- A partial entry is due to leave: no write has reached it for 2 µs (R286). The other reasons, a channel that needs an entry and a rewrite
of the directory entry, make it leave at once (State.ucwAt, State.setDir). -/
def State.wcbDue (s : State) (e : WcbEntry) : Bool := decide (e.last.toNat + 2000 ≤ s.tb.now.toNat)

def wcbEvictOp (line : Nat) (s : State) : State :=
  match (s.homeOfLine line).wcFind line with
  | some e => if s.hbmRuns line && s.wcbDue e then s.wcbOut e else s
  | none => s

def execWcbEvict (line : Nat) (s : State) : Host.Outcome State Fault Refusal := .next (wcbEvictOp line s)

/-! ### Reads that wait -/

/-- GATHER: a queued gather is served from the stack under the bytes that the buffers held when it was accepted, and its sector reaches the
core (R287, R288). -/
def gatherOp (at_ : GroupAt) (sector : Nat) (s : State) : State :=
  let line := sector / 4
  match (s.homeOfLine line).gq.find? fun r => r.core == at_.core && r.grp == at_.grp && r.sector == sector with
  | none => s
  | some r =>
    if !s.mayServe r.waiter then s
    else
      let x := s.stackRead line true (s.report line)
      let v := (⟨r.mask, r.data, r.pois⟩ : Cover).over x.1.v
      let s1 := x.2.onHome line fun h => { h with gq := h.gq.erase r }
      let hit (o : UcOut) : Bool := o.grp == at_.grp && !o.store && fieldN o.addr 0 49 == 32 * sector
      let c := s1.core at_.core
      match c.ucOut.find? hit with
      | none => s1.pumpWrites line
      | some o =>
        (s1.setCore at_.core (c.answered hit
          { UcRes.init with grp := at_.grp, addr := o.addr, data := v.sector (sector % 4), pois := v.secPois (sector % 4) })).pumpWrites line

def execGather (g : GroupAt) (sector : Nat) (s : State) : Host.Outcome State Fault Refusal := .next (gatherOp g sector s)

/-- HBM_READ: a stack read of the line, with the severities and parity of its first and second read (R280). It serves the request of the
home that waits for the line, which the line's transaction, or a writeback that waits for the entry alone, goes on with (R198, R289); with none waiting it is what the line's next read
reports. (DESIGN CHOICE, log entry 29; unsafe.) -/
def hbmReadOp (line : Nat) (first second : ReadReport) (s : State) : State :=
  if !s.lineOk line || !s.hbmRuns line then s
  else
    match (s.homeOfLine line).rq.find? (·.line == line) with
    | none => s.onHome line fun h => { h with reps := h.reps.filter (·.line != line) ++ [⟨line, first, second⟩] }
    | some r =>
      if !s.mayServe r.waiter then s
      else
        let x := s.stackRead line false ⟨line, first, second⟩
        let s1 := x.2.onHome line fun h => { h with rq := h.rq.erase r }
        let s2 :=
          if r.entry then (if ((s1.homeOfLine line).cached line).isSome then s1 else s1.entryRead line x.1.entryBad)
          else
            match (s1.homeOfLine line).txn? line with
            | some t => s1.stackAnswers t (r.cover.over x.1.v) x.1.entryBad
            | none => s1
        (s2.pumpWrites line).pumpHome (s.locOf line).floe

def execHbmRead (line : Nat) (first second : ReadReport) (s : State) : Host.Outcome State Fault Refusal :=
  .next (hbmReadOp line first second s)

/-- The channel is in service: it is in the live-channel table (R281). -/
def State.liveChan (s : State) (f : Floe) (ch : Nat) : Bool := s.live.contains (16 * f.toNat + ch)

/-- The writes of a floe's pseudo-channels that are due are served. -/
def State.pumpFloeWrites (s : State) (f : Floe) : State := (s.home f).wq.foldl (fun s e => s.pumpWrites e.line) s

/-- REFRESH: a REFab that is due is issued to every bank of the pseudo-channel, whose rows it closes; it is never deferred and changes no
data, and a channel mapped out gets none (R293, R298). The writes that waited for it are served then (R290). (DESIGN CHOICE, log entry 65;
safe.) -/
def refreshOp (f : Floe) (pc : BitVec 5) (s : State) : State :=
  if s.refreshDue f pc.toNat && s.liveChan f (pc.toNat / 2) then
    let h := s.home f
    let c := h.chans.get (pc.toNat / 2) .init
    (s.setHome f { h with refs := h.refs.put pc.toNat s.tb.now,
                          chans := h.chans.put (pc.toNat / 2)
                            { c with rows := ⟨c.rows.entries.filter fun e => e.1 / 32 != pc.toNat % 2⟩ } }).pumpFloeWrites f
  else s

def execRefresh (f : Floe) (pc : BitVec 5) (s : State) : Host.Outcome State Fault Refusal := .next (refreshOp f pc s)

/-- The throttle state after a reading (R294): the state whose threshold it reaches, and a state entered before until the
reading falls 3 °C below its threshold. -/
def thermState (old : BitVec 2) (t : Nat) : BitVec 2 :=
  let up : Nat := if 105 ≤ t then 3 else if 95 ≤ t then 2 else if 85 ≤ t then 1 else 0
  let keep : Nat := if 102 ≤ t then 3 else if 92 ≤ t then 2 else if 82 ≤ t then 1 else 0
  BitVec.ofNat 2 (max up (min old.toNat keep))

/-- The controller of a floe goes on with what waits: the writes that are due, and its home's requests. -/
def State.pumpFloe (s : State) (f : Floe) : State :=
  (s.pumpFloeWrites f).pumpHome f

/-- TEMP_READING (R294 to R296). The state STOP of power-up is not one that a reading entered, so the first reading alone decides, and one of
105 °C or more counts as an entry into STOP. What waited in STOP goes on when it is left. (DESIGN CHOICE, log entry 29; unsafe.) -/
def tempReadingOp (f : Floe) (c : BitVec 8) (s : State) : State :=
  let h := s.home f
  let st := thermState (if h.tvalid then h.tstate else 0) c.toNat
  let enter := st == 3 && (h.tstate != 3 || !h.tvalid)
  let s1 := s.setHome f { h with tvalid := true, tlast := c, tpeak := if h.tpeak.toNat < c.toNat then c else h.tpeak, tstate := st,
                                 stops := if enter then satAdd h.stops 1 else h.stops, hot := h.hot || enter }
  if h.tstate == 3 && st != 3 then s1.pumpFloe f else s1

def execTempReading (f : Floe) (c : BitVec 8) (s : State) : Host.Outcome State Fault Refusal := .next (tempReadingOp f c s)

/-- CHANNEL_STOP: 64 command-parity failures in a row stop the channel until power-up (R377). -/
def channelStopOp (f : Floe) (ch : BitVec 4) (s : State) : State :=
  let h := s.home f
  let c := h.chans.get ch.toNat .init
  if s.liveChan f ch.toNat && decide (64 ≤ c.caRun) then
    s.setHome f { h with chans := h.chans.put ch.toNat { c with stopped := true } }
  else s

def execChannelStop (f : Floe) (ch : BitVec 4) (s : State) : Host.Outcome State Fault Refusal := .next (channelStopOp f ch s)

/-- ADDRESS_PARITY_RETRY: a command that fails parity is retried and counted (R276, R300). -/
def addressParityRetryOp (f : Floe) (ch : BitVec 4) (s : State) : State :=
  let h := s.home f
  let c := h.chans.get ch.toNat .init
  if s.liveChan f ch.toNat && !c.stopped then
    s.setHome f { h with chans := h.chans.put ch.toNat { c with capar := satAdd c.capar 1, caRun := min 64 (c.caRun + 1) } }
  else s

def execAddressParityRetry (f : Floe) (ch : BitVec 4) (s : State) : Host.Outcome State Fault Refusal :=
  .next (addressParityRetryOp f ch s)

end Sys2Proof.Machine
end

