-- ==== Sys2Proof/Machine/Sample.lean ====
section
/-! DEFINITION. PC samples (R46, R400 to R402). -/
namespace Sys2Proof.Machine

/-- The state that a meaning answers. -/
def nextOf (s : State) (o : Host.Outcome State Fault Refusal) : State :=
  match o with
  | .next t => t
  | _ => s

/-- What comes of a group's word if it is tried now; a word of an instruction that never waits leaves the state as it is. -/
def State.tried (s : State) (at_ : GroupAt) (w : BitVec 64) : State :=
  match instrOf at_ w with
  | some (.ld g f) => loadOp g 0x00 false f s
  | some (.lds g f) => loadOp g 0x01 true f s
  | some (.st g f) => storeOp g f s
  | some (.ldr g f) => ldrOp g f s
  | some (.stc g f) => stcOp g f s
  | some (.aadd g f) => atomOp g 0x10 f s
  | some (.aand g f) => atomOp g 0x11 f s
  | some (.aor g f) => atomOp g 0x12 f s
  | some (.axor g f) => atomOp g 0x13 f s
  | some (.amin g f) => atomOp g 0x14 f s
  | some (.amax g f) => atomOp g 0x15 f s
  | some (.aumin g f) => atomOp g 0x16 f s
  | some (.aumax g f) => atomOp g 0x17 f s
  | some (.axchg g f) => atomOp g 0x18 f s
  | some (.acas g f) => atomOp g 0x19 f s
  | some (.afadd g f) => atomOp g 0x1A f s
  | some (.mxpack g f) => mxpackOp g f s
  | some (.mxz g f) => nextOf s (execMxz g f s)
  | some (.mxop g f) => nextOf s (execMxop g f s)
  | some (.mxdrn g f) => nextOf s (execMxdrn g f s)
  | some (.mxsync g f) => mxsyncOp g f s
  | some (.fence g f) => fenceOp g f s
  | some (.barCore g f) => nextOf s (execBarCore g f s)
  | some (.barClu g f) => nextOf s (execBarClu g f s)
  | some (.barSys g f) => barSysOp g f s
  | some (.fnput g f) => fnputOp g f s
  | some (.fnget g f) => fngetOp g f s
  | _ => s

/-- The word is a load of the weight-store window. -/
def State.loadsWindow (s : State) (x : Ctx) (w : BitVec 64) : Bool :=
  match instrOf ⟨x.id, x.g⟩ w with
  | some (.ld _ f) => !f.spad && (x.lanes f false).any fun p => s.inWindow p.2
  | some (.lds _ f) => !f.spad && (x.lanes f false).any fun p => s.inWindow p.2
  | _ => false

/-- The reason for which a running group would be held if it were tried now: none when its instruction would leave the group, or stop its kernel. -/
def State.heldNow (s : State) (x : Ctx) (w : BitVec 64) : Option (BitVec 4) :=
  let at_ : GroupAt := ⟨x.id, x.g⟩
  match ((s.setGroup x { x.gr with stall := 0 }).tried at_ w).runner at_ with
  | none => none
  | some y => if y.gr.pc == x.gr.pc && y.gr.stall != 0 then some y.gr.stall else none

/-- The codes that may apply to a group that is held for reason `k`: the lower ones of FETCH, OPERAND and UNIT, and `k`. -/
def codesBelow (k : BitVec 4) : List (BitVec 4) := ([1, 2, 4] : List (BitVec 4)).filter (· < k) ++ [k]

/-- The stall reasons that a sample of a group may show (R46), from what the group finds when it is sampled. At a barrier: FETCH or BARRIER. At
a fence that has begun: its reason. Held for another reason: that one, or FETCH, OPERAND or UNIT where lower. Not held, or with an access that
has not begun and would go outside the core: FETCH, OPERAND, UNIT or NOTSEL, also ISSUED where the group is the last that issued on a path, WSTORE
where it loads from the weight store and MEMORY where the access would wait. The model counts no cycles, so which of them applies is a free value.
(DESIGN CHOICE, log entry 5; safe.) -/
def State.reasons (s : State) (at_ : GroupAt) (gr : Group) : List (BitVec 4) :=
  match s.runner at_ with
  | none => if gr.wait != .run then [1, 9] else if gr.stall = 0 then [1, 2, 4, 0xA] else codesBelow gr.stall
  | some x =>
    let w := (x.la.wordAt x.gr.pc).getD 0
    let last : List (BitVec 4) := if x.core.lastV == x.g || x.core.lastS == x.g then [0] else []
    let free : List (BitVec 4) := last ++ [1, 2, 4] ++ (if s.loadsWindow x w then [6] else []) ++ [0xA]
    match s.heldNow x w with
    | none => free
    | some k =>
      if k = 3 && x.gr.stall != 3 then free ++ [3]
      else if x.gr.fenceMark.isSome then [k]
      else codesBelow k

/-- PC_SAMPLE: a selected cluster whose island runs samples one group of its next core with a block (R400, R402). The collector takes one
sample per 16 cycles; whether it is busy is a free value for a sample under the same time code as the last it took, and it is free for a
later one (R401; log entry 36). -/
def pcSampleOp (c : Clu) (s : State) : State :=
  let k := s.clu c
  if !s.dgOpen || !s.dg.selects c || !k.runs then s
  else
    let id (i : Nat) : CoreId := BitVec.ofNat 20 (64 * c.toNat + i)
    match nextFrom 64 k.nextCore.toNat fun i => (s.core (id i)).launch.isSome with
    | none => s
    | some i =>
      let core := s.core (id i)
      match nextFrom 16 k.nextGrp.toNat fun g => core.gact.testBit g with
      | none => s.setClu c { k with nextCore := BitVec.ofNat 6 (i + 1) }
      | some g =>
        -- a block that has not started waits for its first instruction (R362)
        let la := s.launches.get (core.launch.getD 0) .init
        let gr := if core.started then core.groups.get g .init else { Group.init with pc := BitVec.ofNat 48 la.entry, stall := 1 }
        let codes := if core.started then s.reasons ⟨id i, BitVec.ofNat 4 g⟩ gr else [1]
        let f := s.take
        let why := codes.getD ((Config.freeWord f.1 0).toNat % codes.length) gr.stall
        let s1 := f.2.setClu c { k with nextCore := BitVec.ofNat 6 (i + 1), nextGrp := BitVec.ofNat 4 (g + 1) }
        let t := s1.stampOf c
        let e := pcsEntry 0 (gr.pc.setWidth 32) (bits gr.pc 32 16) why (BitVec.ofNat 4 g) (id i) t.1
        let busy := s.dg.pcsAt == some s.tb.now && (Config.freeWord f.1 1).getLsbD 0
        { t.2 with dg := t.2.dg.sample e t.1 s.tb.now busy }

def execPcSample (clu : Clu) (s : State) : Host.Outcome State Fault Refusal := .next (pcSampleOp clu s)

end Sys2Proof.Machine
end

