-- ==== Sys2Proof/Machine/Vector.lean ====
section
/-! DEFINITION. The vector instructions (R141 to R144): arithmetic, compare, conversion and cross-lane. Each is one lane function handed
to the shared operation that issues, reads, writes and retires. -/
namespace Sys2Proof.Machine

/-- What a lane reads: the three sources. -/
structure Srcs where
  a : BitVec 64
  b : BitVec 64
  c : BitVec 64

/-- The sources of a lane, each 32 bits or a pair. -/
def Group.srcs (gr : Group) (f : VF) (wa wb wc : Bool) (lane : Nat) : Srcs :=
  ⟨gr.rd f.src0 wa lane, gr.rd1 f wb lane, gr.rd f.src2 wc lane⟩

/-- SRC0 is a source, but for VMOV in format VI. -/
def usesSrc0 (word : BitVec 64) : Bool := !(fieldN word 60 4 == 2 && fieldN word 52 8 == 0)

/-- Whether a source of an active lane reads a poisoned register (R372); only the opcode's own sources count. -/
def Group.vecPois (gr : Group) (word : BitVec 64) (f : VF) (wa wb wc : Bool) : Bool :=
  let n := vecSrcs (fieldN word 52 8)
  (lanesOf gr.exec).any fun l =>
    (usesSrc0 word && gr.opPois f.src0 wa l) || (1 < n && gr.srcPois f.src1 wb l) || (2 < n && gr.opPois f.src2 wc l)

/-- A vector instruction whose destination is written lane by lane: `lane` is its function, `w` the source width and
`dw` the destination width. -/
def vecOp (at_ : GroupAt) (word : BitVec 64) (f : VF) (wa wb dw : Bool) (lane : Srcs → BitVec 64) (s : State) : State :=
  match s.issuer at_ word with
  | none => s
  | some x =>
    if x.gr.vecPois word f wa wb wa then s.kerr x 0x0301
    else s.done x word x.core (x.gr.wrDst f.dst dw fun l => lane (x.gr.srcs f wa wb wa l))

/-- A vector instruction of one width throughout. -/
def vecSame (at_ : GroupAt) (op : BitVec 8) (f : VF) (lane : Srcs → BitVec 64) (s : State) : State :=
  vecOp at_ (encV op f) f (wide f.ty) (wide f.ty) (wide f.ty) lane s

def lo32 (x : BitVec 64) : Word := x.setWidth 32
def up32 (x : Word) : BitVec 64 := x.setWidth 64

/-- The low 32 bits of a result for a 32-bit type, all 64 for a pair. -/
def fit (t : Ty) (x : BitVec 64) : BitVec 64 := if wide t then x else up32 (lo32 x)

def addLane (t : Ty) (x : Srcs) : BitVec 64 := fit t (x.a + x.b)
def subLane (t : Ty) (x : Srcs) : BitVec 64 := fit t (x.a - x.b)
def mulloLane (x : Srcs) : BitVec 64 := up32 (lo32 x.a * lo32 x.b)

/-- The high 32 bits of the 64-bit product, signed for i32. -/
def mulhiLane (t : Ty) (x : Srcs) : BitVec 64 :=
  if t == .i32 then (((lo32 x.a).signExtend 64 * (lo32 x.b).signExtend 64) >>> 32)
  else (((lo32 x.a).setWidth 64 * (lo32 x.b).setWidth 64) >>> 32)

def minLane (t : Ty) (x : Srcs) : BitVec 64 :=
  if tyCmp t x.a x.b == some .gt then fit t x.b else fit t x.a

def maxLane (t : Ty) (x : Srcs) : BitVec 64 :=
  if tyCmp t x.a x.b == some .lt then fit t x.b else fit t x.a

/-- Shift amount: the second source modulo the width (R141). -/
def shAmt (t : Ty) (b : BitVec 64) : Nat := if wide t then b.toNat % 64 else (lo32 b).toNat % 32

def shlLane (t : Ty) (x : Srcs) : BitVec 64 :=
  if wide t then x.a <<< shAmt t x.b else up32 (lo32 x.a <<< shAmt t x.b)

def shrLane (t : Ty) (x : Srcs) : BitVec 64 :=
  match t with
  | .i32 => up32 ((lo32 x.a).sshiftRight (shAmt t x.b))
  | .i64 => x.a.sshiftRight (shAmt t x.b)
  | .u64 => x.a >>> shAmt t x.b
  | _ => up32 (lo32 x.a >>> shAmt t x.b)

def popcLane (x : Srcs) : BitVec 64 := BitVec.ofNat 64 (popcount (lo32 x.a))

def clzLane (x : Srcs) : BitVec 64 :=
  BitVec.ofNat 64 (((List.range 32).find? fun i => (lo32 x.a).getLsbD (31 - i)).getD 32)

/-- A floating operation on decoded values, rounded once into the type. -/
def fOp (t : Ty) (rm : Rm) (f : FVal → FVal → FVal → FVal) (x : Srcs) : BitVec 64 :=
  if t == .f64 then toF64 rm (f (f64 x.a) (f64 x.b) (f64 x.c))
  else up32 (toF32 rm (f (f32 (lo32 x.a)) (f32 (lo32 x.b)) (f32 (lo32 x.c))))

def rcpLane (t : Ty) (x : Srcs) : BitVec 64 :=
  if t == .f64 then toF64 .rn (rcpSeed (f64 x.a)) else up32 (rcp32 (lo32 x.a))

def rsqLane (t : Ty) (x : Srcs) : BitVec 64 :=
  if t == .f64 then toF64 .rn (rsqSeed (f64 x.a)) else up32 (rsq32 (lo32 x.a))

/-- The result of a compare in a lane (R142). -/
def cmpLane (f : VF) (x : Srcs) : Bool := condHolds (fieldN f.md 0 3) (tyCmp f.ty x.a x.b)

/-- VMOV takes SRC0, or IMM24 in format VI. -/
def movLane (f : VF) (x : Srcs) : BitVec 64 :=
  match f.src1 with
  | .op _ => fit f.ty x.a
  | .imm _ => fit f.ty x.b

def execVmov (g : GroupAt) (f : VF) (s : State) : Host.Outcome State Fault Refusal :=
  .next (vecSame g 0x00 f (movLane f) s)
def execVadd (g : GroupAt) (f : VF) (s : State) : Host.Outcome State Fault Refusal :=
  .next (vecSame g 0x01 f (addLane f.ty) s)
def execVsub (g : GroupAt) (f : VF) (s : State) : Host.Outcome State Fault Refusal :=
  .next (vecSame g 0x02 f (subLane f.ty) s)
def execVmullo (g : GroupAt) (f : VF) (s : State) : Host.Outcome State Fault Refusal :=
  .next (vecSame g 0x03 f mulloLane s)
def execVmulhi (g : GroupAt) (f : VF) (s : State) : Host.Outcome State Fault Refusal :=
  .next (vecSame g 0x04 f (fun x => up32 (lo32 (mulhiLane f.ty x))) s)
def execVmin (g : GroupAt) (f : VF) (s : State) : Host.Outcome State Fault Refusal :=
  .next (vecSame g 0x05 f (minLane f.ty) s)
def execVmax (g : GroupAt) (f : VF) (s : State) : Host.Outcome State Fault Refusal :=
  .next (vecSame g 0x06 f (maxLane f.ty) s)
def execVand (g : GroupAt) (f : VF) (s : State) : Host.Outcome State Fault Refusal :=
  .next (vecSame g 0x07 f (fun x => fit f.ty (x.a &&& x.b)) s)
def execVor (g : GroupAt) (f : VF) (s : State) : Host.Outcome State Fault Refusal :=
  .next (vecSame g 0x08 f (fun x => fit f.ty (x.a ||| x.b)) s)
def execVxor (g : GroupAt) (f : VF) (s : State) : Host.Outcome State Fault Refusal :=
  .next (vecSame g 0x09 f (fun x => fit f.ty (x.a ^^^ x.b)) s)
def execVnot (g : GroupAt) (f : VF) (s : State) : Host.Outcome State Fault Refusal :=
  .next (vecSame g 0x0A f (fun x => fit f.ty (~~~x.a)) s)
def execVshl (g : GroupAt) (f : VF) (s : State) : Host.Outcome State Fault Refusal :=
  .next (vecSame g 0x0B f (shlLane f.ty) s)
def execVshr (g : GroupAt) (f : VF) (s : State) : Host.Outcome State Fault Refusal :=
  .next (vecSame g 0x0C f (shrLane f.ty) s)

/-- VSEL: bit `l` of the scalar SRC2 chooses SRC0 or SRC1 in lane `l`. -/
def vselOp (g : GroupAt) (f : VF) (s : State) : State :=
  match s.issuer g (encV 0x0D f) with
  | none => s
  | some x =>
    if x.gr.vecPois (encV 0x0D f) f false false false then s.kerr x 0x0301
    else
      s.done x (encV 0x0D f) x.core (x.gr.wrDst f.dst false fun l =>
        if (x.gr.rd f.src2 false l).getLsbD l then x.gr.rd f.src0 false l else x.gr.rd1 f false l)

def execVsel (g : GroupAt) (f : VF) (s : State) : Host.Outcome State Fault Refusal := .next (vselOp g f s)

def execVpopc (g : GroupAt) (f : VF) (s : State) : Host.Outcome State Fault Refusal :=
  .next (vecSame g 0x0E f popcLane s)
def execVclz (g : GroupAt) (f : VF) (s : State) : Host.Outcome State Fault Refusal :=
  .next (vecSame g 0x0F f clzLane s)
def execVfadd (g : GroupAt) (f : VF) (s : State) : Host.Outcome State Fault Refusal :=
  .next (vecSame g 0x20 f (fOp f.ty f.rm fun a b _ => FVal.add f.rm a b) s)
def execVfsub (g : GroupAt) (f : VF) (s : State) : Host.Outcome State Fault Refusal :=
  .next (vecSame g 0x21 f (fOp f.ty f.rm fun a b _ => FVal.add f.rm a b.neg) s)
def execVfmul (g : GroupAt) (f : VF) (s : State) : Host.Outcome State Fault Refusal :=
  .next (vecSame g 0x22 f (fOp f.ty f.rm fun a b _ => FVal.mul a b) s)
def execVfma (g : GroupAt) (f : VF) (s : State) : Host.Outcome State Fault Refusal :=
  .next (vecSame g 0x23 f (fOp f.ty f.rm fun a b c => FVal.add f.rm (FVal.mul a b) c) s)
def execVfmin (g : GroupAt) (f : VF) (s : State) : Host.Outcome State Fault Refusal :=
  .next (vecSame g 0x24 f (fOp f.ty .rn fun a b _ => FVal.min a b) s)
def execVfmax (g : GroupAt) (f : VF) (s : State) : Host.Outcome State Fault Refusal :=
  .next (vecSame g 0x25 f (fOp f.ty .rn fun a b _ => FVal.max a b) s)
def execVfabs (g : GroupAt) (f : VF) (s : State) : Host.Outcome State Fault Refusal :=
  .next (vecSame g 0x26 f (fOp f.ty .rn fun a _ _ => FVal.abs a) s)
def execVfneg (g : GroupAt) (f : VF) (s : State) : Host.Outcome State Fault Refusal :=
  .next (vecSame g 0x27 f (fOp f.ty .rn fun a _ _ => FVal.neg a) s)
def execVrcp (g : GroupAt) (f : VF) (s : State) : Host.Outcome State Fault Refusal :=
  .next (vecSame g 0x30 f (rcpLane f.ty) s)
def execVrsq (g : GroupAt) (f : VF) (s : State) : Host.Outcome State Fault Refusal :=
  .next (vecSame g 0x31 f (rsqLane f.ty) s)
def execVex2 (g : GroupAt) (f : VF) (s : State) : Host.Outcome State Fault Refusal :=
  .next (vecSame g 0x32 f (fun x => up32 (ex2 (lo32 x.a))) s)
def execVlg2 (g : GroupAt) (f : VF) (s : State) : Host.Outcome State Fault Refusal :=
  .next (vecSame g 0x33 f (fun x => up32 (lg2 (lo32 x.a))) s)
def execVsin (g : GroupAt) (f : VF) (s : State) : Host.Outcome State Fault Refusal :=
  .next (vecSame g 0x34 f (fun x => up32 (sincos false (lo32 x.a))) s)
def execVcos (g : GroupAt) (f : VF) (s : State) : Host.Outcome State Fault Refusal :=
  .next (vecSame g 0x35 f (fun x => up32 (sincos true (lo32 x.a))) s)

/-- The mask of the active lanes in which the condition holds; other bits are 0 (R52). -/
def Group.cmpMask (gr : Group) (f : VF) : Word :=
  BitVec.ofNat 32 ((lanesOf gr.exec).foldl
    (fun m l => if cmpLane f (gr.srcs f (wide f.ty) (wide f.ty) false l) then m + 2 ^ l else m) 0)

/-- VCMP: the lane mask into a scalar register. -/
def vcmpOp (g : GroupAt) (f : VF) (s : State) : State :=
  match s.issuer g (encV 0x40 f) with
  | none => s
  | some x =>
    if x.gr.vecPois (encV 0x40 f) f (wide f.ty) (wide f.ty) false then s.kerr x 0x0301
    else s.done x (encV 0x40 f) x.core (x.gr.wrDst f.dst false fun _ => up32 (x.gr.cmpMask f))

def execVcmp (g : GroupAt) (f : VF) (s : State) : Host.Outcome State Fault Refusal := .next (vcmpOp g f s)

/-- VSET: 1 or 0 in a single 32-bit register, whatever the type. -/
def execVset (g : GroupAt) (f : VF) (s : State) : Host.Outcome State Fault Refusal :=
  .next (vecOp g (encV 0x41 f) f (wide f.ty) (wide f.ty) false (fun x => if cmpLane f x then 1 else 0) s)

/-- VCVT between the types of its modifier (R143). -/
def execVcvt (g : GroupAt) (src dst : Ty) (f : VF) (s : State) : Host.Outcome State Fault Refusal :=
  .next (vecOp g (encCvt src dst f) f (wide src) false (wide dst) (fun x => convert f.rm src dst x.a) s)

/-- The lane that VSHFL reads in lane `l` (R144). -/
def Group.shflFrom (gr : Group) (f : VF) (l : Nat) : Nat :=
  let k := (lo32 (gr.rd1 f false l)).toNat
  match fieldN f.md 0 2 with
  | 0 => k % 32
  | 3 => (l ^^^ (k % 32))
  | 1 => if k ≤ l && gr.exec.getLsbD (l - k) then l - k else l
  | _ => if l + k < 32 && gr.exec.getLsbD (l + k) then l + k else l

/-- VSHFL: SRC0 of another lane as it stands. -/
def vshflOp (g : GroupAt) (f : VF) (s : State) : State :=
  match s.issuer g (encV 0x60 f) with
  | none => s
  | some x =>
    let w := wide f.ty
    if (lanesOf x.gr.exec).any fun l =>
        x.gr.srcPois f.src1 false l || x.gr.opPois f.src0 w (x.gr.shflFrom f l) then s.kerr x 0x0301
    else s.done x (encV 0x60 f) x.core (x.gr.wrDst f.dst w fun l => x.gr.rd f.src0 w (x.gr.shflFrom f l))

def execVshfl (g : GroupAt) (f : VF) (s : State) : Host.Outcome State Fault Refusal := .next (vshflOp g f s)

/-- One combine of VRED (R141, R144). -/
def redCombine (f : VF) (a b : BitVec 64) : BitVec 64 :=
  let x : Srcs := ⟨a, b, 0⟩
  match fieldN f.md 0 3 with
  | 0 => if isFloat f.ty then fOp f.ty f.rm (fun p q _ => FVal.add f.rm p q) x else addLane f.ty x
  | 1 => if isFloat f.ty then fOp f.ty .rn (fun p q _ => FVal.min p q) x else minLane f.ty x
  | 2 => if isFloat f.ty then fOp f.ty .rn (fun p q _ => FVal.max p q) x else maxLane f.ty x
  | 3 => fit f.ty (a &&& b)
  | 4 => fit f.ty (a ||| b)
  | _ => fit f.ty (a ^^^ b)

/-- Adjacent pairs combined; an operand that stands only for inactive lanes lets the other pass. -/
def redLevel (f : VF) : List (Option (BitVec 64)) → List (Option (BitVec 64))
  | a :: b :: t =>
    (match a, b with
      | some p, some q => some (redCombine f p q)
      | some p, none => some p
      | none, q => q) :: redLevel f t
  | t => t

/-- The result of VRED when EXEC is 0 (R144). -/
def redEmpty (f : VF) : BitVec 64 :=
  let nan := if f.ty == .f64 then 0x7FF8000000000000#64 else 0x7FC00000#64
  match fieldN f.md 0 3 with
  | 1 => match f.ty with
    | .i32 => 0x7FFFFFFF
    | .u32 => 0xFFFFFFFF
    | .i64 => 0x7FFFFFFFFFFFFFFF
    | .u64 => 0xFFFFFFFFFFFFFFFF
    | _ => nan
  | 2 => match f.ty with
    | .i32 => 0x80000000
    | .i64 => 0x8000000000000000
    | .u32 => 0
    | .u64 => 0
    | _ => nan
  | 3 => fit f.ty 0xFFFFFFFFFFFFFFFF
  | _ => 0

/-- The value of VRED: a fixed binary tree over the lanes, inactive lanes without effect. -/
def Group.reduce (gr : Group) (f : VF) : BitVec 64 :=
  let w := wide f.ty
  let leaves := (List.range 32).map fun l => if gr.exec.getLsbD l then some (gr.rd f.src0 w l) else none
  let r := (List.range 5).foldl (fun ls _ => redLevel f ls) leaves
  match r.headD none with
  | none => redEmpty f
  | some v =>
    -- a NaN that passed up alone through a floating ADD, MIN or MAX is canonical (R144)
    if isFloat f.ty && fieldN f.md 0 3 < 3 then
      (if f.ty == .f64 then (if (f64 v).isNan then 0x7FF8000000000000 else v)
       else if (f32 (lo32 v)).isNan then 0x7FC00000 else v)
    else v

def vredOp (g : GroupAt) (f : VF) (s : State) : State :=
  match s.issuer g (encV 0x61 f) with
  | none => s
  | some x =>
    if (lanesOf x.gr.exec).any fun l => x.gr.opPois f.src0 (wide f.ty) l then s.kerr x 0x0301
    else s.done x (encV 0x61 f) x.core (x.gr.wrDst f.dst (wide f.ty) fun _ => x.gr.reduce f)

def execVred (g : GroupAt) (f : VF) (s : State) : Host.Outcome State Fault Refusal := .next (vredOp g f s)

/-- The lane that SRDLANE reads: SRC1 & 31 in the lowest active lane, or in lane 0 when EXEC is 0 (R141). -/
def Group.rdLaneOf (gr : Group) (f : VF) : Nat :=
  let l := if gr.exec = 0 then 0 else lowestBit gr.exec
  (lo32 (gr.rd1 f false l)).toNat % 32

def srdlaneOp (g : GroupAt) (f : VF) (s : State) : State :=
  match s.issuer g (encV 0x62 f) with
  | none => s
  | some x =>
    let w := wide f.ty
    let l := if x.gr.exec = 0 then 0 else lowestBit x.gr.exec
    if x.gr.srcPois f.src1 false l || x.gr.opPois f.src0 w (x.gr.rdLaneOf f) then s.kerr x 0x0301
    else s.done x (encV 0x62 f) x.core (x.gr.wrDst f.dst w fun _ => x.gr.rd f.src0 w (x.gr.rdLaneOf f))

def execSrdlane (g : GroupAt) (f : VF) (s : State) : Host.Outcome State Fault Refusal := .next (srdlaneOp g f s)

end Sys2Proof.Machine
end

