-- ==== Sys2Proof/Machine/Scalar.lean ====
section
/-! DEFINITION. The scalar instructions (R145), the special registers of R55, and the branches, calls and group exit of R146. -/
namespace Sys2Proof.Machine

/-- The second operand of a scalar instruction: IMM32 or SRC1 (R139, R140). -/
def Group.sOpnd (gr : Group) (f : SF) : BitVec 64 :=
  if f.immf then (if f.w64 then f.imm.signExtend 64 else f.imm.setWidth 64)
  else if f.w64 then gr.sreg64 f.src1.toNat else (gr.sreg f.src1.toNat).setWidth 64

def Group.sSrc0 (gr : Group) (f : SF) : BitVec 64 :=
  if f.w64 then gr.sreg64 f.src0.toNat else (gr.sreg f.src0.toNat).setWidth 64

/-- A poisoned scalar source (R372): SMOV has no SRC0, and SFIRST and SPOPC no second operand. -/
def Group.sclPois (gr : Group) (op : BitVec 8) (f : SF) : Bool :=
  (op != 0x00 && gr.sPois f.w64 f.src0.toNat) ||
    (op != 0x20 && op != 0x21 && !f.immf && gr.sPois f.w64 f.src1.toNat)

/-- A scalar instruction of CLASS 5: `op` of the two operands into DST (R51: whatever EXEC holds). -/
def sclOp (at_ : GroupAt) (op : BitVec 8) (f : SF) (res : BitVec 64 → BitVec 64 → BitVec 64) (s : State) : State :=
  match s.issuer at_ (encS 5 op f) with
  | none => s
  | some x =>
    if x.gr.sclPois op f then s.kerr x 0x0301
    else s.done x (encS 5 op f) x.core (x.gr.setS64 f.w64 f.dst.toNat (res (x.gr.sSrc0 f) (x.gr.sOpnd f)))

def sShift (f : SF) (b : BitVec 64) : Nat := if f.w64 then b.toNat % 64 else b.toNat % 32

def execSmov (g : GroupAt) (f : SF) (s : State) : Host.Outcome State Fault Refusal :=
  .next (sclOp g 0x00 f (fun _ b => b) s)
def execSadd (g : GroupAt) (f : SF) (s : State) : Host.Outcome State Fault Refusal :=
  .next (sclOp g 0x01 f (fun a b => a + b) s)
def execSsub (g : GroupAt) (f : SF) (s : State) : Host.Outcome State Fault Refusal :=
  .next (sclOp g 0x02 f (fun a b => a - b) s)
def execSmul (g : GroupAt) (f : SF) (s : State) : Host.Outcome State Fault Refusal :=
  .next (sclOp g 0x03 f (fun a b => a * b) s)
def execSand (g : GroupAt) (f : SF) (s : State) : Host.Outcome State Fault Refusal :=
  .next (sclOp g 0x04 f (fun a b => a &&& b) s)
def execSor (g : GroupAt) (f : SF) (s : State) : Host.Outcome State Fault Refusal :=
  .next (sclOp g 0x05 f (fun a b => a ||| b) s)
def execSxor (g : GroupAt) (f : SF) (s : State) : Host.Outcome State Fault Refusal :=
  .next (sclOp g 0x06 f (fun a b => a ^^^ b) s)
def execSandn (g : GroupAt) (f : SF) (s : State) : Host.Outcome State Fault Refusal :=
  .next (sclOp g 0x07 f (fun a b => a &&& ~~~b) s)
def execSshl (g : GroupAt) (f : SF) (s : State) : Host.Outcome State Fault Refusal :=
  .next (sclOp g 0x08 f (fun a b => a <<< sShift f b) s)
def execSshr (g : GroupAt) (f : SF) (s : State) : Host.Outcome State Fault Refusal :=
  .next (sclOp g 0x09 f (fun a b => a >>> sShift f b) s)
def execSsra (g : GroupAt) (f : SF) (s : State) : Host.Outcome State Fault Refusal :=
  .next (sclOp g 0x0A f
    (fun a b => if f.w64 then a.sshiftRight (sShift f b) else up32 ((lo32 a).sshiftRight (sShift f b))) s)
def execSmin (g : GroupAt) (f : SF) (s : State) : Host.Outcome State Fault Refusal :=
  .next (sclOp g 0x0B f (fun a b => if (lo32 a).toInt ≤ (lo32 b).toInt then a else b) s)
def execSmax (g : GroupAt) (f : SF) (s : State) : Host.Outcome State Fault Refusal :=
  .next (sclOp g 0x0C f (fun a b => if (lo32 a).toInt ≤ (lo32 b).toInt then b else a) s)
def execScmp (g : GroupAt) (c : SCond) (f : SF) (s : State) : Host.Outcome State Fault Refusal :=
  .next (sclOp g (condCode c) f (fun a b => if scondHolds c (lo32 a) (lo32 b) then 1 else 0) s)
def execSfirst (g : GroupAt) (f : SF) (s : State) : Host.Outcome State Fault Refusal :=
  .next (sclOp g 0x20 f (fun a _ => BitVec.ofNat 64 (lowestBit (lo32 a))) s)
def execSpopc (g : GroupAt) (f : SF) (s : State) : Host.Outcome State Fault Refusal :=
  .next (sclOp g 0x21 f (fun a _ => BitVec.ofNat 64 (popcount (lo32 a))) s)

/-- The special registers of R55 other than TIME, by the number of R145. -/
def Ctx.special (x : Ctx) (mid : ModId) (n : Nat) : Word :=
  match n with
  | 0 => x.gr.exec
  | 1 => x.gr.lmask
  | 2 => x.g.setWidth 32
  | 3 => x.core.ngrp.setWidth 32
  | 4 => x.id.setWidth 32
  | 5 => mid.setWidth 32
  | _ => 0

/-- SRDS: a special register into DST; TIME takes a time-stamp of the island into a pair (R55, R392). The launch's
address space is 0 (R338). -/
def srdsOp (g : GroupAt) (f : SF) (s : State) : State :=
  match s.issuer g (encS 5 0x30 f) with
  | none => s
  | some x =>
    if f.imm = 7 then
      let t := s.stampOf (cluOf x.id)
      t.2.done x (encS 5 0x30 f) x.core (x.gr.setS64 true f.dst.toNat t.1)
    else s.done x (encS 5 0x30 f) x.core (x.gr.setS f.dst.toNat (x.special s.mid f.imm.toNat))

def execSrds (g : GroupAt) (f : SF) (s : State) : Host.Outcome State Fault Refusal := .next (srdsOp g f s)

/-- SWRS: EXEC ← SRC0 with every bit clear in LMASK cleared (R52). -/
def swrsOp (g : GroupAt) (f : SF) (s : State) : State :=
  match s.issuer g (encS 5 0x31 f) with
  | none => s
  | some x =>
    if x.gr.sPois false f.src0.toNat then s.kerr x 0x0301
    else s.done x (encS 5 0x31 f) x.core { x.gr with exec := x.gr.sreg f.src0.toNat &&& x.gr.lmask }

def execSwrs (g : GroupAt) (f : SF) (s : State) : Host.Outcome State Fault Refusal := .next (swrsOp g f s)

/-- The relative target: the branch's own address plus 8 × IMM32 (R146). -/
def relPc (pc : BitVec 48) (f : SF) : BitVec 48 := pc + (f.imm.signExtend 48 <<< 3)

/-- A relative branch, taken when the condition holds; `src` is whether it reads SRC0. -/
def branchOp (at_ : GroupAt) (op : BitVec 8) (f : SF) (src : Bool) (taken : Group → Bool) (s : State) : State :=
  match s.issuer at_ (encS 6 op f) with
  | none => s
  | some x =>
    if src && x.gr.sPois false f.src0.toNat then s.kerr x 0x0301
    else s.retire x (encS 6 op f) (if taken x.gr then relPc x.gr.pc f else x.gr.pc + 8) x.core x.gr

def execSbr (g : GroupAt) (f : SF) (s : State) : Host.Outcome State Fault Refusal :=
  .next (branchOp g 0x00 f false (fun _ => true) s)
def execSbrz (g : GroupAt) (f : SF) (s : State) : Host.Outcome State Fault Refusal :=
  .next (branchOp g 0x01 f true (fun gr => gr.sreg f.src0.toNat == 0) s)
def execSbrnz (g : GroupAt) (f : SF) (s : State) : Host.Outcome State Fault Refusal :=
  .next (branchOp g 0x02 f true (fun gr => gr.sreg f.src0.toNat != 0) s)
def execSbrexz (g : GroupAt) (f : SF) (s : State) : Host.Outcome State Fault Refusal :=
  .next (branchOp g 0x03 f false (fun gr => gr.exec == 0) s)
def execSbrexnz (g : GroupAt) (f : SF) (s : State) : Host.Outcome State Fault Refusal :=
  .next (branchOp g 0x04 f false (fun gr => gr.exec != 0) s)

/-- A register target lies in the image and is a multiple of 8 (R134). -/
def Launch.inImage (l : Launch) (t : BitVec 64) : Bool :=
  t.toNat % 8 == 0 && l.entry ≤ t.toNat && t.toNat < l.entry + 8 * l.image.length

/-- A jump to the address in the pair SRC0, which stops the kernel with E_XLATE when the target is not an instruction
of the image (R134); `link` writes DST with the next address. -/
def jumpReg (at_ : GroupAt) (op : BitVec 8) (f : SF) (link : Bool) (s : State) : State :=
  match s.issuer at_ (encS 6 op f) with
  | none => s
  | some x =>
    if x.gr.sPois true f.src0.toNat then s.kerr x 0x0301
    else
      let t := x.gr.sreg64 f.src0.toNat
      if x.la.inImage t then
        s.retire x (encS 6 op f) (t.setWidth 48) x.core
          (if link then x.gr.setS64 true f.dst.toNat ((x.gr.pc + 8).setWidth 64) else x.gr)
      else s.kerr x 0x0302

def execSjmpr (g : GroupAt) (f : SF) (s : State) : Host.Outcome State Fault Refusal := .next (jumpReg g 0x08 f false s)

/-- SCALL: DST ← own address + 8; jump to the relative target. -/
def scallOp (g : GroupAt) (f : SF) (s : State) : State :=
  match s.issuer g (encS 6 0x09 f) with
  | none => s
  | some x =>
    s.retire x (encS 6 0x09 f) (relPc x.gr.pc f) x.core (x.gr.setS64 true f.dst.toNat ((x.gr.pc + 8).setWidth 64))

def execScall (g : GroupAt) (f : SF) (s : State) : Host.Outcome State Fault Refusal := .next (scallOp g f s)
def execScallr (g : GroupAt) (f : SF) (s : State) : Host.Outcome State Fault Refusal := .next (jumpReg g 0x0A f true s)

/-- SEXIT: the group finishes; CO_STATE reports the store buffer draining once no group is left (R71), and the core may now have arrived at a barrier (R171). -/
def sexitOp (g : GroupAt) (f : SF) (s : State) : State :=
  match s.issuer g (encS 6 0x0F f) with
  | none => s
  | some x =>
    let gr := { x.gr with fin := true }
    let all := (x.core.setGroup x.g gr).groups.vals.all (·.fin)
    let core := if all then { x.core with run := if x.core.sb.isEmpty then x.core.run else 3 } else x.core
    let s1 := s.retire x (encS 6 0x0F f) (x.gr.pc + 8) core gr
    let s2 := s1.setCore x.id ((s1.core x.id).setGroup x.g { ((s1.core x.id).groups.get x.g.toNat .init) with stall := 0xB })
    s2.barSweep x.id

def execSexit (g : GroupAt) (f : SF) (s : State) : Host.Outcome State Fault Refusal := .next (sexitOp g f s)

def execSnop (g : GroupAt) (f : SF) (s : State) : Host.Outcome State Fault Refusal :=
  .next (branchOp g 0x10 f false (fun _ => false) s)

end Sys2Proof.Machine
end

