-- ==== Sys2Proof/Machine/Dispatch.lean ====
section
/-! DEFINITION. The dispatch of a command to its meaning: one arm for each row of the opcode table. -/
namespace Sys2Proof.Machine

def exec (i : Instr) (s : State) : Host.Outcome State Fault Refusal :=
  match i with
  | .vmov g f => Sys2Proof.Machine.execVmov g f s
  | .vadd g f => Sys2Proof.Machine.execVadd g f s
  | .vsub g f => Sys2Proof.Machine.execVsub g f s
  | .vmullo g f => Sys2Proof.Machine.execVmullo g f s
  | .vmulhi g f => Sys2Proof.Machine.execVmulhi g f s
  | .vmin g f => Sys2Proof.Machine.execVmin g f s
  | .vmax g f => Sys2Proof.Machine.execVmax g f s
  | .vand g f => Sys2Proof.Machine.execVand g f s
  | .vor g f => Sys2Proof.Machine.execVor g f s
  | .vxor g f => Sys2Proof.Machine.execVxor g f s
  | .vnot g f => Sys2Proof.Machine.execVnot g f s
  | .vshl g f => Sys2Proof.Machine.execVshl g f s
  | .vshr g f => Sys2Proof.Machine.execVshr g f s
  | .vsel g f => Sys2Proof.Machine.execVsel g f s
  | .vpopc g f => Sys2Proof.Machine.execVpopc g f s
  | .vclz g f => Sys2Proof.Machine.execVclz g f s
  | .vfadd g f => Sys2Proof.Machine.execVfadd g f s
  | .vfsub g f => Sys2Proof.Machine.execVfsub g f s
  | .vfmul g f => Sys2Proof.Machine.execVfmul g f s
  | .vfma g f => Sys2Proof.Machine.execVfma g f s
  | .vfmin g f => Sys2Proof.Machine.execVfmin g f s
  | .vfmax g f => Sys2Proof.Machine.execVfmax g f s
  | .vfabs g f => Sys2Proof.Machine.execVfabs g f s
  | .vfneg g f => Sys2Proof.Machine.execVfneg g f s
  | .vrcp g f => Sys2Proof.Machine.execVrcp g f s
  | .vrsq g f => Sys2Proof.Machine.execVrsq g f s
  | .vex2 g f => Sys2Proof.Machine.execVex2 g f s
  | .vlg2 g f => Sys2Proof.Machine.execVlg2 g f s
  | .vsin g f => Sys2Proof.Machine.execVsin g f s
  | .vcos g f => Sys2Proof.Machine.execVcos g f s
  | .vcmp g f => Sys2Proof.Machine.execVcmp g f s
  | .vset g f => Sys2Proof.Machine.execVset g f s
  | .vcvt g src dst f => Sys2Proof.Machine.execVcvt g src dst f s
  | .vshfl g f => Sys2Proof.Machine.execVshfl g f s
  | .vred g f => Sys2Proof.Machine.execVred g f s
  | .srdlane g f => Sys2Proof.Machine.execSrdlane g f s
  | .smov g f => Sys2Proof.Machine.execSmov g f s
  | .sadd g f => Sys2Proof.Machine.execSadd g f s
  | .ssub g f => Sys2Proof.Machine.execSsub g f s
  | .smul g f => Sys2Proof.Machine.execSmul g f s
  | .sand g f => Sys2Proof.Machine.execSand g f s
  | .sor g f => Sys2Proof.Machine.execSor g f s
  | .sxor g f => Sys2Proof.Machine.execSxor g f s
  | .sandn g f => Sys2Proof.Machine.execSandn g f s
  | .sshl g f => Sys2Proof.Machine.execSshl g f s
  | .sshr g f => Sys2Proof.Machine.execSshr g f s
  | .ssra g f => Sys2Proof.Machine.execSsra g f s
  | .smin g f => Sys2Proof.Machine.execSmin g f s
  | .smax g f => Sys2Proof.Machine.execSmax g f s
  | .scmp g c f => Sys2Proof.Machine.execScmp g c f s
  | .sfirst g f => Sys2Proof.Machine.execSfirst g f s
  | .spopc g f => Sys2Proof.Machine.execSpopc g f s
  | .srds g f => Sys2Proof.Machine.execSrds g f s
  | .swrs g f => Sys2Proof.Machine.execSwrs g f s
  | .sbr g f => Sys2Proof.Machine.execSbr g f s
  | .sbrz g f => Sys2Proof.Machine.execSbrz g f s
  | .sbrnz g f => Sys2Proof.Machine.execSbrnz g f s
  | .sbrexz g f => Sys2Proof.Machine.execSbrexz g f s
  | .sbrexnz g f => Sys2Proof.Machine.execSbrexnz g f s
  | .sjmpr g f => Sys2Proof.Machine.execSjmpr g f s
  | .scall g f => Sys2Proof.Machine.execScall g f s
  | .scallr g f => Sys2Proof.Machine.execScallr g f s
  | .sexit g f => Sys2Proof.Machine.execSexit g f s
  | .snop g f => Sys2Proof.Machine.execSnop g f s
  | .ld g f => Sys2Proof.Machine.execLd g f s
  | .lds g f => Sys2Proof.Machine.execLds g f s
  | .st g f => Sys2Proof.Machine.execSt g f s
  | .ldr g f => Sys2Proof.Machine.execLdr g f s
  | .stc g f => Sys2Proof.Machine.execStc g f s
  | .aadd g f => Sys2Proof.Machine.execAadd g f s
  | .aand g f => Sys2Proof.Machine.execAand g f s
  | .aor g f => Sys2Proof.Machine.execAor g f s
  | .axor g f => Sys2Proof.Machine.execAxor g f s
  | .amin g f => Sys2Proof.Machine.execAmin g f s
  | .amax g f => Sys2Proof.Machine.execAmax g f s
  | .aumin g f => Sys2Proof.Machine.execAumin g f s
  | .aumax g f => Sys2Proof.Machine.execAumax g f s
  | .axchg g f => Sys2Proof.Machine.execAxchg g f s
  | .acas g f => Sys2Proof.Machine.execAcas g f s
  | .afadd g f => Sys2Proof.Machine.execAfadd g f s
  | .mxpack g f => Sys2Proof.Machine.execMxpack g f s
  | .mxz g f => Sys2Proof.Machine.execMxz g f s
  | .mxop g f => Sys2Proof.Machine.execMxop g f s
  | .mxdrn g f => Sys2Proof.Machine.execMxdrn g f s
  | .mxsync g f => Sys2Proof.Machine.execMxsync g f s
  | .kBlockEnd core sub => Sys2Proof.Machine.execKBlockEnd core sub s
  | .scaleFold core => Sys2Proof.Machine.execScaleFold core s
  | .fence g f => Sys2Proof.Machine.execFence g f s
  | .barCore g f => Sys2Proof.Machine.execBarCore g f s
  | .barClu g f => Sys2Proof.Machine.execBarClu g f s
  | .barSys g f => Sys2Proof.Machine.execBarSys g f s
  | .barrierRelease b => Sys2Proof.Machine.execBarrierRelease b s
  | .fnput g f => Sys2Proof.Machine.execFnput g f s
  | .fnget g f => Sys2Proof.Machine.execFnget g f s
  | .fntest g f => Sys2Proof.Machine.execFntest g f s
  | .storeBufferDrain g => Sys2Proof.Machine.execStoreBufferDrain g s
  | .protectionTimeout g => Sys2Proof.Machine.execProtectionTimeout g s
  | .rds r => Sys2Proof.Machine.execRds r s
  | .rdx r => Sys2Proof.Machine.execRdx r s
  | .upg r => Sys2Proof.Machine.execUpg r s
  | .rdz r => Sys2Proof.Machine.execRdz r s
  | .wbd r => Sys2Proof.Machine.execWbd r s
  | .evc r => Sys2Proof.Machine.execEvc r s
  | .ucr r => Sys2Proof.Machine.execUcr r s
  | .ucw r => Sys2Proof.Machine.execUcw r s
  | .uca r => Sys2Proof.Machine.execUca r s
  | .rty home slot ep => Sys2Proof.Machine.execRty home slot ep s
  | .fwdS line dst => Sys2Proof.Machine.execFwdS line dst s
  | .fwdX line dst => Sys2Proof.Machine.execFwdX line dst s
  | .inv line dst => Sys2Proof.Machine.execInv line dst s
  | .rclS line dst => Sys2Proof.Machine.execRclS line dst s
  | .rclI line dst => Sys2Proof.Machine.execRclI line dst s
  | .data r => Sys2Proof.Machine.execData r s
  | .grant r => Sys2Proof.Machine.execGrant r s
  | .nack r => Sys2Proof.Machine.execNack r s
  | .wback line dst => Sys2Proof.Machine.execWback line dst s
  | .ucdone r => Sys2Proof.Machine.execUcdone r s
  | .dataF r => Sys2Proof.Machine.execDataF r s
  | .ack line src => Sys2Proof.Machine.execAck line src s
  | .cmp r => Sys2Proof.Machine.execCmp r s
  | .evictionDrain line => Sys2Proof.Machine.execEvictionDrain line s
  | .wcbEvict line => Sys2Proof.Machine.execWcbEvict line s
  | .gather g sector => Sys2Proof.Machine.execGather g sector s
  | .hbmRead line first second => Sys2Proof.Machine.execHbmRead line first second s
  | .refresh floe pc => Sys2Proof.Machine.execRefresh floe pc s
  | .tempReading floe celsius => Sys2Proof.Machine.execTempReading floe celsius s
  | .channelStop floe ch => Sys2Proof.Machine.execChannelStop floe ch s
  | .up u => Sys2Proof.Machine.execUp u s
  | .dn d => Sys2Proof.Machine.execDn d s
  | .mgmt src desc epoch digest => Sys2Proof.Machine.execMgmt src desc epoch digest s
  | .descConfirmTimeout desc => Sys2Proof.Machine.execDescConfirmTimeout desc s
  | .time port m sub => Sys2Proof.Machine.execTime port m sub s
  | .dataFlit port flit fec => Sys2Proof.Machine.execDataFlit port flit fec s
  | .idleFlit port flit fec => Sys2Proof.Machine.execIdleFlit port flit fec s
  | .nak port seq => Sys2Proof.Machine.execNak port seq s
  | .detect port lanes => Sys2Proof.Machine.execDetect port lanes s
  | .equalise port pass => Sys2Proof.Machine.execEqualise port pass s
  | .align port => Sys2Proof.Machine.execAlign port s
  | .negotiate port peer => Sys2Proof.Machine.execNegotiate port peer s
  | .identify port pmod pport pdir pver => Sys2Proof.Machine.execIdentify port pmod pport pdir pver s
  | .trainingTimeout port => Sys2Proof.Machine.execTrainingTimeout port s
  | .remoteTagTimeout tag => Sys2Proof.Machine.execRemoteTagTimeout tag s
  | .amCtrlEn port en => Sys2Proof.Machine.execAmCtrlEn port en s
  | .amCtrlTrain port => Sys2Proof.Machine.execAmCtrlTrain port s
  | .doorbell q w => Sys2Proof.Machine.execDoorbell q w s
  | .queueIdle q => Sys2Proof.Machine.execQueueIdle q s
  | .ringFetch q => Sys2Proof.Machine.execRingFetch q s
  | .packetCheck q => Sys2Proof.Machine.execPacketCheck q s
  | .packetRetire q => Sys2Proof.Machine.execPacketRetire q s
  | .dbReply0Pop q n => Sys2Proof.Machine.execDbReply0Pop q n s
  | .dbKcfgEn q v => Sys2Proof.Machine.execDbKcfgEn q v s
  | .step q => Sys2Proof.Machine.execStep q s
  | .copy q => Sys2Proof.Machine.execCopy q s
  | .launch q => Sys2Proof.Machine.execLaunch q s
  | .wait q => Sys2Proof.Machine.execWait q s
  | .waitPoll q => Sys2Proof.Machine.execWaitPoll q s
  | .waitTimeout q => Sys2Proof.Machine.execWaitTimeout q s
  | .signal q => Sys2Proof.Machine.execSignal q s
  | .nop q => Sys2Proof.Machine.execNop q s
  | .queueCreate q => Sys2Proof.Machine.execQueueCreate q s
  | .queueDestroy q => Sys2Proof.Machine.execQueueDestroy q s
  | .queueLimit q => Sys2Proof.Machine.execQueueLimit q s
  | .asCreate q => Sys2Proof.Machine.execAsCreate q s
  | .asEdit q => Sys2Proof.Machine.execAsEdit q s
  | .asDestroy q => Sys2Proof.Machine.execAsDestroy q s
  | .kvQuota q => Sys2Proof.Machine.execKvQuota q s
  | .modelLoad q => Sys2Proof.Machine.execModelLoad q s
  | .progLoad q => Sys2Proof.Machine.execProgLoad q s
  | .descSet q => Sys2Proof.Machine.execDescSet q s
  | .descRelease q => Sys2Proof.Machine.execDescRelease q s
  | .fwinSet q => Sys2Proof.Machine.execFwinSet q s
  | .embed node => Sys2Proof.Machine.execEmbed node s
  | .placed node => Sys2Proof.Machine.execPlaced node s
  | .reduce node => Sys2Proof.Machine.execReduce node s
  | .select node => Sys2Proof.Machine.execSelect node s
  | .verify node => Sys2Proof.Machine.execVerify node s
  | .draft node => Sys2Proof.Machine.execDraft node s
  | .commit node => Sys2Proof.Machine.execCommit node s
  | .endNode node => Sys2Proof.Machine.execEnd node s
  | .tileDispatch launch core => Sys2Proof.Machine.execTileDispatch launch core s
  | .tileStart core => Sys2Proof.Machine.execTileStart core s
  | .tileFinish core => Sys2Proof.Machine.execTileFinish core s
  | .launchComplete launch => Sys2Proof.Machine.execLaunchComplete launch s
  | .tileTimerExpiry core => Sys2Proof.Machine.execTileTimerExpiry core s
  | .weightRefetch g store off => Sys2Proof.Machine.execWeightRefetch g store off s
  | .deviceReset cause => Sys2Proof.Machine.execDeviceReset cause s
  | .hostBar4Write off bytes poisoned => Sys2Proof.Machine.execHostBar4Write off bytes poisoned s
  | .hostBar4Read off len => Sys2Proof.Machine.execHostBar4Read off len s
  | .feHwinWrite v => Sys2Proof.Machine.execFeHwinWrite v s
  | .bar4Resize log2 => Sys2Proof.Machine.execBar4Resize log2 s
  | .configRequest off write => Sys2Proof.Machine.execConfigRequest off write s
  | .feKvpWrite npage v => Sys2Proof.Machine.execFeKvpWrite npage v s
  | .readClear a off len => Sys2Proof.Machine.execReadClear a off len s
  | .registerWrite a off wide v => Sys2Proof.Machine.execRegisterWrite a off wide v s
  | .dgCselWrite clu n v => Sys2Proof.Machine.execDgCselWrite clu n v s
  | .dgCctlClr clu => Sys2Proof.Machine.execDgCctlClr clu s
  | .dgTrigArm v => Sys2Proof.Machine.execDgTrigArm v s
  | .triggerAction clu => Sys2Proof.Machine.execTriggerAction clu s
  | .pcSample clu => Sys2Proof.Machine.execPcSample clu s
  | .watchRecord desc rowg => Sys2Proof.Machine.execWatchRecord desc rowg s
  | .pllLock port => Sys2Proof.Machine.execPllLock port s
  | .timeExchangeTick sub => Sys2Proof.Machine.execTimeExchangeTick sub s
  | .clockStop clu => Sys2Proof.Machine.execClockStop clu s
  | .clockRestart clu => Sys2Proof.Machine.execClockRestart clu s
  | .supplyDroop clu => Sys2Proof.Machine.execSupplyDroop clu s
  | .droopRecoveryTick clu => Sys2Proof.Machine.execDroopRecoveryTick clu s
  | .tjSample clu celsius => Sys2Proof.Machine.execTjSample clu celsius s
  | .thermalTrip clu => Sys2Proof.Machine.execThermalTrip clu s
  | .islandGate clu => Sys2Proof.Machine.execIslandGate clu s
  | .islandWake clu => Sys2Proof.Machine.execIslandWake clu s
  | .inputVoltageChange mv => Sys2Proof.Machine.execInputVoltageChange mv s
  | .coolantCondition inlet outlet => Sys2Proof.Machine.execCoolantCondition inlet outlet s
  | .strapAccept side level => Sys2Proof.Machine.execStrapAccept side level s
  | .strapLiveMismatch side => Sys2Proof.Machine.execStrapLiveMismatch side s
  | .heartbeatSend side => Sys2Proof.Machine.execHeartbeatSend side s
  | .heartbeatFrame side frame => Sys2Proof.Machine.execHeartbeatFrame side frame s
  | .heartbeatTimeout side => Sys2Proof.Machine.execHeartbeatTimeout side s
  | .ntHbKick side => Sys2Proof.Machine.execNtHbKick side s
  | .bootGo side => Sys2Proof.Machine.execBootGo side s
  | .selftest r => Sys2Proof.Machine.execSelftest r s
  | .hbmTraining r => Sys2Proof.Machine.execHbmTraining r s
  | .quote side => Sys2Proof.Machine.execQuote side s
  | .status frame => Sys2Proof.Machine.execStatus frame s
  | .setTopo frame => Sys2Proof.Machine.execSetTopo frame s
  | .resetCmd frame => Sys2Proof.Machine.execResetCmd frame s
  | .telem frame => Sys2Proof.Machine.execTelem frame s
  | .strapCmd frame => Sys2Proof.Machine.execStrapCmd frame s
  | .quoteDone side => Sys2Proof.Machine.execQuoteDone side s
  | .hostPortTrained side => Sys2Proof.Machine.execHostPortTrained side s
  | .unknownCmd frame => Sys2Proof.Machine.execUnknownCmd frame s
  | .addressParityRetry floe ch => Sys2Proof.Machine.execAddressParityRetry floe ch s
  | .cagePresenceFault port present fault => Sys2Proof.Machine.execCagePresenceFault port present fault s
  | .check => Sys2Proof.Machine.execCheck s
  | .golden => Sys2Proof.Machine.execGolden s
  | .write => Sys2Proof.Machine.execWrite s
  | .ready => Sys2Proof.Machine.execReady s
  | .stepBoundary => Sys2Proof.Machine.execStepBoundary s
  | .resetComplete => Sys2Proof.Machine.execResetComplete s
  | .perst => Sys2Proof.Machine.execPerst s
  | .dgPcsPop0 n => Sys2Proof.Machine.execDgPcsPop0 n s
  | .dgTrPop0 n => Sys2Proof.Machine.execDgTrPop0 n s
  | .timeCode => Sys2Proof.Machine.execTimeCode s
  | .seriesTimeout => Sys2Proof.Machine.execSeriesTimeout s
  | .holdover => Sys2Proof.Machine.execHoldover s
  | .relock => Sys2Proof.Machine.execRelock s
  | .powerUp => Sys2Proof.Machine.execPowerUp s
  | .inputPowerLoss => Sys2Proof.Machine.execInputPowerLoss s
  | .currentLimit => Sys2Proof.Machine.execCurrentLimit s
  | .railFault => Sys2Proof.Machine.execRailFault s
  | .rom => Sys2Proof.Machine.execRom s
  | .peerVerify => Sys2Proof.Machine.execPeerVerify s
  | .links => Sys2Proof.Machine.execLinks s
  | .sync => Sys2Proof.Machine.execSync s

end Sys2Proof.Machine
end

