-- ==== Sys2Proof/Safety.lean ====
section
/-! DEFINITION. The terms in which statements speak: a group at an instruction, what an instruction that only works on registers may
change, and the invariant that every step keeps. -/
namespace Sys2Proof.Machine

/-- Group `g` of a running tile is at word `w` of its checked image, and its island issues (R45, R53, R134, R170, R381, R393). `x` names
the core, the group and the launch found there. -/
structure Issues (s : State) (g : GroupAt) (w : BitVec 64) (x : Ctx) : Prop where
  id : x.id = g.core
  grp : x.g = g.grp
  core : x.core = s.core g.core
  launch : x.core.launch = some x.lid
  la : s.launches.get? x.lid = some x.la
  gr : x.core.groups.get? g.grp.toNat = some x.gr
  started : x.core.started = true
  going : x.la.stopping = false
  live : x.gr.fin = false
  free : x.gr.wait = .run
  island : (s.clu (cluOf g.core)).runs = true
  power : s.pw.on = true
  noHold : s.inHold = false
  word : x.la.wordAt x.gr.pc = some w

/-- A group of a core after a command. -/
def State.groupAt (s : State) (g : GroupAt) : Group := (s.core g.core).groups.get g.grp.toNat .init

/-- An island changed in nothing but its event counts. -/
def Cluster.sameButCounts (a b : Cluster) : Prop := { b with cnt := a.cnt } = a

/-- A core changed in nothing but group `n` and the groups that last issued on a path (R45). -/
structure Core.sameButGroup (a b : Core) (n : Nat) : Prop where
  rest : { b with groups := a.groups, lastV := a.lastV, lastS := a.lastS } = a
  others : ∀ i, i ≠ n → b.groups.get? i = a.groups.get? i

/-- From `s` to `t` nothing changed but group `g`, the groups that its core names as last issued, the event counts of its island and the module's
count of issued instructions: memory and its poison, weight stores, every other core and group, every other unit. -/
structure OnlyGroup (s t : State) (g : GroupAt) : Prop where
  rest : { t with cores := s.cores, clus := s.clus, dg := s.dg } = s
  debug : { t.dg with aoIssue := s.dg.aoIssue } = s.dg
  cores : ∀ c, c ≠ g.core → t.core c = s.core c
  core : (s.core g.core).sameButGroup (t.core g.core) g.grp.toNat
  clus : ∀ c, c ≠ cluOf g.core → t.clu c = s.clu c
  clu : (s.clu (cluOf g.core)).sameButCounts (t.clu (cluOf g.core))

/-- A group whose control state is as before, except that it has issued and stands at `pc`. -/
structure Group.at_ (a b : Group) (pc : BitVec 48) : Prop where
  pc : b.pc = pc
  last : b.lastPc = a.pc
  exec : b.exec = a.exec
  lmask : b.lmask = a.lmask
  fin : b.fin = a.fin
  wait : b.wait = a.wait
  resv : b.resv = a.resv
  issued : b.stall = 0

/-- The instruction has answered a next state in which nothing but the group has changed and the group stands at the next instruction. -/
structure Steps (s t : State) (g : GroupAt) (x : Ctx) (pc : BitVec 48) : Prop where
  only : OnlyGroup s t g
  ctl : x.gr.at_ (t.groupAt g) pc

/-- A vector destination: the active lanes of register `d`, and of `d + 1` for a pair, hold the value; every other vector register and
every scalar register is as before (R40, R50, R137). -/
structure WroteV (a b : Group) (d : BitVec 8) (pair : Bool) (val : Nat → BitVec 64) : Prop where
  vregs : ∀ n l, l < 32 → b.vreg n l =
    if a.exec.getLsbD l = true ∧ n = d.toNat then (val l).setWidth 32
    else if a.exec.getLsbD l = true ∧ pair = true ∧ n = d.toNat + 1 then (val l >>> 32).setWidth 32 else a.vreg n l
  sregs : b.sregs = a.sregs
  spois : b.spois = a.spois
  vpois : ∀ k ∈ b.vpois, k ∈ a.vpois

/-- A scalar destination: register `d`, and `d + 1` for a pair, hold the value; every other scalar register and every vector register is
as before (R40). -/
structure WroteS (a b : Group) (d : Nat) (pair : Bool) (val : BitVec 64) : Prop where
  sregs : ∀ n, b.sreg n =
    if n = d then val.setWidth 32 else if pair = true ∧ n = d + 1 then (val >>> 32).setWidth 32 else a.sreg n
  vregs : b.vregs = a.vregs
  vpois : b.vpois = a.vpois
  spois : ∀ k ∈ b.spois, k ∈ a.spois

/-- No register is written. -/
def WroteNone (a b : Group) : Prop := b.vregs = a.vregs ∧ b.vpois = a.vpois ∧ b.sregs = a.sregs ∧ b.spois = a.spois

/-- No source of an active lane is a poisoned register (R372); `w` is whether SRC0 and SRC2 are pairs and `wb` whether SRC1 is. -/
def CleanV (gr : Group) (f : VF) (w wb : Bool) : Prop :=
  ∀ l, l < 32 → gr.exec.getLsbD l = true →
    gr.opPois f.src0 w l = false ∧ gr.srcPois f.src1 wb l = false ∧ gr.opPois f.src2 w l = false

/-- No scalar source is poisoned (R372). -/
def CleanS (gr : Group) (f : SF) : Prop :=
  gr.sPois f.w64 f.src0.toNat = false ∧ (f.immf = false → gr.sPois f.w64 f.src1.toNat = false)

/-- Once its word issues with clean sources, the command writes the vector register `d`, a pair when `dw`, and nothing else. -/
def VecRule (i : Instr) (w : BitVec 64) (s : State) (g : GroupAt) (f : VF) (wa wb : Bool) (d : BitVec 8) (dw : Bool)
    (val : Group → Nat → BitVec 64) : Prop :=
  ∀ x, Issues s g w x → CleanV x.gr f wa wb →
    ∃ t, exec i s = .next t ∧ Steps s t g x (x.gr.pc + 8) ∧ WroteV x.gr (t.groupAt g) d dw (val x.gr)

/-- Once its word issues with clean sources, the scalar command writes its destination and nothing else. -/
def SclRule (i : Instr) (op : BitVec 8) (s : State) (g : GroupAt) (f : SF) (pair : Bool) (val : BitVec 64 → BitVec 64 → BitVec 64) : Prop :=
  ∀ x, Issues s g (encS 5 op f) x → CleanS x.gr f →
    ∃ t, exec i s = .next t ∧ Steps s t g x (x.gr.pc + 8) ∧
      WroteS x.gr (t.groupAt g) f.dst.toNat pair (val (x.gr.sSrc0 f) (x.gr.sOpnd f))

/-- The kernel has stopped at the group's instruction: the core keeps the first error of its launch (R72), the launch stops (R381), every
core of the launch reads RUN 2 (R71), and nothing else of another core, no register and no memory changes. -/
structure KernelStop (s t : State) (x : Ctx) (code : Code) : Prop where
  first : x.core.errSeen = false → (t.core x.id).errValid = true ∧ (t.core x.id).errGrp = x.g ∧ (t.core x.id).errCode = code ∧
    (t.core x.id).epc = x.gr.pc ∧ (t.core x.id).run = 2
  kept : x.core.errSeen = true → t.core x.id = { x.core with run := 2 }
  stops : ∃ la, t.launches.get? x.lid = some la ∧ la.stopping = true
  groups : (t.core x.id).groups = x.core.groups
  cores : ∀ c, c ≠ x.id → t.core c = if (s.core c).launch = some x.lid then { s.core c with run := 2 } else s.core c
  rest : { t with cores := s.cores, launches := s.launches } = s

/-- The vector commands of one width throughout, each with its word (R141). -/
def vecTable (g : GroupAt) (f : VF) : List (Instr × BitVec 64) :=
  [(.vmov g f, encV 0x00 f), (.vadd g f, encV 0x01 f), (.vsub g f, encV 0x02 f), (.vmullo g f, encV 0x03 f), (.vmulhi g f, encV 0x04 f),
   (.vmin g f, encV 0x05 f), (.vmax g f, encV 0x06 f), (.vand g f, encV 0x07 f), (.vor g f, encV 0x08 f), (.vxor g f, encV 0x09 f),
   (.vnot g f, encV 0x0A f), (.vshl g f, encV 0x0B f), (.vshr g f, encV 0x0C f), (.vpopc g f, encV 0x0E f), (.vclz g f, encV 0x0F f)] ++
  [(.vfadd g f, encV 0x20 f), (.vfsub g f, encV 0x21 f), (.vfmul g f, encV 0x22 f), (.vfma g f, encV 0x23 f), (.vfmin g f, encV 0x24 f),
   (.vfmax g f, encV 0x25 f), (.vfabs g f, encV 0x26 f), (.vfneg g f, encV 0x27 f), (.vrcp g f, encV 0x30 f), (.vrsq g f, encV 0x31 f),
   (.vex2 g f, encV 0x32 f), (.vlg2 g f, encV 0x33 f), (.vsin g f, encV 0x34 f), (.vcos g f, encV 0x35 f)]

/-- The scalar commands of CLASS 5 other than SRDS and SWRS, each with its opcode (R145). -/
def sclTable (g : GroupAt) (f : SF) : List (Instr × BitVec 8) :=
  [(.smov g f, 0x00), (.sadd g f, 0x01), (.ssub g f, 0x02), (.smul g f, 0x03), (.sand g f, 0x04), (.sor g f, 0x05), (.sxor g f, 0x06),
   (.sandn g f, 0x07), (.sshl g f, 0x08), (.sshr g f, 0x09), (.ssra g f, 0x0A), (.smin g f, 0x0B), (.smax g f, 0x0C),
   (.sfirst g f, 0x20), (.spopc g f, 0x21)] ++
  [SCond.eq, .ne, .lt, .le, .gt, .ge, .ltu, .leu, .gtu, .geu].map fun c => (.scmp g c f, condCode c)

/-- Registers that a value of a size fills (R139). -/
def regsOf : MSize → Nat
  | .b8 => 2
  | .b16 => 4
  | _ => 1

/-- The active lanes of `k` vector registers from `d` hold the words of a value, low word first; every other register is as before. -/
structure WroteData (a b : Group) (d : BitVec 8) (k : Nat) (val : Nat → BitVec 128) : Prop where
  vregs : ∀ n l, l < 32 → b.vreg n l =
    if a.exec.getLsbD l = true ∧ d.toNat ≤ n ∧ n < d.toNat + k then (val l).extractLsb' (32 * (n - d.toNat)) 32 else a.vreg n l
  sregs : b.sregs = a.sregs
  spois : b.spois = a.spois
  vpois : ∀ k ∈ b.vpois, k ∈ a.vpois

/-- The lane is active. -/
def Ctx.active (x : Ctx) (l : Nat) : Prop := l < 32 ∧ x.gr.exec.getLsbD l = true

/-- The core as it was, but for the group, the groups that last issued on a path, its store buffer, its scratchpad and what its memory
accesses have under way. -/
def Core.sameButMem (a b : Core) : Prop :=
  { b with groups := a.groups, spad := a.spad, spadWr := a.spadWr, spadPois := a.spadPois, sb := a.sb, sbSerial := a.sbSerial,
           instSerial := a.instSerial, l1 := a.l1, ucRes := a.ucRes, ucOut := a.ucOut, lastV := a.lastV, lastS := a.lastS } = a

/-- A memory instruction of the group has retired: it stands at the next instruction, no other core, no byte of HBM and no byte of a weight
store has changed, and the core only in what its memory accesses use. -/
structure MemDone (s t : State) (g : GroupAt) (x : Ctx) : Prop where
  pc : (t.groupAt g).pc = x.gr.pc + 8
  exec : (t.groupAt g).exec = x.gr.exec
  lmask : (t.groupAt g).lmask = x.gr.lmask
  live : (t.groupAt g).fin = x.gr.fin ∧ (t.groupAt g).wait = .run
  groups : ∀ i, i ≠ g.grp.toNat → ∀ d, (t.core g.core).groups.get? i = some d → ∃ c, x.core.groups.get? i = some c ∧ d.vregs = c.vregs ∧
    d.sregs = c.sregs ∧ d.pc = c.pc ∧ d.exec = c.exec
  core : x.core.sameButMem (t.core g.core)
  mem : t.mem = s.mem ∧ t.poison = s.poison ∧ t.ws = s.ws
  homes : t.homes = s.homes

/-- The memory commands with their words and what each asks of its addresses (R148). -/
def memTable (g : GroupAt) (f : MF) : List (Instr × BitVec 8 × MemReq) :=
  [(.ld g f, 0x00, ⟨false, false, false⟩), (.lds g f, 0x01, ⟨false, false, false⟩), (.st g f, 0x02, ⟨true, false, false⟩),
   (.ldr g f, 0x03, ⟨false, false, true⟩), (.stc g f, 0x04, ⟨true, false, true⟩)] ++
  [(Instr.aadd g f, (0x10 : BitVec 8)), (.aand g f, 0x11), (.aor g f, 0x12), (.axor g f, 0x13), (.amin g f, 0x14), (.amax g f, 0x15),
   (.aumin g f, 0x16), (.aumax g f, 0x17), (.axchg g f, 0x18), (.acas g f, 0x19), (.afadd g f, 0x1A)].map
    fun p => (p.1, p.2, ⟨true, true, false⟩)

/-- What an integer atomic leaves, from the old value, the operand and the value that ACAS swaps in (R148). -/
abbrev AtomFn := ∀ w : Nat, BitVec w → BitVec w → BitVec w → BitVec w

/-- The integer atomics, the exchange and the compare-and-swap with their opcodes and functions. -/
def atomTable (g : GroupAt) (f : MF) : List (Instr × BitVec 8 × AtomFn) :=
  [(.aadd g f, 0x10, fun _ a b _ => a + b), (.aand g f, 0x11, fun _ a b _ => a &&& b), (.aor g f, 0x12, fun _ a b _ => a ||| b),
   (.axor g f, 0x13, fun _ a b _ => a ^^^ b),
   (.amin g f, 0x14, fun _ a b _ => if a.toInt ≤ b.toInt then a else b), (.amax g f, 0x15, fun _ a b _ => if a.toInt ≤ b.toInt then b else a),
   (.aumin g f, 0x16, fun _ a b _ => if a.toNat ≤ b.toNat then a else b), (.aumax g f, 0x17, fun _ a b _ => if a.toNat ≤ b.toNat then b else a),
   (.axchg g f, 0x18, fun _ _ b _ => b), (.acas g f, 0x19, fun _ a b c => if a = b then c else a)]

/-- A matrix instruction may issue: EXEC is LMASK, its scalar operands are clean, the array is idle, and the router has read what the core's
FNPUTs name (R54, R78, R234). -/
structure ArrayIdle (x : Ctx) (regs : List Nat) : Prop where
  mask : x.gr.exec = x.gr.lmask
  clean : ∀ r ∈ regs, x.gr.spois.contains r = false
  queue : x.core.arr.queue = []
  folds : x.core.arr.folds = []
  puts : x.core.puts = []

/-- One level of the fixed-order tree: each pair becomes its combine, the left operand first, and an odd last value passes up (R238). -/
def pairUp {α : Type} (f : α → α → α) : List α → List α
  | a :: b :: t => f a b :: pairUp f t
  | l => l

/-- `n` levels of the fixed-order tree. -/
def treeUp {α : Type} (f : α → α → α) : Nat → List α → List α
  | 0, l => l
  | n + 1, l => treeUp f n (pairUp f l)

/-- The first message in flight that satisfies `p` is `m`, with the others in their order. -/
structure InFlight (s : State) (p : Msg → Bool) (m : Msg) (rest : List Msg) : Prop where
  split : ∃ pre post, s.net = pre ++ m :: post ∧ rest = pre ++ post ∧ ∀ y ∈ pre, p y = false
  this : p m = true

/-- A message of REQ may be taken from the mesh: it is the first that satisfies `p`, its sender has sent none earlier for the same line that
is still on its way, and its home holds nothing in the ingress (R204, R221). -/
structure Arrives (s : State) (p : Msg → Bool) (m : Msg) (line : Nat) (rest : List Msg) : Prop where
  split : ∃ pre post, s.net = pre ++ m :: post ∧ rest = pre ++ post ∧ ∀ y ∈ pre, p y = false ∧ reqFrom y ≠ reqFrom m
  this : p m = true
  ingress : (s.homeOfLine line).ingress = []

/-- Nothing waits at the home of a floe for its next step: no retry has come, nothing is set aside and the ingress is empty (R204 to R207). -/
structure HomeQuiet (s : State) (f : Floe) : Prop where
  slots : ∀ p ∈ (s.home f).slots.entries, p.2.arrived = false
  aside : (s.home f).parked = []
  ingress : (s.home f).ingress = []

/-- A line at rest at its home: it exists, its controller issues commands, no device reset holds requests back (R385), no transaction is
open on it, no slot waits for it and no protection defers a request for it, its directory entry is good and its channel runs. -/
structure LineRests (s : State) (line : Nat) : Prop where
  reset : s.fe.rstBusy = false
  acts : s.homeActs line = true
  txn : (s.homeOfLine line).txn? line = none
  waiting : (s.homeOfLine line).waiting line = []
  room : (s.homeOfLine line).txns.length < 256
  free : s.protectsUc line = false
  good : (s.dirOf line).bad = false
  runs : (s.chanOf line).stopped = false

/-- The directory names cluster `k` as the line's only holder, its owner. -/
def State.owned (s : State) (line : Nat) (k : Clu) : Prop := (s.dirOf line).dst = .own ∧ (s.dirOf line).p0 = k

/-- A transaction of a kind is open on the line and waits. -/
def State.opened (s : State) (line : Nat) (kind : ReqKind) (who : Who) (w : TxnWait) : Prop :=
  ∃ t, (s.homeOfLine line).txn? line = some t ∧ t.kind = kind ∧ t.who = who ∧ t.wait = w

/-- A byte of HBM in its home's view: the eviction buffer, the write-combining entries and memory together (R208, R287). -/
def State.byteAt (s : State) (a : Nat) : Byte := (s.view (a / 128)).data.extractLsb' (8 * (a % 128)) 8

/-- Bytes within one line that no slice holds and that the front end may access at once: in memory outside the golden region, the line at
rest, its directory entry good and without a holder, its channel running and no report of a failed read waiting for it (R205, R280, R377, R451). -/
structure PlainBytes (s : State) (a n : Nat) : Prop where
  pos : 0 < n
  line : a % 128 + n ≤ 128
  space : a + n ≤ 2 ^ 48
  isOpen : s.openRange a n = true
  rests : s.rangeRests a n = true
  held : (s.dirOf (a / 128)).dst = .unc
  slices : s.holders (a / 128) = []
  good : (s.dirOf (a / 128)).bad = false
  runs : (s.chanOf (a / 128)).stopped = false
  clean : ((s.homeOfLine (a / 128)).reps.find? fun r => r.line == a / 128) = none

/-- Nothing waits for a time code but the code itself: no write in a queue of HBM, no request of the host and no fill of an instruction cache (R218,
R290). -/
structure CodeOnly (s : State) : Prop where
  running : s.tb.running = true
  writes : ∀ p ∈ s.homes.entries, p.2.wq = []
  host : s.host.waiting = []
  fills : ∀ p ∈ s.clus.entries, p.2.fillq = []

/-- Packet `p` of queue `q` has ended with its code and values; no other packet and no other queue has changed (R328). -/
structure Done (s t : State) (q : QId) (p : Pkt) (code : Code) (stat ntok : BitVec 4) (res : Word) : Prop where
  here : t.queue q = { s.queue q with pkts := (s.queue q).pkts.map fun y =>
    if y.serial = p.serial then { y with st := .done, code := code, stat := stat, ntok := ntok, result := res } else y }
  others : ∀ r, r ≠ q → t.queue r = s.queue r

/-- Packet `p` of queue `q` has ended with its code and values, and nothing else has changed. -/
def Ends (s t : State) (q : QId) (p : Pkt) (code : Code) (res : Word) : Prop :=
  Done s t q p code 0 0 res ∧ { t with queues := s.queues } = s

/-- The packet with a serial number stands in queue `q` and has ended with its code and values. -/
structure Answered (t : State) (q : QId) (serial : Nat) (code : Code) (res : Word) : Prop where
  there : ∃ y ∈ (t.queue q).pkts, y.serial = serial
  ends : ∀ y ∈ (t.queue q).pkts, y.serial = serial → y.st = .done ∧ y.code = code ∧ y.result = res

/-- The packet with a serial number stands in queue `q` and has started. -/
structure Started (t : State) (q : QId) (serial : Nat) : Prop where
  there : ∃ y ∈ (t.queue q).pkts, y.serial = serial
  started : ∀ y ∈ (t.queue q).pkts, y.serial = serial → y.st = .started

/-- The front end works: power is on, the module is not in HOLD and no device reset is under way. -/
structure FrontEnd (s : State) : Prop where
  hold : s.inHold = false
  power : s.pw.on = true
  reset : s.fe.rstBusy = false

/-- HOLD (R430): every listed queue holds with E_HOLD and no packet, every launch is gone and every port is off. -/
structure Held (t : State) : Prop where
  hold : t.inHold = true
  queue : ∀ q, (t.queue q).st = .hold ∧ (t.queue q).code = 0x0501
  queues : ∀ q x, t.queues.get? q = some x → x.st = .hold ∧ x.code = 0x0501 ∧ x.pkts = []
  launches : t.launches = .empty
  ports : ∀ p x, t.ports.get? p = some x → x.st = .off ∧ x.en = false

/-- The memories are in canonical form, and BAR4's window is aligned to its size and ends within 16 TiB (R451). -/
structure State.Inv (s : State) : Prop where
  mem : s.mem.wf = true
  ws : s.ws.wf = true
  barLog : 30 ≤ s.host.barLog ∧ s.host.barLog ≤ 44
  aligned : s.fe.hwin.toNat % 2 ^ s.host.barLog = 0
  within : s.fe.hwin.toNat + 2 ^ s.host.barLog ≤ 2 ^ 44

end Sys2Proof.Machine
end

