-- ==== Sys2Proof/WellFormed.lean ====
section
/-! DEFINITION. Which commands are well formed: an instruction of the Tongamin set passes the rows of R131 that its word alone decides, and
the operands of the other commands lie in the ranges that their rules give them. -/
namespace Sys2Proof
open Sys2Proof.Machine

/-- The word of an instruction passes rows 0x3 to 0x8 of R131. -/
def okWord (i : Instr) : Bool :=
  match instrWord i with
  | some w => wordOk w
  | none => false

/-- A queue id of R302. -/
def queueOk (q : QId) : Bool := decide (q.toNat < 0x4008)

/-- A kernel queue's id (R302). -/
def kernelQOk (q : QId) : Bool := decide (0x4000 ≤ q.toNat) && queueOk q

/-- A line of HBM: an offset below 2^44 divided by 128 (R13). -/
def lineOk (l : Nat) : Bool := decide (l < 2 ^ 37)

/-- A node of a step program of at most 4,095 nodes (R111). -/
def nodeOk (n : Nat) : Bool := decide (n < 4095)

/-- A management frame: CMD, LEN, at most 60 bytes of payload and a CRC-16 (R431). -/
def frameOk (f : List Byte) : Bool := decide (4 ≤ f.length) && decide (f.length ≤ 64)

/-- A place in the tree over at most 2^20 contributing cores (R16, R238). -/
def upOk (u : UpHdr) : Bool := decide (u.level ≤ 20) && decide (u.pos < 2 ^ 20)

/-- A TIME message is a request or a response (R397). -/
def timeOk (m : TimeSeg) : Bool := decide (m.kind.toNat ≤ 1)

/-- Physical clusters: 132 on each of 128 floes (R33). -/
def selfTestOk (r : SelfTestReport) : Bool := r.failed.all fun c => decide (c < 16896)

/-- Lanes of a pseudo-channel as MR_CH_REP codes them (R300). -/
def chanOk (r : ChanReport) : Bool := (r.lanes0 ++ r.lanes1).all fun l => decide (l.toNat < 40)

/-- A request within the largest BAR4, of at least one byte (R450). -/
def extentOk (off len : Nat) : Bool := decide (0 < len) && decide (off + len ≤ 2 ^ 44)

/-- A BAR4 size of R450. -/
def barOk (l : BitVec 6) : Bool := decide (30 ≤ l.toNat) && decide (l.toNat ≤ 44)

/-- The value of a write of 4 or 8 bytes (R467). -/
def valueOk (wide : Bool) (v : BitVec 64) : Bool := wide || decide (v.toNat < 2 ^ 32)

/-- A read of at least one byte within 16 aligned ones, the most that one access takes; a longer request is several (R467). -/
def readOk (off len : Nat) : Bool := decide (0 < len) && decide (off % 16 + len ≤ 16)

def wellFormed (i : Instr) : Bool :=
  match i with
  | .vmov a0 a1 => okWord (.vmov a0 a1)
  | .vadd a0 a1 => okWord (.vadd a0 a1)
  | .vsub a0 a1 => okWord (.vsub a0 a1)
  | .vmullo a0 a1 => okWord (.vmullo a0 a1)
  | .vmulhi a0 a1 => okWord (.vmulhi a0 a1)
  | .vmin a0 a1 => okWord (.vmin a0 a1)
  | .vmax a0 a1 => okWord (.vmax a0 a1)
  | .vand a0 a1 => okWord (.vand a0 a1)
  | .vor a0 a1 => okWord (.vor a0 a1)
  | .vxor a0 a1 => okWord (.vxor a0 a1)
  | .vnot a0 a1 => okWord (.vnot a0 a1)
  | .vshl a0 a1 => okWord (.vshl a0 a1)
  | .vshr a0 a1 => okWord (.vshr a0 a1)
  | .vsel a0 a1 => okWord (.vsel a0 a1)
  | .vpopc a0 a1 => okWord (.vpopc a0 a1)
  | .vclz a0 a1 => okWord (.vclz a0 a1)
  | .vfadd a0 a1 => okWord (.vfadd a0 a1)
  | .vfsub a0 a1 => okWord (.vfsub a0 a1)
  | .vfmul a0 a1 => okWord (.vfmul a0 a1)
  | .vfma a0 a1 => okWord (.vfma a0 a1)
  | .vfmin a0 a1 => okWord (.vfmin a0 a1)
  | .vfmax a0 a1 => okWord (.vfmax a0 a1)
  | .vfabs a0 a1 => okWord (.vfabs a0 a1)
  | .vfneg a0 a1 => okWord (.vfneg a0 a1)
  | .vrcp a0 a1 => okWord (.vrcp a0 a1)
  | .vrsq a0 a1 => okWord (.vrsq a0 a1)
  | .vex2 a0 a1 => okWord (.vex2 a0 a1)
  | .vlg2 a0 a1 => okWord (.vlg2 a0 a1)
  | .vsin a0 a1 => okWord (.vsin a0 a1)
  | .vcos a0 a1 => okWord (.vcos a0 a1)
  | .vcmp a0 a1 => okWord (.vcmp a0 a1)
  | .vset a0 a1 => okWord (.vset a0 a1)
  | .vcvt a0 a1 a2 a3 => okWord (.vcvt a0 a1 a2 a3)
  | .vshfl a0 a1 => okWord (.vshfl a0 a1)
  | .vred a0 a1 => okWord (.vred a0 a1)
  | .srdlane a0 a1 => okWord (.srdlane a0 a1)
  | .smov a0 a1 => okWord (.smov a0 a1)
  | .sadd a0 a1 => okWord (.sadd a0 a1)
  | .ssub a0 a1 => okWord (.ssub a0 a1)
  | .smul a0 a1 => okWord (.smul a0 a1)
  | .sand a0 a1 => okWord (.sand a0 a1)
  | .sor a0 a1 => okWord (.sor a0 a1)
  | .sxor a0 a1 => okWord (.sxor a0 a1)
  | .sandn a0 a1 => okWord (.sandn a0 a1)
  | .sshl a0 a1 => okWord (.sshl a0 a1)
  | .sshr a0 a1 => okWord (.sshr a0 a1)
  | .ssra a0 a1 => okWord (.ssra a0 a1)
  | .smin a0 a1 => okWord (.smin a0 a1)
  | .smax a0 a1 => okWord (.smax a0 a1)
  | .scmp a0 a1 a2 => okWord (.scmp a0 a1 a2)
  | .sfirst a0 a1 => okWord (.sfirst a0 a1)
  | .spopc a0 a1 => okWord (.spopc a0 a1)
  | .srds a0 a1 => okWord (.srds a0 a1)
  | .swrs a0 a1 => okWord (.swrs a0 a1)
  | .sbr a0 a1 => okWord (.sbr a0 a1)
  | .sbrz a0 a1 => okWord (.sbrz a0 a1)
  | .sbrnz a0 a1 => okWord (.sbrnz a0 a1)
  | .sbrexz a0 a1 => okWord (.sbrexz a0 a1)
  | .sbrexnz a0 a1 => okWord (.sbrexnz a0 a1)
  | .sjmpr a0 a1 => okWord (.sjmpr a0 a1)
  | .scall a0 a1 => okWord (.scall a0 a1)
  | .scallr a0 a1 => okWord (.scallr a0 a1)
  | .sexit a0 a1 => okWord (.sexit a0 a1)
  | .snop a0 a1 => okWord (.snop a0 a1)
  | .ld a0 a1 => okWord (.ld a0 a1)
  | .lds a0 a1 => okWord (.lds a0 a1)
  | .st a0 a1 => okWord (.st a0 a1)
  | .ldr a0 a1 => okWord (.ldr a0 a1)
  | .stc a0 a1 => okWord (.stc a0 a1)
  | .aadd a0 a1 => okWord (.aadd a0 a1)
  | .aand a0 a1 => okWord (.aand a0 a1)
  | .aor a0 a1 => okWord (.aor a0 a1)
  | .axor a0 a1 => okWord (.axor a0 a1)
  | .amin a0 a1 => okWord (.amin a0 a1)
  | .amax a0 a1 => okWord (.amax a0 a1)
  | .aumin a0 a1 => okWord (.aumin a0 a1)
  | .aumax a0 a1 => okWord (.aumax a0 a1)
  | .axchg a0 a1 => okWord (.axchg a0 a1)
  | .acas a0 a1 => okWord (.acas a0 a1)
  | .afadd a0 a1 => okWord (.afadd a0 a1)
  | .mxpack a0 a1 => okWord (.mxpack a0 a1)
  | .mxz a0 a1 => okWord (.mxz a0 a1)
  | .mxop a0 a1 => okWord (.mxop a0 a1)
  | .mxdrn a0 a1 => okWord (.mxdrn a0 a1)
  | .mxsync a0 a1 => okWord (.mxsync a0 a1)
  | .kBlockEnd _ _ => true
  | .scaleFold _ => true
  | .fence a0 a1 => okWord (.fence a0 a1)
  | .barCore a0 a1 => okWord (.barCore a0 a1)
  | .barClu a0 a1 => okWord (.barClu a0 a1)
  | .barSys a0 a1 => okWord (.barSys a0 a1)
  | .barrierRelease _ => true
  | .fnput a0 a1 => okWord (.fnput a0 a1)
  | .fnget a0 a1 => okWord (.fnget a0 a1)
  | .fntest a0 a1 => okWord (.fntest a0 a1)
  | .storeBufferDrain _ => true
  | .protectionTimeout _ => true
  | .rds r => lineOk r.line
  | .rdx r => lineOk r.line
  | .upg r => lineOk r.line
  | .rdz r => lineOk r.line
  | .wbd r => lineOk r.line
  | .evc r => lineOk r.line
  | .ucr r => lineOk r.line
  | .ucw r => lineOk r.line
  | .uca r => lineOk r.line
  | .rty _ _ _ => true
  | .fwdS line _ => lineOk line
  | .fwdX line _ => lineOk line
  | .inv line _ => lineOk line
  | .rclS line _ => lineOk line
  | .rclI line _ => lineOk line
  | .data r => lineOk r.line
  | .grant r => lineOk r.line
  | .nack r => lineOk r.line
  | .wback line _ => lineOk line
  | .ucdone r => lineOk r.line
  | .dataF r => lineOk r.line
  | .ack line _ => lineOk line
  | .cmp r => lineOk r.line
  | .evictionDrain line => lineOk line
  | .wcbEvict line => lineOk line
  | .gather _ sector => lineOk (sector / 4)
  | .hbmRead line _ _ => lineOk line
  | .refresh _ _ => true
  | .tempReading _ _ => true
  | .channelStop _ _ => true
  | .up u => upOk u
  | .dn _ => true
  | .mgmt _ _ _ _ => true
  | .descConfirmTimeout _ => true
  | .time _ m _ => timeOk m
  | .dataFlit _ _ _ => true
  | .idleFlit _ _ _ => true
  | .nak _ _ => true
  | .detect _ _ => true
  | .equalise _ _ => true
  | .align _ => true
  | .negotiate _ _ => true
  | .identify _ _ _ _ _ => true
  | .trainingTimeout _ => true
  | .remoteTagTimeout _ => true
  | .amCtrlEn _ _ => true
  | .amCtrlTrain _ => true
  | .doorbell q _ => queueOk q
  | .queueIdle q => queueOk q
  | .ringFetch q => queueOk q
  | .packetCheck q => queueOk q
  | .packetRetire q => queueOk q
  | .dbReply0Pop q _ => queueOk q
  | .dbKcfgEn q _ => kernelQOk q
  | .step q => queueOk q
  | .copy q => queueOk q
  | .launch q => queueOk q
  | .wait q => queueOk q
  | .waitPoll q => queueOk q
  | .waitTimeout q => queueOk q
  | .signal q => queueOk q
  | .nop q => queueOk q
  | .queueCreate q => queueOk q
  | .queueDestroy q => queueOk q
  | .queueLimit q => queueOk q
  | .asCreate q => queueOk q
  | .asEdit q => queueOk q
  | .asDestroy q => queueOk q
  | .kvQuota q => queueOk q
  | .modelLoad q => queueOk q
  | .progLoad q => queueOk q
  | .descSet q => queueOk q
  | .descRelease q => queueOk q
  | .fwinSet q => queueOk q
  | .embed node => nodeOk node
  | .placed node => nodeOk node
  | .reduce node => nodeOk node
  | .select node => nodeOk node
  | .verify node => nodeOk node
  | .draft node => nodeOk node
  | .commit node => nodeOk node
  | .endNode node => nodeOk node
  | .tileDispatch _ _ => true
  | .tileStart _ => true
  | .tileFinish _ => true
  | .launchComplete _ => true
  | .tileTimerExpiry _ => true
  | .weightRefetch _ _ _ => true
  | .deviceReset _ => true
  | .hostBar4Write off bytes _ => extentOk off bytes.length
  | .hostBar4Read off len => extentOk off len
  | .feHwinWrite _ => true
  | .bar4Resize log2 => barOk log2
  | .configRequest _ _ => true
  | .feKvpWrite _ _ => true
  | .readClear _ off len => readOk off len
  | .registerWrite _ _ wide v => valueOk wide v
  | .dgCselWrite _ _ _ => true
  | .dgCctlClr _ => true
  | .dgTrigArm _ => true
  | .triggerAction _ => true
  | .pcSample _ => true
  | .watchRecord _ _ => true
  | .pllLock _ => true
  | .timeExchangeTick _ => true
  | .clockStop _ => true
  | .clockRestart _ => true
  | .supplyDroop _ => true
  | .droopRecoveryTick _ => true
  | .tjSample _ _ => true
  | .thermalTrip _ => true
  | .islandGate _ => true
  | .islandWake _ => true
  | .inputVoltageChange _ => true
  | .coolantCondition _ _ => true
  | .strapAccept _ _ => true
  | .strapLiveMismatch _ => true
  | .heartbeatSend _ => true
  | .heartbeatFrame _ _ => true
  | .heartbeatTimeout _ => true
  | .ntHbKick _ => true
  | .bootGo _ => true
  | .selftest r => selfTestOk r
  | .hbmTraining r => r.all chanOk
  | .quote _ => true
  | .status frame => frameOk frame
  | .setTopo frame => frameOk frame
  | .resetCmd frame => frameOk frame
  | .telem frame => frameOk frame
  | .strapCmd frame => frameOk frame
  | .quoteDone _ => true
  | .hostPortTrained _ => true
  | .unknownCmd frame => frameOk frame
  | .addressParityRetry _ _ => true
  | .cagePresenceFault _ _ _ => true
  | .check => true
  | .golden => true
  | .write => true
  | .ready => true
  | .stepBoundary => true
  | .resetComplete => true
  | .perst => true
  | .dgPcsPop0 _ => true
  | .dgTrPop0 _ => true
  | .timeCode => true
  | .seriesTimeout => true
  | .holdover => true
  | .relock => true
  | .powerUp => true
  | .inputPowerLoss => true
  | .currentLimit => true
  | .railFault => true
  | .rom => true
  | .peerVerify => true
  | .links => true
  | .sync => true

end Sys2Proof
end

