-- ==== Sys2Proof/Certificates/Slice0/Obligations.lean ====
section
/-! DEFINITION. The statements for the provers. A statement of several rules is the conjunction of the rules named in its body.
A rule number in a docstring says where a clause comes from; OBLIGATIONS.json cites a rule only where the statement says it whole. -/
section
open Sys2Proof Sys2Proof.Machine

/-! ### Vector and scalar instructions -/

/-- VMOV, VADD, VSUB, VMULLO, VMULHI, VMIN and VMAX: the result of R141 in every active lane, and nothing else changes (R50). -/
def Rules.VectorIntegerArithmetic : Prop :=
  ∀ (s : State) (g : GroupAt) (f : VF) (d : BitVec 8), f.dst = .v d →
    let w := wide f.ty
    let A (gr : Group) (l : Nat) := gr.rd f.src0 w l
    let B (gr : Group) (l : Nat) := gr.rd1 f w l
    let a (gr : Group) (l : Nat) : Word := (A gr l).setWidth 32
    let b (gr : Group) (l : Nat) : Word := (B gr l).setWidth 32
    VecRule (.vmov g f) (encV 0x00 f) s g f w w d w (fun gr l => match f.src1 with
      | .op _ => A gr l
      | .imm _ => B gr l) ∧
    VecRule (.vadd g f) (encV 0x01 f) s g f w w d w (fun gr l => A gr l + B gr l) ∧
    VecRule (.vsub g f) (encV 0x02 f) s g f w w d w (fun gr l => A gr l - B gr l) ∧
    VecRule (.vmullo g f) (encV 0x03 f) s g f w w d w (fun gr l => (a gr l * b gr l).setWidth 64) ∧
    (f.ty = .i32 → VecRule (.vmulhi g f) (encV 0x04 f) s g f w w d w
      (fun gr l => BitVec.ofInt 64 ((a gr l).toInt * (b gr l).toInt) >>> 32)) ∧
    (f.ty = .u32 → VecRule (.vmulhi g f) (encV 0x04 f) s g f w w d w
      (fun gr l => BitVec.ofNat 64 ((a gr l).toNat * (b gr l).toNat) >>> 32)) ∧
    (f.ty = .i32 →
      VecRule (.vmin g f) (encV 0x05 f) s g f w w d w (fun gr l => if (a gr l).toInt ≤ (b gr l).toInt then A gr l else B gr l) ∧
      VecRule (.vmax g f) (encV 0x06 f) s g f w w d w (fun gr l => if (a gr l).toInt ≤ (b gr l).toInt then B gr l else A gr l)) ∧
    (f.ty = .u32 →
      VecRule (.vmin g f) (encV 0x05 f) s g f w w d w (fun gr l => if (a gr l).toNat ≤ (b gr l).toNat then A gr l else B gr l) ∧
      VecRule (.vmax g f) (encV 0x06 f) s g f w w d w (fun gr l => if (a gr l).toNat ≤ (b gr l).toNat then B gr l else A gr l))

/-- VAND, VOR, VXOR, VNOT, VSHL, VSHR, VSEL, VPOPC and VCLZ (R141). A shift amount is taken modulo the width, and VSHR is arithmetic for
the signed types. -/
def Rules.VectorBitOperations : Prop :=
  ∀ (s : State) (g : GroupAt) (f : VF) (d : BitVec 8), f.dst = .v d →
    let w := wide f.ty
    let A (gr : Group) (l : Nat) := gr.rd f.src0 w l
    let B (gr : Group) (l : Nat) := gr.rd1 f w l
    let a (gr : Group) (l : Nat) : Word := (A gr l).setWidth 32
    let b (gr : Group) (l : Nat) : Word := (B gr l).setWidth 32
    VecRule (.vand g f) (encV 0x07 f) s g f w w d w (fun gr l => A gr l &&& B gr l) ∧
    VecRule (.vor g f) (encV 0x08 f) s g f w w d w (fun gr l => A gr l ||| B gr l) ∧
    VecRule (.vxor g f) (encV 0x09 f) s g f w w d w (fun gr l => A gr l ^^^ B gr l) ∧
    VecRule (.vnot g f) (encV 0x0A f) s g f w w d w (fun gr l => ~~~(A gr l)) ∧
    (w = true → VecRule (.vshl g f) (encV 0x0B f) s g f w w d w (fun gr l => A gr l <<< ((B gr l).toNat % 64))) ∧
    (w = false → VecRule (.vshl g f) (encV 0x0B f) s g f w w d w (fun gr l => (a gr l <<< ((b gr l).toNat % 32)).setWidth 64)) ∧
    (f.ty = .i32 →
      VecRule (.vshr g f) (encV 0x0C f) s g f w w d w (fun gr l => ((a gr l).sshiftRight ((b gr l).toNat % 32)).setWidth 64)) ∧
    (f.ty = .u32 → VecRule (.vshr g f) (encV 0x0C f) s g f w w d w (fun gr l => (a gr l >>> ((b gr l).toNat % 32)).setWidth 64)) ∧
    (f.ty = .i64 → VecRule (.vshr g f) (encV 0x0C f) s g f w w d w (fun gr l => (A gr l).sshiftRight ((B gr l).toNat % 64))) ∧
    (f.ty = .u64 → VecRule (.vshr g f) (encV 0x0C f) s g f w w d w (fun gr l => A gr l >>> ((B gr l).toNat % 64))) ∧
    VecRule (.vsel g f) (encV 0x0D f) s g f false false d false
      (fun gr l => if (gr.rd f.src2 false l).getLsbD l then gr.rd f.src0 false l else gr.rd1 f false l) ∧
    VecRule (.vpopc g f) (encV 0x0E f) s g f w w d w (fun gr l => BitVec.ofNat 64 ((List.range 32).countP (a gr l).getLsbD)) ∧
    VecRule (.vclz g f) (encV 0x0F f) s g f w w d w
      (fun gr l => BitVec.ofNat 64 ((List.range 32).takeWhile fun i => !(a gr l).getLsbD (31 - i)).length)

/-- VFADD, VFSUB, VFMUL, VFMA, VFMIN, VFMAX, VFABS, VFNEG, VRCP, VRSQ, VEX2, VLG2, VSIN and VCOS complete: each lane's exact result is
rounded once into the type (R67, R68, R141). VFABS and VFNEG read SRC0 alone, and complete whatever the other fields name. Where the spec
leaves it open, the clauses follow the model's choice: log entry 30. -/
def Obligations.VectorFloatArithmetic : Prop :=
  ∀ (s : State) (g : GroupAt) (f : VF) (d : BitVec 8), f.dst = .v d → isFloat f.ty = true →
    let w := wide f.ty
    let V (x : BitVec 64) : FVal := if f.ty = .f64 then f64 x else f32 (x.setWidth 32)
    let R (rm : Rm) (v : FVal) : BitVec 64 := if f.ty = .f64 then toF64 rm v else (toF32 rm v).setWidth 64
    let A (gr : Group) (l : Nat) := V (gr.rd f.src0 w l)
    let B (gr : Group) (l : Nat) := V (gr.rd1 f w l)
    let C (gr : Group) (l : Nat) := V (gr.rd f.src2 w l)
    let a (gr : Group) (l : Nat) : Word := (gr.rd f.src0 w l).setWidth 32
    VecRule (.vfadd g f) (encV 0x20 f) s g f w w d w (fun gr l => R f.rm (FVal.add f.rm (A gr l) (B gr l))) ∧
    VecRule (.vfsub g f) (encV 0x21 f) s g f w w d w (fun gr l => R f.rm (FVal.add f.rm (A gr l) (B gr l).neg)) ∧
    VecRule (.vfmul g f) (encV 0x22 f) s g f w w d w (fun gr l => R f.rm (FVal.mul (A gr l) (B gr l))) ∧
    VecRule (.vfma g f) (encV 0x23 f) s g f w w d w (fun gr l => R f.rm (FVal.add f.rm (FVal.mul (A gr l) (B gr l)) (C gr l))) ∧
    VecRule (.vfmin g f) (encV 0x24 f) s g f w w d w (fun gr l => R .rn (FVal.min (A gr l) (B gr l))) ∧
    VecRule (.vfmax g f) (encV 0x25 f) s g f w w d w (fun gr l => R .rn (FVal.max (A gr l) (B gr l))) ∧
    VecRule (.vfabs g f) (encV 0x26 f) s g f w w d w (fun gr l => R .rn (FVal.abs (A gr l))) ∧
    VecRule (.vfneg g f) (encV 0x27 f) s g f w w d w (fun gr l => R .rn (FVal.neg (A gr l))) ∧
    (∀ x, Issues s g (encV 0x26 f) x → (∀ l, l < 32 → x.gr.exec.getLsbD l = true → x.gr.opPois f.src0 w l = false) →
      ∃ t, exec (.vfabs g f) s = .next t ∧ Steps s t g x (x.gr.pc + 8) ∧
        WroteV x.gr (t.groupAt g) d w (fun l => R .rn (FVal.abs (A x.gr l)))) ∧
    (∀ x, Issues s g (encV 0x27 f) x → (∀ l, l < 32 → x.gr.exec.getLsbD l = true → x.gr.opPois f.src0 w l = false) →
      ∃ t, exec (.vfneg g f) s = .next t ∧ Steps s t g x (x.gr.pc + 8) ∧
        WroteV x.gr (t.groupAt g) d w (fun l => R .rn (FVal.neg (A x.gr l)))) ∧
    (f.ty = .f64 →
      VecRule (.vrcp g f) (encV 0x30 f) s g f w w d w (fun gr l => toF64 .rn (rcpSeed (A gr l))) ∧
      VecRule (.vrsq g f) (encV 0x31 f) s g f w w d w (fun gr l => toF64 .rn (rsqSeed (A gr l)))) ∧
    (f.ty = .f32 →
      VecRule (.vrcp g f) (encV 0x30 f) s g f w w d w (fun gr l => (rcp32 (a gr l)).setWidth 64) ∧
      VecRule (.vrsq g f) (encV 0x31 f) s g f w w d w (fun gr l => (rsq32 (a gr l)).setWidth 64) ∧
      VecRule (.vex2 g f) (encV 0x32 f) s g f w w d w (fun gr l => (ex2 (a gr l)).setWidth 64) ∧
      VecRule (.vlg2 g f) (encV 0x33 f) s g f w w d w (fun gr l => (lg2 (a gr l)).setWidth 64) ∧
      VecRule (.vsin g f) (encV 0x34 f) s g f w w d w (fun gr l => (sincos false (a gr l)).setWidth 64) ∧
      VecRule (.vcos g f) (encV 0x35 f) s g f w w d w (fun gr l => (sincos true (a gr l)).setWidth 64))

/-- VCMP, VSET, VCVT, VSHFL and SRDLANE. VCMP's mask has the condition in the active lanes and 0 elsewhere (R52, R142); VSHFL reads its
source lane as R144 names it; SRDLANE reads the lane that SRC1 names in the lowest active lane (R141). Where the spec leaves it open, the
clauses follow the model's choice: log entry 30. -/
def Rules.VectorCompareConvertMove : Prop :=
  ∀ (s : State) (g : GroupAt) (f : VF) (x : Ctx),
    let w := wide f.ty
    let holds (l : Nat) := condHolds (fieldN f.md 0 3) (tyCmp f.ty (x.gr.rd f.src0 w l) (x.gr.rd1 f w l))
    let k (l : Nat) : Nat := ((x.gr.rd1 f false l).setWidth 32).toNat
    let active (l : Nat) : Prop := l < 32 ∧ x.gr.exec.getLsbD l = true
    (∀ n, f.dst = .s n → Issues s g (encV 0x40 f) x → CleanV x.gr f w w →
      ∃ t m, exec (.vcmp g f) s = .next t ∧ Steps s t g x (x.gr.pc + 8) ∧
        WroteS x.gr (t.groupAt g) n.toNat false (BitVec.setWidth 64 (m : Word)) ∧
        ∀ l, l < 32 → m.getLsbD l = (x.gr.exec.getLsbD l && holds l)) ∧
    (∀ d, f.dst = .v d → VecRule (.vset g f) (encV 0x41 f) s g f w w d false
      (fun gr l => if condHolds (fieldN f.md 0 3) (tyCmp f.ty (gr.rd f.src0 w l) (gr.rd1 f w l)) then 1 else 0)) ∧
    (∀ d src dst, f.dst = .v d → VecRule (.vcvt g src dst f) (encCvt src dst f) s g f (wide src) false d (wide dst)
      (fun gr l => convert f.rm src dst (gr.rd f.src0 (wide src) l))) ∧
    (∀ d, f.dst = .v d → Issues s g (encV 0x60 f) x → (∀ l, l < 32 → x.gr.opPois f.src0 w l = false) →
      (∀ l, active l → x.gr.srcPois f.src1 false l = false) →
      ∃ t val, exec (.vshfl g f) s = .next t ∧ Steps s t g x (x.gr.pc + 8) ∧ WroteV x.gr (t.groupAt g) d w val ∧
        ∀ l, active l → val l = x.gr.rd f.src0 w (match fieldN f.md 0 2 with
          | 0 => k l % 32
          | 1 => if k l ≤ l ∧ x.gr.exec.getLsbD (l - k l) = true then l - k l else l
          | 2 => if l + k l < 32 ∧ x.gr.exec.getLsbD (l + k l) = true then l + k l else l
          | _ => l ^^^ (k l % 32))) ∧
    (∀ n, f.dst = .s n → Issues s g (encV 0x62 f) x → (∀ l, l < 32 → x.gr.opPois f.src0 w l = false ∧ x.gr.srcPois f.src1 false l = false) →
      ∃ t l, exec (.srdlane g f) s = .next t ∧ Steps s t g x (x.gr.pc + 8) ∧
        WroteS x.gr (t.groupAt g) n.toNat w (x.gr.rd f.src0 w (k l % 32)) ∧
        (if x.gr.exec = 0 then l = 0 else active l ∧ ∀ j, j < l → x.gr.exec.getLsbD j = false))

/-- VRED: one value to every active lane of a vector destination or to a scalar one. The wrapping ADD of the 32-bit types and the bitwise
operations give the combine of the active lanes in any order, and the value of R144 when there are none. Where the spec leaves it open,
the clauses follow the model's choice: log entry 30. -/
def Rules.VectorReduction : Prop :=
  ∀ (s : State) (g : GroupAt) (f : VF) (x : Ctx), Issues s g (encV 0x61 f) x → CleanV x.gr f (wide f.ty) (wide f.ty) →
    ∃ t v, exec (.vred g f) s = .next t ∧
      (∀ d, f.dst = .v d → Steps s t g x (x.gr.pc + 8) ∧ WroteV x.gr (t.groupAt g) d (wide f.ty) fun _ => v) ∧
      (∀ n, f.dst = .s n → Steps s t g x (x.gr.pc + 8) ∧ WroteS x.gr (t.groupAt g) n.toNat (wide f.ty) v) ∧
      ((f.ty = .i32 ∨ f.ty = .u32) →
        let lanes := (List.range 32).filter fun l => x.gr.exec.getLsbD l
        let a (l : Nat) : Word := (x.gr.rd f.src0 false l).setWidth 32
        (fieldN f.md 0 3 = 0 → v.setWidth 32 = lanes.foldl (fun r l => r + a l) 0) ∧
        (fieldN f.md 0 3 = 3 → v.setWidth 32 = lanes.foldl (fun r l => r &&& a l) (BitVec.allOnes 32)) ∧
        (fieldN f.md 0 3 = 4 → v.setWidth 32 = lanes.foldl (fun r l => r ||| a l) 0) ∧
        (fieldN f.md 0 3 = 5 → v.setWidth 32 = lanes.foldl (fun r l => r ^^^ a l) 0)) ∧
      (x.gr.exec = 0 → f.ty = .i32 → fieldN f.md 0 3 = 1 → v = 0x7FFFFFFF) ∧
      (x.gr.exec = 0 → f.ty = .i32 → fieldN f.md 0 3 = 2 → v = 0x80000000) ∧
      (x.gr.exec = 0 → isFloat f.ty = true → (fieldN f.md 0 3 = 1 ∨ fieldN f.md 0 3 = 2) →
        v = if f.ty = .f64 then 0x7FF8000000000000 else 0x7FC00000)

/-- The scalar arithmetic of R145: the destination takes the result and nothing else changes, whatever EXEC holds (R51). -/
def Rules.ScalarArithmetic : Prop :=
  ∀ (s : State) (g : GroupAt) (f : SF),
    let p := f.w64
    let lo (v : BitVec 64) : Word := v.setWidth 32
    let sh (b : BitVec 64) : Nat := if p then b.toNat % 64 else b.toNat % 32
    SclRule (.smov g f) 0x00 s g f p (fun _ b => b) ∧
    SclRule (.sadd g f) 0x01 s g f p (fun a b => a + b) ∧
    SclRule (.ssub g f) 0x02 s g f p (fun a b => a - b) ∧
    (p = false → SclRule (.smul g f) 0x03 s g f p (fun a b => (lo a * lo b).setWidth 64)) ∧
    SclRule (.sand g f) 0x04 s g f p (fun a b => a &&& b) ∧
    SclRule (.sor g f) 0x05 s g f p (fun a b => a ||| b) ∧
    SclRule (.sxor g f) 0x06 s g f p (fun a b => a ^^^ b) ∧
    SclRule (.sandn g f) 0x07 s g f p (fun a b => a &&& ~~~b) ∧
    SclRule (.sshl g f) 0x08 s g f p (fun a b => a <<< sh b) ∧
    SclRule (.sshr g f) 0x09 s g f p (fun a b => a >>> sh b) ∧
    (p = true → SclRule (.ssra g f) 0x0A s g f p (fun a b => a.sshiftRight (b.toNat % 64))) ∧
    (p = false → SclRule (.ssra g f) 0x0A s g f p (fun a b => ((lo a).sshiftRight (b.toNat % 32)).setWidth 64)) ∧
    (p = false → SclRule (.smin g f) 0x0B s g f p (fun a b => if (lo a).toInt ≤ (lo b).toInt then a else b)) ∧
    (p = false → SclRule (.smax g f) 0x0C s g f p (fun a b => if (lo a).toInt ≤ (lo b).toInt then b else a)) ∧
    (∀ c, p = false → SclRule (.scmp g c f) (condCode c) s g f p (fun a b =>
      let h : Bool := match c with
        | .eq => lo a = lo b
        | .ne => lo a ≠ lo b
        | .lt => (lo a).toInt < (lo b).toInt
        | .le => (lo a).toInt ≤ (lo b).toInt
        | .gt => (lo b).toInt < (lo a).toInt
        | .ge => (lo b).toInt ≤ (lo a).toInt
        | .ltu => (lo a).toNat < (lo b).toNat
        | .leu => (lo a).toNat ≤ (lo b).toNat
        | .gtu => (lo b).toNat < (lo a).toNat
        | .geu => (lo b).toNat ≤ (lo a).toNat
      if h then 1 else 0)) ∧
    (p = false → SclRule (.sfirst g f) 0x20 s g f p (fun a _ =>
      BitVec.ofNat 64 ((List.range 32).takeWhile fun i => !(lo a).getLsbD i).length)) ∧
    (p = false → SclRule (.spopc g f) 0x21 s g f p (fun a _ => BitVec.ofNat 64 ((List.range 32).countP (lo a).getLsbD)))

/-- SRDS reads the special register that IMM32 names, and SWRS writes EXEC within LMASK (R52, R55, R145). TIME is a time-stamp of the
island, which never runs back (R392). Where the spec leaves it open, the clauses follow the model's choice: log entry 9. -/
def Rules.SpecialRegisters : Prop :=
  ∀ (s : State) (g : GroupAt) (f : SF) (x : Ctx),
    (Issues s g (encS 5 0x30 f) x → ∃ t, exec (.srds g f) s = .next t ∧ t.mem = s.mem ∧ x.gr.at_ (t.groupAt g) (x.gr.pc + 8) ∧
      (∀ v : Word, (f.imm, v) ∈ [(0, x.gr.exec), (1, x.gr.lmask), (2, x.g.setWidth 32), (3, x.core.ngrp.setWidth 32),
          (4, x.id.setWidth 32), (5, s.am.mid.setWidth 32), (6, 0)] →
        Steps s t g x (x.gr.pc + 8) ∧ WroteS x.gr (t.groupAt g) f.dst.toNat false (v.setWidth 64)) ∧
      (f.imm = 7 → ∃ v : BitVec 64, WroteS x.gr (t.groupAt g) f.dst.toNat true v ∧
        (v = (s.clu (cluOf x.id)).stamp ∨ ∃ k, k ≤ 63 ∧ v = s.tb.code + BitVec.ofNat 64 k) ∧
        (s.clu (cluOf x.id)).stamp ≤ v ∧ (t.clu (cluOf x.id)).stamp = v)) ∧
    (Issues s g (encS 5 0x31 f) x → x.gr.sPois false f.src0.toNat = false →
      ∃ t, exec (.swrs g f) s = .next t ∧ OnlyGroup s t g ∧ WroteNone x.gr (t.groupAt g) ∧ (t.groupAt g).pc = x.gr.pc + 8 ∧
        (t.groupAt g).exec = x.gr.sreg f.src0.toNat &&& x.gr.lmask ∧ (t.groupAt g).lmask = x.gr.lmask)

/-- The branches of R146: the target or the next instruction, and no register but SCALL's and SCALLR's link; a register target outside
the image stops the kernel with E_XLATE (R134). -/
def Rules.Branches : Prop :=
  ∀ (s : State) (g : GroupAt) (f : SF) (x : Ctx),
    let rel : BitVec 48 := x.gr.pc + f.imm.signExtend 48 * 8
    let src := x.gr.sreg f.src0.toNat
    let tgt := x.gr.sreg64 f.src0.toNat
    let inside : Prop := tgt.toNat % 8 = 0 ∧ x.la.entry ≤ tgt.toNat ∧ tgt.toNat < x.la.entry + 8 * x.la.image.length
    let goes (i : Instr) (pc : BitVec 48) : Prop :=
      ∃ t, exec i s = .next t ∧ Steps s t g x pc ∧ WroteNone x.gr (t.groupAt g)
    let clean : Prop := x.gr.sPois false f.src0.toNat = false
    (Issues s g (encS 6 0x00 f) x → goes (.sbr g f) rel) ∧
    (Issues s g (encS 6 0x01 f) x → clean → goes (.sbrz g f) (if src = 0 then rel else x.gr.pc + 8)) ∧
    (Issues s g (encS 6 0x02 f) x → clean → goes (.sbrnz g f) (if src = 0 then x.gr.pc + 8 else rel)) ∧
    (Issues s g (encS 6 0x03 f) x → goes (.sbrexz g f) (if x.gr.exec = 0 then rel else x.gr.pc + 8)) ∧
    (Issues s g (encS 6 0x04 f) x → goes (.sbrexnz g f) (if x.gr.exec = 0 then x.gr.pc + 8 else rel)) ∧
    (Issues s g (encS 6 0x10 f) x → goes (.snop g f) (x.gr.pc + 8)) ∧
    (Issues s g (encS 6 0x08 f) x → x.gr.sPois true f.src0.toNat = false → inside → goes (.sjmpr g f) (tgt.setWidth 48)) ∧
    (Issues s g (encS 6 0x08 f) x → x.gr.sPois true f.src0.toNat = false → ¬inside →
      ∃ t, exec (.sjmpr g f) s = .next t ∧ KernelStop s t x 0x0302) ∧
    (Issues s g (encS 6 0x09 f) x → ∃ t, exec (.scall g f) s = .next t ∧ Steps s t g x rel ∧
      WroteS x.gr (t.groupAt g) f.dst.toNat true ((x.gr.pc + 8).setWidth 64)) ∧
    (Issues s g (encS 6 0x0A f) x → x.gr.sPois true f.src0.toNat = false → inside →
      ∃ t, exec (.scallr g f) s = .next t ∧ Steps s t g x (tgt.setWidth 48) ∧
        WroteS x.gr (t.groupAt g) f.dst.toNat true ((x.gr.pc + 8).setWidth 64))

/-- SEXIT: the group finishes with its registers as they are, no memory changes, and CO_STATE reports the store buffer draining when
the last group leaves stores in it (R53, R71). -/
def Rules.GroupExit : Prop :=
  ∀ (s : State) (g : GroupAt) (f : SF) (x : Ctx), Issues s g (encS 6 0x0F f) x →
    ∃ t, exec (.sexit g f) s = .next t ∧ (t.groupAt g).fin = true ∧ (t.groupAt g).stall = 0xB ∧ WroteNone x.gr (t.groupAt g) ∧
      t.mem = s.mem ∧ t.poison = s.poison ∧ t.ws = s.ws ∧ (∀ c, c ≠ g.core → t.core c = s.core c) ∧
      (t.core g.core).sb = x.core.sb ∧
      ((∀ e ∈ (x.core.groups.put g.grp.toNat { x.gr with fin := true }).entries, e.2.fin = true) → x.core.sb ≠ [] →
        (t.core g.core).run = 3)

/-- An instruction that reads a poisoned register stops the kernel at that instruction with E_POISON (R372). Where the spec leaves it
open, the clauses follow the model's choice: log entry 10. -/
def Rules.PoisonedSourceStops : Prop :=
  ∀ (s : State) (g : GroupAt) (x : Ctx),
    (∀ (f : VF) (p : Instr × BitVec 64), p ∈ vecTable g f → Issues s g p.2 x →
      x.gr.vecPois p.2 f (wide f.ty) (wide f.ty) (wide f.ty) = true → ∃ t, exec p.1 s = .next t ∧ KernelStop s t x 0x0301) ∧
    (∀ (f : SF) (p : Instr × BitVec 8), p ∈ sclTable g f → Issues s g (encS 5 p.2 f) x → x.gr.sclPois p.2 f = true →
      ∃ t, exec p.1 s = .next t ∧ KernelStop s t x 0x0301)

/-! ### Memory instructions -/

/-- An access that fails a check of R469 stops the kernel with the code of the lowest lane that fails, and nothing of the instruction is
done. Misaligned reserved and atomic accesses give E_ALIGN (R183, R185); an address beyond the scratchpad that the launch declares, a
cached access to another module, a store to the window and an atomic in control space give E_XLATE (R14, R59, R63, R66, R177). Where the
spec leaves it open, the clauses follow the model's choice: log entries 10, 13. -/
def Rules.AddressChecksStop : Prop :=
  ∀ (s : State) (g : GroupAt) (f : MF) (x : Ctx), ∀ p ∈ memTable g f, Issues s g (encM p.2.1 f) x →
    x.memPois f true = false → (∀ l, x.active l → x.gr.swapPois p.2.1 f l = false) →
    let q := p.2.2
    let a (l : Nat) := x.gr.laneAddr f q.reserved l
    let n := sizeBytes f.size
    let spad := 64 * x.core.spadUnits.toNat
    let stops (c : Code) : Prop := ∃ t, exec p.1 s = .next t ∧ KernelStop s t x c
    ∀ l, x.active l → (∀ j, j < l → x.active j → s.checkAddr spad f q (a j) = 0) →
      (s.checkAddr spad f q (a l) ≠ 0 → stops (s.checkAddr spad f q (a l))) ∧
      ((q.atomic = true ∨ q.reserved = true) → (a l).toNat % n ≠ 0 → stops 0x0202) ∧
      (q.atomic = false → q.reserved = false → f.spad = true → spad < (a l).toNat + n → stops 0x0302) ∧
      ((a l).toNat % n = 0 → f.spad = false → f.kind ≠ .uc → f.kind ≠ .nw → bits (a l) 49 15 ≠ s.mid → stops 0x0302) ∧
      ((a l).toNat % n = 0 → f.spad = false → q.store = true → f.kind ≠ .nw → (∃ o, placeOf s.mid (a l) = .window o) → stops 0x0302) ∧
      ((a l).toNat % n = 0 → f.spad = false → (q.atomic = true ∨ q.reserved = true) → f.kind ≠ .nw →
        (∃ o, placeOf s.mid (a l) = .control o) → stops 0x0302)

/-- LD and LDS from the scratchpad (R63, R64, R148): each active lane's register takes the bytes, a sector never written reads 0, and LDS
extends the sign. -/
def Rules.ScratchpadLoads : Prop :=
  ∀ (s : State) (g : GroupAt) (f : MF) (x : Ctx) (d : BitVec 8), f.spad = true → f.data = .v d →
    let n := sizeBytes f.size
    let a (l : Nat) := (x.gr.laneAddr f false l).toNat
    let byte (j : Nat) : Byte := if x.core.spadWr.contains (j / 32) then x.core.spad.read j else 0
    let raw (l : Nat) : BitVec 128 := ofBytes 128 ((List.range n).map fun i => byte (a l + i))
    let ready : Prop := x.memPois f false = false ∧ (∀ l, x.active l → a l + n ≤ 64 * x.core.spadUnits.toNat) ∧
      x.core.interlocked n (x.lanes f false) = false ∧ ∀ l, x.active l → x.core.spadPoisAt (a l) n = false
    (Issues s g (encM 0x00 f) x → ready → ∃ t, exec (.ld g f) s = .next t ∧ Steps s t g x (x.gr.pc + 8) ∧
      WroteData x.gr (t.groupAt g) d (regsOf f.size) raw) ∧
    (Issues s g (encM 0x01 f) x → ready → ∃ t, exec (.lds g f) s = .next t ∧ Steps s t g x (x.gr.pc + 8) ∧
      (f.size = .b1 → WroteData x.gr (t.groupAt g) d 1 fun l => BitVec.setWidth 128 (((raw l).setWidth 8).signExtend 32)) ∧
      (f.size = .b2 → WroteData x.gr (t.groupAt g) d 1 fun l => BitVec.setWidth 128 (((raw l).setWidth 16).signExtend 32)))

/-- ST to the scratchpad (R57, R64): a byte takes the value of the highest lane that writes it, a byte that no lane writes reads as before,
and no register, no byte of HBM and no other core changes. -/
def Rules.ScratchpadStores : Prop :=
  ∀ (s : State) (g : GroupAt) (f : MF) (x : Ctx), f.spad = true → Issues s g (encM 0x02 f) x → x.memPois f true = false →
    let n := sizeBytes f.size
    let a (l : Nat) := (x.gr.laneAddr f false l).toNat
    let covers (l b : Nat) : Prop := x.active l ∧ a l ≤ b ∧ b < a l + n
    (∀ l, x.active l → a l + n ≤ 64 * x.core.spadUnits.toNat) → x.core.storeHeld n (x.lanes f false) = false →
    ∃ t, exec (.st g f) s = .next t ∧ MemDone s t g x ∧ WroteNone x.gr (t.groupAt g) ∧
      (∀ c, c ≠ g.core → t.core c = s.core c) ∧ (t.core g.core).sb = x.core.sb ∧ (t.core g.core).l1 = x.core.l1 ∧
      (∀ b, (∀ l, ¬covers l b) → (t.core g.core).spadRead b 1 = x.core.spadRead b 1) ∧
      (∀ b l, covers l b → (∀ j, l < j → ¬covers j b) →
        (t.core g.core).spadRead b 1 = [(x.gr.dataOf f.data f.size l).extractLsb' (8 * (b - a l)) 8])

/-- The integer atomics, AXCHG and ACAS on the scratchpad: the value left and the values returned are those of the active lanes run one
after another in ascending order, lane by lane at each address (R64, R173, R174). -/
def Obligations.ScratchpadAtomics : Prop :=
  ∀ (s : State) (g : GroupAt) (f : MF) (x : Ctx) (d : BitVec 8), ∀ p ∈ atomTable g f, f.spad = true → f.data = .v d →
    (f.size = .b4 ∨ f.size = .b8) → Issues s g (encM p.2.1 f) x → x.memPois f true = false →
    (∀ l, x.active l → x.gr.swapPois p.2.1 f l = false) →
    let n := sizeBytes f.size
    let w := 8 * n
    let a (l : Nat) := (x.gr.laneAddr f false l).toNat
    let swap (l : Nat) : BitVec 64 := if f.size = .b8 then x.gr.vreg (d.toNat + 3) l ++ x.gr.vreg (d.toNat + 2) l
      else (x.gr.vreg (d.toNat + 1) l).setWidth 64
    let mem (b : Nat) : BitVec w := ofBytes w (x.core.spadRead b n)
    let run (b : Nat) (ls : List Nat) : BitVec w := ls.foldl (fun o l =>
      if x.gr.exec.getLsbD l = true ∧ a l = b then p.2.2 w o ((x.gr.dataOf f.data f.size l).setWidth w) ((swap l).setWidth w) else o) (mem b)
    (∀ l, x.active l → a l + n ≤ 64 * x.core.spadUnits.toNat ∧ a l % n = 0 ∧ x.core.spadPoisAt (a l) n = false) →
    x.core.storeHeld n (x.lanes f false) = false →
    ∃ t, exec p.1 s = .next t ∧ MemDone s t g x ∧
      WroteData x.gr (t.groupAt g) d (regsOf f.size) (fun l => (run (a l) (List.range l)).setWidth 128) ∧
      (∀ l, x.active l → ofBytes w ((t.core g.core).spadRead (a l) n) = run (a l) (List.range 32)) ∧
      (∀ b, (∀ l, x.active l → b < a l ∨ a l + n ≤ b) → (t.core g.core).spadRead b 1 = x.core.spadRead b 1)

/-- A load retires once it has an answer for every sector it touches: each byte comes from the answer, which has the group's own store-
buffer bytes over the memory's, or from those bytes where they are all that the load needs of the sector and no other group's entry holds
one of them (R62). Where the spec leaves it open, the clauses follow the model's choice: log entries 11, 12. -/
def Rules.LoadsRetire : Prop :=
  ∀ (s : State) (g : GroupAt) (f : MF) (x : Ctx) (d : BitVec 8), f.spad = false → f.data = .v d →
    let n := sizeBytes f.size
    let a (l : Nat) := (x.gr.laneAddr f false l).toNat
    let sec (j : Nat) : BitVec 64 := BitVec.ofNat 64 (32 * (j / 32))
    let need (j : Nat) : BitVec 32 := needOf n (x.lanes f false) (j / 32)
    let own (j : Nat) : SecPart := x.core.own x.g (sec j)
    let byte (j : Nat) : Byte := (match x.core.resOf x.g (sec j) with
      | some u => u.data
      | none => (own j).data).extractLsb' (8 * (j % 32)) 8
    let raw (l : Nat) : BitVec 128 := ofBytes 128 ((List.range n).map fun i => byte (a l + i))
    let ready : Prop := x.memPois f false = false ∧ s.checkLanes x f ⟨false, false, false⟩ = 0 ∧
      s.controlBusy x (x.lanes f false) = false ∧
      ∀ l, x.active l → ∀ i, i < n → (∃ u, x.core.resOf x.g (sec (a l + i)) = some u ∧ u.pois = 0 ∧ u.err = 0) ∨
        x.core.resOf x.g (sec (a l + i)) = none ∧ f.kind ≠ .nw ∧ x.core.foreign x.g (sec (a l + i)) (need (a l + i)) = false ∧
          need (a l + i) &&& ~~~(own (a l + i)).mask = 0 ∧ (own (a l + i)).pois = 0
    (Issues s g (encM 0x00 f) x → ready →
      ∃ t, exec (.ld g f) s = .next t ∧ MemDone s t g x ∧ WroteData x.gr (t.groupAt g) d (regsOf f.size) raw) ∧
    (Issues s g (encM 0x01 f) x → ready → ∃ t, exec (.lds g f) s = .next t ∧ MemDone s t g x ∧
      (f.size = .b1 → WroteData x.gr (t.groupAt g) d 1 fun l => BitVec.setWidth 128 (((raw l).setWidth 8).signExtend 32)) ∧
      (f.size = .b2 → WroteData x.gr (t.groupAt g) d 1 fun l => BitVec.setWidth 128 (((raw l).setWidth 16).signExtend 32)))

/-- A load of one lane that finds its bytes nowhere nearby asks for them and waits with reason MEMORY: RDS for .ca and .cg, UCR for .uc,
the gather queue for .nw, which snoops no cache and takes the bytes that the buffers hold then (R58, R155, R211, R213, R287, R288). Where
the spec leaves it open, the clauses follow the model's choice: log entry 11. -/
def Obligations.LoadsAsk : Prop :=
  ∀ (s : State) (g : GroupAt) (f : MF) (x : Ctx) (l off : Nat), f.spad = false → Issues s g (encM 0x00 f) x → x.gr.exec = 1#32 <<< l →
    l < 32 → x.memPois f false = false → s.checkLanes x f ⟨false, false, false⟩ = 0 →
    placeOf s.mid (BitVec.ofNat 64 (32 * ((x.gr.laneAddr f false l).toNat / 32))) = .hbm off →
    (x.gr.laneAddr f false l).toNat % 32 + sizeBytes f.size ≤ 32 →
    x.core.sb = [] → x.core.ucRes = [] → x.core.ucOut = [] → x.core.l1 = .empty →
    let k := cluOf g.core
    let c := s.clu k
    let line := off / 128
    c.stq = [] → c.line? line = none → c.missOf line = none → c.wb? line = none →
    ∃ t, exec (.ld g f) s = .next t ∧ (t.groupAt g).stall = 3 ∧ (t.groupAt g).pc = x.gr.pc ∧ WroteNone x.gr (t.groupAt g) ∧
      t.mem = s.mem ∧ t.ws = s.ws ∧
      (∀ tag, c.freeTag = some tag →
        let r : Req := ⟨line, .clu k (BitVec.ofNat 5 tag) (c.missEp.get tag 0)⟩
        ((f.kind = .ca ∨ f.kind = .cg) → t.net = s.net ++ [.req .rds r .init] ∧ ((t.clu k).miss.get? tag).isSome = true) ∧
        (f.kind = .uc → t.net = s.net ++ [.req (.ucr false) r { Pay.init with sector := off / 32, core := g.core, grp := g.grp }])) ∧
      (f.kind = .nw → ((s.homeOfLine line).gq.filter fun r => (s.locOf (r.sector / 4)).pc == (s.locOf line).pc).length < 64 →
        t.net = s.net ∧ t.clus = s.clus ∧
        (t.homeOfLine line).gq = (s.homeOfLine line).gq ++ [{
          core := g.core, grp := g.grp, sector := off / 32, serial := (s.homeOfLine line).stackSerial, since := s.tb.now, mask := (s.bufs line).mask, data := (s.bufs line).data,
          pois := (s.bufs line).pois }])

/-- A load from the weight-store window takes the bytes of the weight stores and places nothing in a cache (R66). -/
def Rules.WindowLoads : Prop :=
  ∀ (s : State) (g : GroupAt) (f : MF) (x : Ctx) (d : BitVec 8), f.spad = false → f.data = .v d → Issues s g (encM 0x00 f) x →
    x.memPois f false = false → s.checkLanes x f ⟨false, false, false⟩ = 0 → x.core.sb = [] → x.core.ucRes = [] → x.core.ucOut = [] →
    (∀ p ∈ x.core.l1.entries, 128 * p.2.line < hbmTop) →
    let n := sizeBytes f.size
    let a (l : Nat) := x.gr.laneAddr f false l
    (∀ l, x.active l → ∃ o, placeOf s.mid (a l) = .window o) →
    ∃ t, exec (.ld g f) s = .next t ∧ MemDone s t g x ∧ (t.core g.core).l1 = x.core.l1 ∧ t.net = s.net ∧
      (t.clu (cluOf g.core)).l2 = (s.clu (cluOf g.core)).l2 ∧
      WroteData x.gr (t.groupAt g) d (regsOf f.size)
        (fun l => ofBytes 128 ((List.range n).map fun i => s.ws.read (fieldN (a l) 0 49 - windowBase + i)))

/-- ST to memory enters the store buffer when it has room (R57, R60, R61): the group's buffered bytes of a sector take the value of the
highest lane that writes each, the other bytes and masks stay, and no register and no byte of memory changes yet. Where the spec leaves it
open, the clauses follow the model's choice: log entries 12, 69. -/
def Rules.StoresEnterTheBuffer : Prop :=
  ∀ (s : State) (g : GroupAt) (f : MF) (x : Ctx), f.spad = false → Issues s g (encM 0x02 f) x → x.memPois f true = false →
    s.checkLanes x f ⟨true, false, false⟩ = 0 →
    let n := sizeBytes f.size
    let a (l : Nat) := (x.gr.laneAddr f false l).toNat
    let covers (l b : Nat) : Prop := x.active l ∧ a l ≤ b ∧ b < a l + n
    (∀ l, x.active l → ∀ o, placeOf s.mid (x.gr.laneAddr f false l) ≠ .control o) →
    x.core.sb.length + (sectorsOf n (x.lanes f false)).length ≤ 32 →
    ∃ t, exec (.st g f) s = .next t ∧ MemDone s t g x ∧ WroteNone x.gr (t.groupAt g) ∧ (∀ c, (s.clu c).sameButCounts (t.clu c)) ∧
      t.net = s.net ∧ (t.core g.core).spad = x.core.spad ∧ (t.core g.core).sb.length ≤ 32 ∧
      ∀ q i, i < 32 → q < 2 ^ 59 →
        let before := x.core.own x.g (BitVec.ofNat 64 (32 * q))
        let after := (t.core g.core).own x.g (BitVec.ofNat 64 (32 * q))
        ((∀ l, ¬covers l (32 * q + i)) → after.mask.getLsbD i = before.mask.getLsbD i ∧
          (before.mask.getLsbD i = true → after.data.extractLsb' (8 * i) 8 = before.data.extractLsb' (8 * i) 8)) ∧
        (∀ l, covers l (32 * q + i) → (∀ j, l < j → ¬covers j (32 * q + i)) → after.mask.getLsbD i = true ∧
          after.data.extractLsb' (8 * i) 8 = (x.gr.dataOf f.data f.size l).extractLsb' (8 * (32 * q + i - a l)) 8)

/-- STORE_BUFFER_DRAIN: the oldest entry of the group leaves (R61) when no earlier store of the core to its sector is on its way (R153).
A .uc entry goes to its home as UCW; a .ca or .cg entry of an SCM launch
whose line the slice owns becomes the line's bytes and makes it M (R211); a .ca entry of a BIM launch stays in L1, dirty (R163). No byte of
HBM changes. Where the spec leaves it open, the clauses follow the model's choice: log entry 12. -/
def Rules.StoreBufferDrains : Prop :=
  ∀ (s : State) (g : GroupAt) (e : SbEntry) (off : Nat),
    let c := s.core g.core
    let k := cluOf g.core
    let line := off / 128
    let i := off / 32 % 4
    c.sb.find? (·.grp == g.grp) = some e → (s.clu k).runs = true → placeOf s.mid e.addr = .hbm off →
    s.protectedBy (some (g.core, g.grp)) (· == off / 32) = false → c.storeOut e.addr = false →
    (e.kind = .uc → c.l1Find line = none → (s.clu k).storing line i = false → ∀ tag, (s.clu k).freeTag = some tag → ∃ t, exec (.storeBufferDrain g) s = .next t ∧
      t.mem = s.mem ∧ (t.core g.core).sb = c.sb.filter (·.serial != e.serial) ∧
      t.net = s.net ++ [.req .ucw ⟨line, .clu k (BitVec.ofNat 5 tag) ((s.clu k).missEp.get tag 0)⟩
        { Pay.init with sector := off / 32, mask := e.mask, data := e.data, pois := e.pois, core := g.core, grp := g.grp }]) ∧
    ((e.kind = .cg ∨ e.kind = .ca ∧ c.mode = false) → c.l1Find line = none → holdsOwned (s.clu k) line = true →
      (s.clu k).stq = [] → ∃ t y z, exec (.storeBufferDrain g) s = .next t ∧ t.mem = s.mem ∧ t.net = s.net ∧
        (t.core g.core).sb = c.sb.filter (·.serial != e.serial) ∧ (s.clu k).line? line = some y ∧ (t.clu k).line? line = some z ∧
        z.st = .m ∧ z.data = mergeLine y.data ((e.data.setWidth 1024) <<< (256 * i)) ((e.mask.setWidth 128) <<< (32 * i))) ∧
    (e.kind = .ca → c.mode = true → ∀ way l, c.l1Find line = some way → c.l1.get? way = some l →
      ∃ t y, exec (.storeBufferDrain g) s = .next t ∧ t.mem = s.mem ∧ t.net = s.net ∧
        (t.core g.core).sb = c.sb.filter (·.serial != e.serial) ∧ (t.core g.core).l1.get? way = some y ∧
        y.dirty = l.dirty ||| ((e.mask.setWidth 128) <<< (32 * i)) ∧
        y.data = mergeLine l.data ((e.data.setWidth 1024) <<< (256 * i)) ((e.mask.setWidth 128) <<< (32 * i)))

/-- AFADD, and the other atomics, when every active lane names one address whose line the slice owns: the lanes run in ascending order at
the slice (R172 to R175), the line becomes M and no byte of HBM changes. Where the spec leaves it open, the clauses follow the model's
choice: log entries 11, 12. -/
def Obligations.SliceAtomics : Prop :=
  ∀ (s : State) (g : GroupAt) (f : MF) (x : Ctx) (d : BitVec 8) (a : BitVec 64) (off : Nat) (y : L2Line), f.spad = false →
    f.data = .v d → (f.kind = .ca ∨ f.kind = .cg) → x.memPois f true = false → s.checkLanes x f ⟨true, true, false⟩ = 0 →
    (∀ l, x.active l → x.gr.laneAddr f false l = a) → x.gr.exec ≠ 0 → x.gr.part = [] → placeOf s.mid a = .hbm off →
    let k := cluOf g.core
    let line := off / 128
    let n := sizeBytes f.size
    let v : LineVal := ⟨y.data, y.pois⟩
    x.core.sb = [] → x.core.ucOut = [] → x.core.ucRes = [] → x.core.l1 = .empty → (s.clu k).stq = [] →
    s.protectedBy (some (g.core, g.grp)) (· == off / 32) = false →
    (s.clu k).line? line = some y → (y.st = .m ∨ y.st = .e) → v.poisAt (off % 128) n = false →
    let opnd (l : Nat) : BitVec 64 := (x.gr.dataOf f.data f.size l).setWidth 64
    let left (t : State) (new : BitVec 64) : Prop := ∃ z, (t.clu k).line? line = some z ∧ z.st = .m ∧
      z.data = mergeLine y.data ((new.setWidth 1024) <<< (8 * (off % 128))) (byteMask (off % 128) n)
    (∀ p ∈ atomTable g f, (f.size = .b4 ∨ f.size = .b8) → Issues s g (encM p.2.1 f) x → (∀ l, x.active l → x.gr.swapPois p.2.1 f l = false) →
      let w := 8 * n
      let swap (l : Nat) : BitVec 64 := if f.size = .b8 then x.gr.vreg (d.toNat + 3) l ++ x.gr.vreg (d.toNat + 2) l
        else (x.gr.vreg (d.toNat + 1) l).setWidth 64
      let run (ls : List Nat) : BitVec w := ls.foldl (fun o l =>
        if x.gr.exec.getLsbD l = true then p.2.2 w o ((opnd l).setWidth w) ((swap l).setWidth w) else o) ((v.at (off % 128) n).setWidth w)
      ∃ t, exec p.1 s = .next t ∧ MemDone s t g x ∧
        WroteData x.gr (t.groupAt g) d (regsOf f.size) (fun l => (run (List.range l)).setWidth 128) ∧
        left t ((run (List.range 32)).setWidth 64)) ∧
    (f.size = .b4 → Issues s g (encM 0x1A f) x →
      let old : Word := (v.at (off % 128) 4).setWidth 32
      let add (p q : Word) : Word := toF32 .rn (FVal.add .rn (f32 p) (f32 q))
      let sum (ls : List Nat) : Option Word := ls.foldl (fun o l =>
        if x.gr.exec.getLsbD l = true then some (match o with
          | some q => add q ((opnd l).setWidth 32)
          | none => (opnd l).setWidth 32) else o) none
      let after (ls : List Nat) : Word := match sum ls with
        | some q => add old q
        | none => old
      ∃ t, exec (.afadd g f) s = .next t ∧ MemDone s t g x ∧
        WroteData x.gr (t.groupAt g) d 1 (fun l => (after (List.range l)).setWidth 128) ∧ left t ((after (List.range 32)).setWidth 64))

/-- LDR.cg whose lines the slice owns returns each lane's value and sets its reservation on the 32-byte sector, replacing every earlier
one of the group; the lines are in M from then on (R178, R180, R214). Where the spec leaves it open, the clauses follow the model's
choice: log entry 14. -/
def Rules.ReservedLoads : Prop :=
  ∀ (s : State) (g : GroupAt) (f : MF) (x : Ctx) (d : BitVec 8), f.spad = false → f.kind = .cg → f.data = .v d →
    (f.size = .b4 ∨ f.size = .b8) → Issues s g (encM 0x03 f) x → x.memPois f false = false → s.checkLanes x f ⟨false, false, true⟩ = 0 →
    x.core.sb = [] → x.core.ucOut = [] → x.core.ucRes = [] → x.core.l1 = .empty → x.gr.part = [] →
    (∀ m, s.protectedBy (some (g.core, g.grp)) m = false) →
    let k := cluOf g.core
    let n := sizeBytes f.size
    let a (l : Nat) := x.gr.laneAddr f true l
    (s.clu k).stq = [] →
    ∀ ln : Nat → L2Line, (∀ l, x.active l → ∃ off, placeOf s.mid (a l) = .hbm off ∧ (s.clu k).line? (off / 128) = some (ln l) ∧
      ((ln l).st = .m ∨ (ln l).st = .e) ∧ LineVal.poisAt ⟨(ln l).data, (ln l).pois⟩ (off % 128) n = false) →
    ∃ t, exec (.ldr g f) s = .next t ∧ MemDone s t g x ∧ t.net = s.net ∧
      WroteData x.gr (t.groupAt g) d (regsOf f.size)
        (fun l => ((ln l).data.extractLsb' (8 * (fieldN (a l) 0 49 % 128)) (8 * n)).setWidth 128) ∧
      (∀ l, l < 32 → (t.groupAt g).resv.get? l =
        if x.gr.exec.getLsbD l = true then some { sector := fieldN (a l) 0 49 / 32, kind := f.kind, size := f.size } else none) ∧
      ∀ l, x.active l → ∃ z, (t.clu k).line? (fieldN (a l) 0 49 / 128) = some z ∧ z.st = .m ∧ z.data = (ln l).data

/-- STC.cg whose lines the slice owns: a lane stores when it holds a reservation of its granule set by an LDR of the same kind and size and
no lower lane has stored to that granule, and the success mask goes to the scalar register OFF[17:12] (R149, R179). The group's
reservations are gone (R180). Where the spec leaves it open, the clauses follow the model's choice: log entry 14. -/
def Rules.ConditionalStores : Prop :=
  ∀ (s : State) (g : GroupAt) (f : MF) (x : Ctx), f.spad = false → f.kind = .cg → (f.size = .b4 ∨ f.size = .b8) →
    Issues s g (encM 0x04 f) x → x.memPois f true = false → s.checkLanes x f ⟨true, false, true⟩ = 0 →
    x.core.sb = [] → x.core.ucOut = [] → x.core.ucRes = [] → x.core.l1 = .empty → x.gr.part = [] →
    (∀ m, s.protectedBy (some (g.core, g.grp)) m = false) →
    let k := cluOf g.core
    let n := sizeBytes f.size
    let a (l : Nat) := x.gr.laneAddr f true l
    let sec (l : Nat) : Nat := fieldN (a l) 0 49 / 32
    let holds (l : Nat) : Prop := x.active l ∧ x.gr.resv.get? l = some { sector := sec l, kind := f.kind, size := f.size }
    let stores (l : Nat) : Prop := holds l ∧ ∀ j, j < l → holds j → sec j ≠ sec l
    (s.clu k).stq = [] → (∀ p, x.gr.prot = some p → (s.clu k).held = [] ∧ HomeQuiet s (s.locOf (p.sector / 4)).floe) →
    (∀ l, x.active l → ∃ off, placeOf s.mid (a l) = .hbm off ∧ holdsOwned (s.clu k) (off / 128) = true) →
    ∃ t m, exec (.stc g f) s = .next t ∧ MemDone s t g x ∧ t.net = s.net ∧
      WroteS x.gr (t.groupAt g) (fieldN f.off 12 6) false (BitVec.setWidth 64 (m : Word)) ∧
      (∀ l, l < 32 → (m.getLsbD l = true ↔ stores l)) ∧ (∀ l, (t.groupAt g).resv.get? l = none) ∧
      ∀ l y, stores l → (s.clu k).line? (fieldN (a l) 0 49 / 128) = some y → ∃ z, (t.clu k).line? (fieldN (a l) 0 49 / 128) = some z ∧
        z.st = .m ∧ z.data.extractLsb' (8 * (fieldN (a l) 0 49 % 128)) (8 * n) =
          (x.gr.dataOf f.data f.size l).setWidth (8 * n)

/-- PROTECTION_TIMEOUT ends the protection of the group, and where nothing has waited for it nothing else changes (R182). Where the spec
leaves it open, the clauses follow the model's choice: log entry 14. -/
def Rules.ProtectionEnds : Prop :=
  ∀ (s : State) (g : GroupAt) (gr : Group), (s.core g.core).groups.get? g.grp.toNat = some gr →
    (∀ p, gr.prot = some p → (s.clu (cluOf g.core)).held = [] ∧ HomeQuiet s (s.locOf (p.sector / 4)).floe) →
    ∃ t, exec (.protectionTimeout g) s = .next t ∧ (t.groupAt g).prot = none ∧
      { t.groupAt g with prot := gr.prot } = gr ∧ { t with cores := s.cores } = s ∧ (∀ c, c ≠ g.core → t.core c = s.core c) ∧
      (s.core g.core).sameButGroup (t.core g.core) g.grp.toNat

/-! ### The array -/

/-- A matrix instruction that issues with EXEC other than LMASK stops the kernel with E_MXDIV, and the core abandons every matrix
instruction it has queued (R54, R83). One that finds the queue full waits with reason ARRAY (R79). Where the spec leaves it open, the
clauses follow the model's choice: log entry 16. -/
def Rules.MatrixIssue : Prop :=
  ∀ (s : State) (g : GroupAt) (f : XF) (x : Ctx),
    ∀ p ∈ [(Instr.mxpack g f, encX 0x01 f), (.mxz g f, encX 0x02 f), (.mxop g f, encX 0x03 f), (.mxdrn g f, encX 0x04 f),
        (.mxsync g f, encX 0x05 f)], Issues s g p.2 x →
      (8 ≤ x.core.arr.queue.length → ∃ t, exec p.1 s = .next t ∧ (t.groupAt g).stall = 7 ∧ (t.groupAt g).pc = x.gr.pc ∧
        (t.core g.core).arr = x.core.arr ∧ t.mem = s.mem) ∧
      (x.core.arr.queue.length < 8 → x.gr.exec ≠ x.gr.lmask → ∃ t, exec p.1 s = .next t ∧ (t.core g.core).arr.queue = [] ∧
        (x.core.errSeen = false → (t.core g.core).errCode = 0x0201 ∧ (t.core g.core).epc = x.gr.pc) ∧ t.mem = s.mem ∧
        ∃ la, t.launches.get? x.lid = some la ∧ la.stopping = true)

/-- MXPACK, MXZ, MXOP, MXDRN and MXSYNC on an idle array (R73, R75, R78, R95). MXPACK clears every cell; MXZ sets I to the mode's initial
value and H and F to 0 in its sub-array alone; MXOP of at least one block stands in the queue; MXDRN.FP32 and MXDRN.INT32 write the sub-
array's F or I row by row, and clear its cells under the clear flag. Where the spec leaves it open, the clauses follow the model's choice:
log entry 16. -/
def Rules.MatrixWork : Prop :=
  ∀ (s : State) (g : GroupAt) (f : XF) (x : Ctx),
    let c := x.core
    let sub := subOf c.arr.pack f.sub
    let d := subDim c.arr.pack
    let cell (k : Core) (m n : Nat) : Cell :=
      k.arr.cells.get (32 * ((subOrigin c.arr.pack sub).1 + m) + (subOrigin c.arr.pack sub).2 + n) .init
    let others (k : Core) : Prop := ∀ j, (∀ m n, m < d → n < d →
      j ≠ 32 * ((subOrigin c.arr.pack sub).1 + m) + (subOrigin c.arr.pack sub).2 + n) → k.arr.cells.get j .init = c.arr.cells.get j .init
    let a := (x.gr.sreg f.sa.toNat).toNat
    let b := (x.gr.sreg f.sb.toNat).toNat
    let n := (x.gr.sreg f.sn.toNat).toNat
    let ok (t : State) : Prop := (t.groupAt g).pc = x.gr.pc + 8 ∧ WroteNone x.gr (t.groupAt g) ∧ t.mem = s.mem ∧ t.ws = s.ws ∧
      (∀ k, k ≠ g.core → t.core k = s.core k)
    (Issues s g (encX 0x01 f) x → ArrayIdle x [] → ∃ t, exec (.mxpack g f) s = .next t ∧ ok t ∧
      (∀ j, (t.core g.core).arr.cells.get j .init = .init) ∧
      (t.core g.core).arr.pack = match f.pack with
        | .p1 => 0
        | .p4 => 1
        | .p16 => 2) ∧
    (Issues s g (encX 0x02 f) x → ArrayIdle x [] → ∃ t, exec (.mxz g f) s = .next t ∧ ok t ∧ others (t.core g.core) ∧
      ∀ m n, m < d → n < d → cell (t.core g.core) m n = { cell c m n with i := initOf f.mode, h := 0, f := 0 }) ∧
    (Issues s g (encX 0x03 f) x → ArrayIdle x [f.sa.toNat, f.sb.toNat, f.sn.toNat] → 0 < n → a % 32 = 0 → b % 32 = 0 →
      a + n * blockBytes f.mode f.afmt d ≤ (if f.ascr then 64 * c.spadUnits.toNat else 0x40000) →
      b + n * blockBytes f.mode f.bfmt d ≤ 64 * c.spadUnits.toNat → ∃ t, exec (.mxop g f) s = .next t ∧ ok t ∧
        (t.core g.core).arr = { c.arr with queue := [⟨g.grp, x.gr.pc, sub, .op f.mode f.afmt f.bfmt f.ascr a b n, 0, c.putSerial⟩] }) ∧
    (Issues s g (encX 0x04 f) x → ArrayIdle x [f.sb.toNat] → (f.dfmt = .fp32 ∨ f.dfmt = .int32) → b % 32 = 0 →
      b + d * d * 4 ≤ 64 * c.spadUnits.toNat → ∃ t, exec (.mxdrn g f) s = .next t ∧ ok t ∧ others (t.core g.core) ∧
        ∀ m n, m < d → n < d →
          ofBytes 32 ((t.core g.core).spadRead (b + 4 * (d * m + n)) 4) = (if f.dfmt = .fp32 then (cell c m n).f else (cell c m n).i) ∧
          cell (t.core g.core) m n = if f.clr then { cell c m n with i := 0, h := 0, f := 0 } else cell c m n) ∧
    (Issues s g (encX 0x05 f) x → ArrayIdle x [] → ∃ t, exec (.mxsync g f) s = .next t ∧ ok t ∧ (t.core g.core).arr = c.arr)

/-- K_BLOCK_END of an MMA of INT8 operands from the scratchpad (R76, R77, R92): every cell of the sub-array adds its 32 products modulo
2^32, no other cell changes, the instruction moves on by one block, and MX_STEPS counts 32 weighted steps (R101). Where the spec leaves it
open, the clauses follow the model's choice: log entry 16. -/
def Rules.KBlockEnds : Prop :=
  ∀ (s : State) (core : CoreId) (sub : BitVec 4) (e : MxEntry) (aAddr bAddr left : Nat),
    let c := s.core core
    let d := subDim c.arr.pack
    let el (base j k : Nat) : BitVec 32 := BitVec.signExtend 32 (ofBytes 8 (c.spadRead (base + k * d + j) 1))
    let at_ (m n : Nat) : Nat := 32 * ((subOrigin c.arr.pack sub.toNat).1 + m) + (subOrigin c.arr.pack sub.toNat).2 + n
    (s.clu (cluOf core)).runs = true → c.arr.folds = [] → c.arr.queue = [e] → e.sub = sub.toNat →
    e.work = .op .mma .int8 .int8 true aAddr bAddr left → 1 < left →
    c.spadPoisAt aAddr (32 * d) = false → c.spadPoisAt bAddr (32 * d) = false → sub.toNat < (32 / d) ^ 2 →
    ∃ t, exec (.kBlockEnd core sub) s = .next t ∧ t.mem = s.mem ∧ t.ws = s.ws ∧ (∀ k, k ≠ core → t.core k = s.core k) ∧
      (t.core core).arr.queue = [{ e with
        work := .op .mma .int8 .int8 true (aAddr + 32 * d) (bAddr + 32 * d) (left - 1), ran := e.ran + 1 }] ∧
      (t.core core).arr.steps = c.arr.steps + BitVec.ofNat 64 (32 * (if c.arr.pack = 0 then 16 else if c.arr.pack = 1 then 4 else 1)) ∧
      (∀ m n, m < d → n < d → (t.core core).arr.cells.get (at_ m n) .init =
        { c.arr.cells.get (at_ m n) .init with
          i := (List.range 32).foldl (fun v k => v + el aAddr m k * el bAddr n k) (c.arr.cells.get (at_ m n) .init).i }) ∧
      (∀ j, (∀ m n, m < d → n < d → j ≠ at_ m n) → (t.core core).arr.cells.get j .init = c.arr.cells.get j .init)

/-- SCALE_FOLD: every cell of the first waiting sub-array takes F ← RN(F + H × 2^(λ + (sa − 127) + (sb − 127))), formed exactly and
rounded once, or the sum with its infinity or NaN when its special state is not none, which the fold clears (R89, R90). Where the spec
leaves it open, the clauses follow the model's choice: log entry 16. -/
def Rules.ScaleFolds : Prop :=
  ∀ (s : State) (core : CoreId) (j : FoldJob) (rest : List FoldJob),
    let c := s.core core
    let d := subDim c.arr.pack
    let at_ (m n : Nat) : Nat := 32 * ((subOrigin c.arr.pack j.sub).1 + m) + (subOrigin c.arr.pack j.sub).2 + n
    let ex (m n : Nat) : Int := j.lam + ((j.sa.getD m 0).toNat - 127) + ((j.sb.getD n 0).toNat - 127)
    (s.clu (cluOf core)).runs = true → c.arr.folds = j :: rest → c.arr.queue = [] → c.puts = [] →
    ∃ t, exec (.scaleFold core) s = .next t ∧ { t with cores := s.cores } = s ∧ (∀ k, k ≠ core → t.core k = s.core k) ∧
      (t.core core).arr.folds = rest ∧ (t.core core).spad = c.spad ∧
      (∀ m n, m < d → n < d → j.sub < (32 / d) ^ 2 →
        let old := c.arr.cells.get (at_ m n) .init
        (t.core core).arr.cells.get (at_ m n) .init = { old with
          sp := .none
          f := toF32 .rn (FVal.add .rn (f32 old.f) (match old.sp with
            | .none => .fin (decide (old.h.toInt < 0)) old.h.toInt.natAbs (ex m n)
            | .pinf => .inf false
            | .ninf => .inf true
            | .nan => .nan)) })

/-! ### Fences and barriers -/

/-- FENCE retires once the release part of its scope is done, ends merging in the store buffer and the group's reservations, and an
acquire at .clu or wider empties an SCM core's L1; until then the group waits with reason FENCE, or SBUF while its oldest store waits for
a miss entry (R61, R158, R159, R162, R180, R190). It completes whenever it neither waits nor finds a lost store: every form of FENCE does
so in some state. Under .sys a remote store that has failed stops the kernel with the code that ended it: E_LINKDOWN where no answer came
or no member of the route is up (R267), E_XLATE where the home refused it. Where the spec leaves it open, the clauses follow the model's
choice: log entries 28, 70. -/
def Obligations.Fences : Prop :=
  ∀ (s : State) (g : GroupAt) (f : YF) (x : Ctx), Issues s g (encY 0x01 f) x →
    let m := x.gr.fenceMark.getD x.core.sbSerial
    let c := x.core
    let buffered : Prop := ∃ e ∈ c.sb, e.serial < m ∧ (f.scope = .blk → e.grp = g.grp)
    let home : Prop := ∃ o ∈ c.ucOut, o.store = true ∧ o.serial < m ∧ (f.scope = .sys ∨ s.remoteAddr o.addr = false)
    let perf : Prop := ∃ e ∈ (s.clu (cluOf g.core)).stq, e.core = g.core ∧ e.serial < m
    let waits : Prop := f.ord ≠ .acq ∧ (match f.scope with
      | .grp => False
      | .blk => buffered
      | .clu => buffered ∨ home
      | _ => buffered ∨ home ∨ perf)
    let lost : Prop := f.ord ≠ .acq ∧ f.scope = .sys ∧ x.gr.lostStore = true
    (waits → ∃ t, exec (.fence g f) s = .next t ∧ (t.groupAt g).stall = (if s.drainHeld g.core g.grp then 5 else 8) ∧
      (t.groupAt g).pc = x.gr.pc ∧ t.mem = s.mem) ∧
    (¬waits → lost → ∃ t, exec (.fence g f) s = .next t ∧ KernelStop s t x x.gr.lostCode) ∧
    (¬waits → lost → x.gr.lostCode = 0x0402 → ∃ t, exec (.fence g f) s = .next t ∧ KernelStop s t x 0x0402) ∧
    (¬waits → ¬lost → ∃ t, exec (.fence g f) s = .next t ∧ (t.groupAt g).pc = x.gr.pc + 8 ∧ (t.groupAt g).fences = x.gr.fences + 1 ∧
      (t.groupAt g).resv = .empty ∧ WroteNone x.gr (t.groupAt g) ∧ t.mem = s.mem ∧ (∀ k, (s.clu k).sameButCounts (t.clu k)) ∧
      (t.core g.core).sb = c.sb ∧
      (t.core g.core).l1 = if f.ord ≠ .rel ∧ c.mode = false ∧ (f.scope = .clu ∨ f.scope = .dev ∨ f.scope = .sys) then .empty else c.l1)

/-- A group whose stores are performed arrives at its barrier and waits there with reason BARRIER; BAR.sys names a set BARRIER descriptor
that has the core as a contributor (R170, R246). Where the spec leaves it open, the clauses follow the model's choice: log entry 28. -/
def Rules.BarrierArrivals : Prop :=
  ∀ (s : State) (g : GroupAt) (f : YF) (x : Ctx), x.core.sb = [] → x.core.ucOut = [] → (s.clu (cluOf g.core)).stq = [] →
    x.gr.lostStore = false →
    let waits (i : Instr) (w : Wait) : Prop := ∃ t, exec i s = .next t ∧ (t.groupAt g).wait = w ∧ (t.groupAt g).stall = 9 ∧
      (t.groupAt g).pc = x.gr.pc ∧ (t.groupAt g).resv = .empty ∧ WroteNone x.gr (t.groupAt g) ∧ t.mem = s.mem ∧
      (∀ k, k ≠ g.core → t.core k = s.core k)
    (Issues s g (encBar 0x02 f false) x → waits (.barCore g f) .barCore) ∧
    (Issues s g (encBar 0x03 f false) x → waits (.barClu g f) .barClu) ∧
    (∀ d, s.descs.get? f.desc.toNat = some d → d.owner = 0 → d.isBarrier = true →
      (contributor (s.members d 0 d.layer) g.core s.mid).isSome = true → Issues s g (encBar 0x04 f true) x →
      waits (.barSys g f) (.barSys f.desc))

/-- BARRIER_RELEASE of BAR.core: with a group that has neither finished nor arrived nothing changes; once every group has, each waiting
group goes on at the next instruction with its registers as they were (R170, R171). Where the spec leaves it open, the clauses follow the
model's choice: log entry 46. -/
def Rules.BarrierReleases : Prop :=
  ∀ (s : State) (core : CoreId) (l : Nat),
    let c := s.core core
    c.launch = some l → c.started = true →
    ((∃ e ∈ c.groups.entries, e.2.fin = false ∧ e.2.wait ≠ .barCore) → exec (.barrierRelease (.core core)) s = .next s) ∧
    ((∀ e ∈ c.groups.entries, e.2.fin = true ∨ e.2.wait = .barCore) → c.groups.keys.Nodup → (∀ k ∈ c.groups.keys, k < 16) →
      ∃ t, exec (.barrierRelease (.core core)) s = .next t ∧ t.mem = s.mem ∧ t.descs = s.descs ∧ (∀ k, k ≠ core → t.core k = s.core k) ∧
        ∀ n gr, c.groups.get? n = some gr → ∃ h, (t.core core).groups.get? n = some h ∧ WroteNone gr h ∧
          (gr.fin = true → h = gr) ∧ (gr.fin = false → h.wait = .run ∧ h.pc = gr.pc + 8))

/-! ### The firn -/

/-- FNPUT counts the core's contribution to the current round and retires; with no matrix instruction ahead of it its range is read at once,
and where the contribution is first combined on this module it leaves as an UP flit with the descriptor's EPOCH and that round's number
(R234, R235). Where the spec leaves it open, the clauses follow the model's choice: log entries 25, 64. -/
def Obligations.Contributions : Prop :=
  ∀ (s : State) (g : GroupAt) (f : FF) (x : Ctx) (d : Desc) (rowg : BitVec 16) (i : Nat) (bk : Bool), Issues s g (encF 0x01 f) x →
    let a := (x.gr.sreg f.sreg.toNat).toNat
    let n := d.put_.get g.core.toNat 0
    let ms := s.members d rowg x.la.layer
    x.gr.spois.contains f.sreg.toNat = false → s.descs.get? f.desc.toNat = some d → d.owner = 0 → d.isBarrier = false →
    s.rowgOf d g.core x.la.layer = some rowg → contributor ms g.core s.mid = some (i, bk) → a % 32 = 0 → a + d.inBytes ≤ 64 * x.core.spadUnits.toNat → d.pend = false → x.core.arr.queue = [] → x.core.puts = [] →
    (n = 0 ∨ s.completedAt f.desc d rowg (n - 1) (cluOf g.core) = true) →
    (s.combineAt d rowg x.la.layer ms 0 i = ⟨s.mid, cluOf g.core⟩ →
      s.stageFull f.desc d rowg x.la.layer n ms 0 i (List.replicate d.inBytes 0#8) = false) →
    ∃ t, exec (.fnput g f) s = .next t ∧ (t.groupAt g).pc = x.gr.pc + 8 ∧ WroteNone x.gr (t.groupAt g) ∧ t.mem = s.mem ∧
      (∀ k, k ≠ g.core → t.core k = s.core k) ∧
      (t.core g.core).puts = [] ∧ (∃ e, t.descs.get? f.desc.toNat = some e ∧ e.put_.get g.core.toNat 0 = n + 1) ∧
      ((s.combineAt d rowg x.la.layer ms 0 i).mod_ = s.mid →
        t.fnet = s.fnet ++ [⟨⟨f.desc, rowg, s.descEp.get f.desc.toNat 0, BitVec.ofNat 8 n, 0, i, bk⟩,
          x.core.spadRead a d.inBytes, x.core.spadPoisAt a d.inBytes, x.la.layer, cluOf g.core⟩] ∧
        ∃ e, t.descs.get? f.desc.toNat = some e ∧ e.rounds = d.rounds)

/-- FNGET of a result delivered to contributors writes the round's bytes to the scratchpad and takes the round; before the round has
completed at the core's router the group waits with reason BARRIER, unless what the round still needs can no longer arrive, which stops
the kernel with E_LINKDOWN. FNTEST says whether FNGET would wait (R152, R237, R245). Where the spec leaves it open, the clauses follow the
model's choice: log entry 26. -/
def Rules.Results : Prop :=
  ∀ (s : State) (g : GroupAt) (f : FF) (x : Ctx) (d : Desc) (rowg : BitVec 16),
    let a := (x.gr.sreg f.sreg.toNat).toNat
    let n := d.taken.get g.core.toNat 0
    s.descs.get? f.desc.toNat = some d → d.owner = 0 → d.isBarrier = false → d.deliv ≠ 1 → d.deliv ≠ 2 → d.pend = false → d.lost = [] →
    s.rowgOf d g.core x.la.layer = some rowg → (s.readers d rowg x.la.layer).contains g.core = true →
    (Issues s g (encF 0x02 f) x → x.gr.spois.contains f.sreg.toNat = false → a % 32 = 0 → a + d.outBytes ≤ 64 * x.core.spadUnits.toNat →
      (d.resultAt rowg n (cluOf g.core) = none → s.cutOff d x.la.layer n = false → ∃ t, exec (.fnget g f) s = .next t ∧
        (t.groupAt g).stall = 9 ∧ (t.groupAt g).pc = x.gr.pc ∧ t.descs = s.descs ∧ t.mem = s.mem) ∧
      (d.resultAt rowg n (cluOf g.core) = none → s.cutOff d x.la.layer n = true → ∃ t, exec (.fnget g f) s = .next t ∧
        KernelStop s t x 0x0402) ∧
      (∀ r, d.resultAt rowg n (cluOf g.core) = some r → r.poisAt (.router (cluOf g.core)) = false → r.data.length = d.outBytes →
        x.core.arr.queue = [] → x.core.puts = [] →
        ∃ t, exec (.fnget g f) s = .next t ∧ (t.groupAt g).pc = x.gr.pc + 8 ∧ WroteNone x.gr (t.groupAt g) ∧ t.mem = s.mem ∧
          (t.core g.core).spadRead a d.outBytes = r.data ∧
          ∃ e, t.descs.get? f.desc.toNat = some e ∧ e.taken.get g.core.toNat 0 = n + 1)) ∧
    (Issues s g (encF 0x03 f) x → ∃ t v, exec (.fntest g f) s = .next t ∧ Steps s t g x (x.gr.pc + 8) ∧
      WroteS x.gr (t.groupAt g) f.sreg.toNat false v ∧ 
        (v = if (d.resultAt rowg n (cluOf g.core)).isSome || s.cutOff d x.la.layer n then 1 else 0))

/-- UP: a flit of another EPOCH, or whose ROUND is neither the open round nor the next, is dropped and counted in FN_STALE (R236). The
second of two contributions to an ADD of FP32 is combined with the first where both meet, the contribution of the lower index on the left,
whichever came first. At the root's router that completes the round, and every reader's router gets a flit with the sum, unless a reader
has not taken the round two before it, which holds the round open (R235, R245); elsewhere the sum goes on to the root as an UP flit (R227,
R237, R238, R244, R269). A link between routers may poison what it carries, and nothing else does (R370). Where the spec leaves it open,
the clauses follow the model's choice: log entries 25, 26. -/
def Obligations.Reductions : Prop :=
  ∀ (s : State) (u : UpHdr) (m : UpMsg) (d : Desc), s.fnet.find? (fun y => y.h == u) = some m → s.descs.get? u.desc.toNat = some d →
    d.pend = false →
    let n := d.round.get u.rowg.toNat 0
    let ms := s.members d u.rowg m.layer
    let c := s.countPlace u.desc d u.rowg m.layer ms u.level u.pos
    ((u.epoch ≠ s.descEp.get u.desc.toNat 0 ∨ u.round ≠ BitVec.ofNat 8 n ∧ u.round ≠ BitVec.ofNat 8 (n + 1) ∧ d.keptPart m = none) →
      ∃ t, exec (.up u) s = .next t ∧ t.fnet = s.fnet.erase m ∧ t.descs = s.descs ∧ t.mem = s.mem ∧ t.cores = s.cores ∧
        (t.rtr c).stale = satAdd (s.rtr c).stale 1) ∧
    (u.epoch = s.descEp.get u.desc.toNat 0 → u.round = BitVec.ofNat 8 n → u.level = 0 → u.pos < 2 → d.ao = false → d.op = 0 → d.infmt = 0 →
      d.rootx = 0 → d.outfmt = 0 → s.rootHere d = true → ms.length = 2 → (∀ i, i < 2 → modAt ms i = s.mid) →
      ∀ r q, d.rounds.find? (fun y => y.rowg == u.rowg && y.num == n) = some r → r.layer = m.layer →
        r.partAt 0 (1 - u.pos) = some q → r.partAt 0 u.pos = none → r.usedAt 0 u.pos = none → r.partAt 1 0 = none →
        let mine := (allWords m.data).map canon
        let other := allWords q.data
        let sum := List.zipWith (fun a b => toF32 .rn (FVal.add .rn (f32 a) (f32 b)))
          (if u.pos = 0 then mine else other) (if u.pos = 0 then other else mine)
        let tagged (p : Bool) : Prop := ((m.pois || q.pois) = true → p = true) ∧ (m.src = cluAt ms 0 → p = (m.pois || q.pois))
        (s.rootClu d u.rowg m.layer = cluAt ms 0 →
          (∀ k ∈ s.readers d u.rowg m.layer, n < d.taken.get k.toNat 0 + 2) →
          (∀ y ∈ s.dnet, y.h.desc = u.desc → y.h.rowg = u.rowg → y.h.epoch = u.epoch → n ≤ y.num) →
          ∃ t, exec (.up u) s = .next t ∧ t.mem = s.mem ∧ t.cores = s.cores ∧
            ∀ k ∈ s.readerClus d u.rowg m.layer, ∃ y ∈ t.dnet, y.h = ⟨u.desc, u.rowg, u.epoch, BitVec.ofNat 8 n, .router k⟩ ∧
              y.data = unwords sum ∧ tagged y.pois) ∧
        (s.rootClu d u.rowg m.layer = cluAt ms 0 → d.isBarrier = false →
          (∃ k ∈ s.readers d u.rowg m.layer, s.canTake d k = true ∧ d.taken.get k.toNat 0 + 2 ≤ n) →
          ∃ t e, exec (.up u) s = .next t ∧ t.mem = s.mem ∧ t.dnet = s.dnet ∧ t.descs.get? u.desc.toNat = some e ∧
            e.round.get u.rowg.toNat 0 = n) ∧
        (s.rootClu d u.rowg m.layer ≠ cluAt ms 0 →
          ∃ t p, exec (.up u) s = .next t ∧ t.mem = s.mem ∧ t.cores = s.cores ∧ t.dnet = s.dnet ∧ tagged p ∧
            t.fnet = s.fnet.erase m ++ [⟨⟨u.desc, u.rowg, u.epoch, BitVec.ofNat 8 n, 1, 0, false⟩, unwords sum, p, m.layer, cluAt ms 0⟩]))

/-- Under FO the value of a round is the tree of its contributions in contributor order, whatever the order they came in: level by level
each pair becomes its combine with the lower index on the left, and an odd last value passes up unchanged (R238, R239). Where the spec
leaves it open, the clauses follow the model's choice: log entry 25. -/
def Obligations.FixedOrderTree : Prop :=
  ∀ (d : Desc) (vals : List FnVal) (order : List Nat), d.ao = false → vals ≠ [] → vals.length ≤ 2 ^ 24 →
    order.Perm (List.range vals.length) →
    let r := order.foldl (fun r i => (d.join vals.length (fun _ _ => true) 40 r 0 i (vals.getD i ⟨[], false⟩)).1) .init
    ∃ v, r.total d vals.length = some v ∧
      ∀ k, 2 ^ k ≥ vals.length → treeUp (fun a b => ⟨d.combine a.words b.words, a.pois || b.pois⟩) k vals = [v]

/-- DN at a reader's router is always consumed (R226). It marks the round's result there with its bytes; a flit of another EPOCH, or of a
round that has no result here, is dropped and counted (R236, R244, R245). Where the spec leaves it open, the clauses follow the model's
choice: log entries 26, 27, 64. -/
def Rules.Deliveries : Prop :=
  ∀ (s : State) (h : DnHdr) (m : DnMsg) (d : Desc) (c : Clu), s.dnet.find? (fun y => y.h == h) = some m →
    s.descs.get? h.desc.toNat = some d → h.dst = .router c →
    ((h.epoch ≠ s.descEp.get h.desc.toNat 0 ∨ ∀ r ∈ d.results, r.rowg ≠ h.rowg ∨ r.num ≠ m.num) →
      ∃ t, exec (.dn h) s = .next t ∧ t.dnet = s.dnet.erase m ∧ t.descs = s.descs ∧ t.mem = s.mem ∧ t.cores = s.cores ∧
        (t.rtr c).stale = satAdd (s.rtr c).stale 1) ∧
    (h.epoch = s.descEp.get h.desc.toNat 0 →
      ∀ r ∈ d.results, r.rowg = h.rowg → r.num = m.num →
        (∃ k ∈ s.readers d r.rowg r.layer, d.taken.get k.toNat 0 ≤ r.num) →
        ∃ t e y, exec (.dn h) s = .next t ∧ t.mem = s.mem ∧ t.cores = s.cores ∧ t.descs.get? h.desc.toNat = some e ∧ y ∈ e.results ∧
          y.at_ = r.at_ ++ [.router c] ∧ { y with at_ := r.at_, bad := r.bad } = r ∧ (y.bad = r.bad ∨ y.bad = r.bad ++ [.router c]))

/-! ### Coherence -/

/-- RDS, RDX, UPG and RDZ on a line at rest. When the directory cache misses, the entry is read first (R198). Otherwise the directory
answers as R212 says: from UNC the home's data, from the eviction buffer or once it is read, or ownership; from OWN a forward to the
owner; from SHR data, or invalidations of the other sharers; from SHC one multicast for each marked column (R200). No core and no slice
changes. Where the spec leaves it open, the clauses follow the model's choice: log entries 17, 18, 66, 67. -/
def Obligations.RequestsAtTheHome : Prop :=
  ∀ (s : State) (line : Nat) (k : Clu) (tag : BitVec 5) (ep : BitVec 8) (pay : Pay) (rest : List Msg), LineRests s line →
    let r : Req := ⟨line, .clu k tag ep⟩
    let h := s.homeOfLine line
    let e := s.dirOf line
    let f := (s.locOf line).floe
    let run (i : Instr) (P : State → Prop) : Prop := ∃ t, exec i s = .next t ∧ t.cores = s.cores ∧ t.ws = s.ws ∧ t.clus = s.clus ∧ P t
    let comes (kd : ReqKind) : Prop := Arrives s (isReq (· == kd) r) (.req kd r pay) line rest
    let reads (t : State) (kd : ReqKind) (w : TxnWait) : Prop := t.net = rest ∧ t.opened line kd r.who w ∧ t.mem = s.mem ∧
      ∃ q, (t.homeOfLine line).rq = h.rq ++ [q] ∧ q.line = line ∧ q.serial = h.stackSerial
    let has : Prop := (h.cached line).isSome = true
    let kinds := [(Instr.rds r, ReqKind.rds), (.rdx r, .rdx), (.upg r, .upg), (.rdz r, .rdz)]
    (∀ i kd, (i, kd) ∈ kinds → comes kd → h.cached line = none → run i fun t => reads t kd .dir) ∧
    (comes .rds → has →
      (e.dst = .unc → h.evFind line = none → run (.rds r) fun t => reads t .rds .read) ∧
      (e.dst = .unc → ∀ x, h.evFind line = some x → run (.rds r) fun t =>
        t.net = rest ++ [.data r .e x.data x.pois] ∧ t.owned line k ∧ t.opened line .rds r.who .cmp) ∧
      (e.dst = .own → run (.rds r) fun t => t.net = rest ++ [.fwd .fwdS line e.p0 r f] ∧ t.dirOf line = e ∧ t.opened line .rds r.who .cmp) ∧
      (e.dst = .shr → h.evFind line = none → run (.rds r) fun t => reads t .rds .read) ∧
      (e.dst = .shr → k ∉ e.sharers → e.sharers.length < 3 → ∀ x, h.evFind line = some x → run (.rds r) fun t =>
        t.net = rest ++ [.data r .s x.data x.pois] ∧ (t.dirOf line).dst = .shr ∧ (t.dirOf line).sharers = e.sharers ++ [k]) ∧
      (e.dst = .shr → k ∉ e.sharers → e.sharers.length = 3 → ∀ x, h.evFind line = some x → run (.rds r) fun t =>
        t.net = rest ++ [.data r .s x.data x.pois] ∧ (t.dirOf line).dst = .shc ∧
          ∀ c ∈ k :: e.sharers, (t.dirOf line).coarse.getLsbD (colOf c) = true)) ∧
    (comes .rdx → has →
      (e.dst = .unc → h.evFind line = none → run (.rdx r) fun t => reads t .rdx .read) ∧
      (e.dst = .unc → ∀ x, h.evFind line = some x → run (.rdx r) fun t => t.net = rest ++ [.data r .m x.data x.pois] ∧ t.owned line k) ∧
      (e.dst = .own → e.p0 ≠ k → run (.rdx r) fun t => t.net = rest ++ [.fwd .fwdX line e.p0 r f] ∧ t.owned line k) ∧
      (e.dst = .shr → e.sharers.filter (· != k) ≠ [] → run (.rdx r) fun t =>
        t.net = rest ++ (e.sharers.filter (· != k)).map (fun c => .inv line c f) ∧ t.dirOf line = e ∧ t.opened line .rdx r.who .acks) ∧
      (e.dst = .shc → e.coarse ≠ 0 → run (.rdx r) fun t =>
        t.net = rest ++ e.columns.map (fun c => .invCol line c [k] f) ∧ t.dirOf line = e ∧ t.opened line .rdx r.who .acks ∧
          ∃ x, (t.homeOfLine line).txn? line = some x ∧ x.acks = 1024 * e.columns.length)) ∧
    (comes .upg → has → s.hasCopy r.who line = true →
      (e.dst = .shr → e.sharers = [k] → run (.upg r) fun t => t.net = rest ++ [.grant r] ∧ t.owned line k) ∧
      (e.dst = .ows → e.p0 ≠ k → e.sharers.filter (fun c => c != k && c != e.p0) = [] → run (.upg r) fun t =>
        t.net = rest ++ [.fwd .fwdX line e.p0 r f] ∧ t.owned line k)) ∧
    (comes .rdz → has →
      (e.dst = .unc ∨ e.dst = .own ∧ e.p0 = k → run (.rdz r) fun t => t.net = rest ++ [.grant r] ∧ t.owned line k) ∧
      (e.dst = .own → e.p0 ≠ k → run (.rdz r) fun t => t.net = rest ++ [.inv line e.p0 f] ∧ t.dirOf line = e ∧
        t.opened line .rdz r.who .acks))

/-- UCR, UCW and UCA on a line at rest that no slice owns or shares, with its directory entry in the cache, are performed at the home: a
UCW at once, a UCR and a UCA from the eviction buffer or once the line is read. A UCR answers with its sector of the home's view, a UCW
merges its bytes, and a UCA leaves the combine of its old value and answers with the old one (R205, R208, R212 to R214). Where the spec
leaves it open, the clauses follow the model's choice: log entries 17, 19, 66, 67. -/
def Obligations.UncachedAtTheHome : Prop :=
  ∀ (s : State) (r : Req) (pay : Pay) (rest : List Msg), LineRests s r.line → (s.dirOf r.line).dst = .unc →
    ((s.homeOfLine r.line).cached r.line).isSome = true →
    s.protectedBy pay.owner (· == pay.sector) = false →
    let h := s.homeOfLine r.line
    h.refusedBefore r h.nackSerial = false →
    let v := s.view r.line
    let i := pay.sector % 4
    let lo := pay.addr % 128
    let comes (p : ReqKind → Bool) (kd : ReqKind) : Prop := Arrives s (isReq p r) (.req kd r pay) r.line rest
    let reads (t : State) (kd : ReqKind) : Prop := t.net = rest ∧ t.opened r.line kd r.who .read ∧ t.mem = s.mem ∧
      ∃ q, (t.homeOfLine r.line).rq = h.rq ++ [q] ∧ q.line = r.line
    (comes isUcr (.ucr false) →
      (h.evFind r.line = none → ∃ t, exec (.ucr r) s = .next t ∧ t.cores = s.cores ∧ reads t (.ucr false)) ∧
      (∀ x, h.evFind r.line = some x → ∃ t, exec (.ucr r) s = .next t ∧ t.cores = s.cores ∧ (t.view r.line).data = v.data ∧
        (t.homeOfLine r.line).txn? r.line = none ∧
        t.net = rest ++ [.ucdone r (x.data.extractLsb' (256 * i) 256) (x.pois.extractLsb' (8 * i) 8) true 2 0])) ∧
    (comes (· == .ucw) .ucw → ∃ t, exec (.ucw r) s = .next t ∧ t.net = rest ++ [.ucdone r 0 0 true 0 0] ∧
      (t.view r.line).data = mergeLine v.data ((pay.data.setWidth 1024) <<< (256 * i)) ((pay.mask.setWidth 128) <<< (32 * i)) ∧
      (t.homeOfLine r.line).txn? r.line = none ∧ (t.dirOf r.line).dst = .unc) ∧
    (∀ op sz, comes isUca (.uca op sz) → op ≠ 0x04 →
      (h.evFind r.line = none → ∃ t, exec (.uca r) s = .next t ∧ t.cores = s.cores ∧ reads t (.uca op sz)) ∧
      (∀ x, h.evFind r.line = some x → LineVal.poisAt ⟨x.data, x.pois⟩ lo (sizeBytes sz) = false →
        let old := LineVal.at ⟨x.data, x.pois⟩ lo (sizeBytes sz)
        let new := atomicNew op sz old (pay.data.setWidth 64) ((pay.data >>> 64).setWidth 64)
        ∃ t, exec (.uca r) s = .next t ∧ t.net = rest ++ [.ucdone r (old.setWidth 256) 0 true 1 0] ∧
          (t.view r.line).data = mergeLine v.data ((new.setWidth 1024) <<< (8 * lo)) (byteMask lo (sizeBytes sz))))

/-- A request on a line with an open transaction is refused with a NACK and a reserved slot; the slice answers a NACK with RTY; an RTY
with a valid credit waits in its slot while the line is busy and is served when it is not; one with a stale epoch is dropped and counted
(R203, R206, R207). Where the spec leaves it open, the clauses follow the model's choice: log entry 18. -/
def Obligations.Refusals : Prop :=
  ∀ (s : State) (r : Req) (rest : List Msg),
    let h := s.homeOfLine r.line
    let f := (s.locOf r.line).floe
    let nacked (y : Msg) : Bool := match y with
      | .nack q _ _ _ _ => q == r
      | _ => false
    (∀ kind pay n x, Arrives s (isReq (· == kind) r) (.req kind r pay) r.line rest → s.lineOk r.line = true → s.fe.rstBusy = false → h.txn? r.line = some x →
      h.txns.length < 256 → s.protectsUc r.line = false → h.freeSlot = some n →
      ∀ i, (i, kind) ∈ [(Instr.rds r, ReqKind.rds), (.rdx r, .rdx), (.upg r, .upg), (.rdz r, .rdz)] →
        ∃ t, exec i s = .next t ∧ t.net = rest ++ [.nack r f n (h.slots.get n .init).ep false] ∧ t.mem = s.mem ∧
          ((t.homeOfLine r.line).slots.get n .init).used = true ∧ ((t.homeOfLine r.line).slots.get n .init).req = r ∧
          (t.homeOfLine r.line).nacks = h.nacks + 1 ∧ (t.homeOfLine r.line).txns = h.txns) ∧
    (∀ k tag ep n e, r.who = .clu k tag ep →
      (∀ m, InFlight s nacked (.nack r f n e false) rest → (s.clu k).missAt tag ep = some m → m.fill = none →
        ∃ t, exec (.nack r) s = .next t ∧ t.net = rest ++ [.rty f n e m.kind r] ∧ t.mem = s.mem ∧ t.homes = s.homes ∧
          (t.clu k).miss.get? tag.toNat = some { m with credit := true }) ∧
      (∀ w, InFlight s nacked (.nack r f n e true) rest → (s.clu k).wb? r.line = some w →
        ∃ t kd, exec (.nack r) s = .next t ∧ t.net = rest ++ [.rty f n e kd r] ∧ t.mem = s.mem ∧ t.homes = s.homes ∧
          (t.clu k).wbuf = (s.clu k).wbuf) ∧
      (InFlight s nacked (.nack r f n e false) rest → (s.clu k).missAt tag ep = none →
        ∃ t, exec (.nack r) s = .next t ∧ t.net = rest ∧ t.homes = s.homes ∧ (t.clu k).stale = satAdd (s.clu k).stale 1)) ∧
    (∀ (n : BitVec 10) (e : BitVec 8) (kd : ReqKind) (q : Req),
      let rec_ := (s.home f).slots.get n.toNat .init
      let alone : Prop := (s.home f).parked = [] ∧ (s.home f).ingress = [] ∧
        ∀ p ∈ (s.home f).slots.entries, p.1 ≠ n.toNat → p.2.arrived = false
      InFlight s (fun y => match y with | .rty a b c _ _ => a == f && b == n.toNat && c == e | _ => false) (.rty f n.toNat e kd q) rest →
      ((rec_.used = false ∨ rec_.ep ≠ e) → ∃ t, exec (.rty f n e) s = .next t ∧ t.net = rest ∧
        (t.home f).stale = satAdd (s.home f).stale 1 ∧ (t.home f).slots = (s.home f).slots ∧ t.mem = s.mem) ∧
      (rec_.used = true → rec_.ep = e → rec_.isWbd = false → rec_.req = r → (h.txn? r.line).isSome = true → alone →
        (s.home f).slots.keys.Nodup →
        ∃ t, exec (.rty f n e) s = .next t ∧ t.net = rest ∧ t.mem = s.mem ∧ (t.home f).slots.get n.toNat .init = { rec_ with arrived := true }) ∧
      (rec_.used = true → rec_.ep = e → rec_.isWbd = false → rec_.req = r → rec_.kind = .rds → (∃ k tag ep, r.who = .clu k tag ep) →
        LineRests s r.line → (s.dirOf r.line).dst = .unc → (h.cached r.line).isSome = true → alone → (s.home f).slots.keys.Nodup →
        ∀ x, h.evFind r.line = some x → ∃ t, exec (.rty f n e) s = .next t ∧
          t.net = rest ++ [.data r .e x.data x.pois] ∧ t.opened r.line .rds r.who .cmp))

/-- WBD and EVC from the owner leave the directory without it, WBD's line in the eviction buffer, and both are acknowledged with WBACK;
from any other cluster they are acknowledged and WBD's data is discarded (R208, R209). One that misses the directory cache waits for a
read of its entry (R198). WBACK frees the entry of the writeback buffer (R195). Where the spec leaves it open, the clauses follow the
model's choice: log entry 18. -/
def Obligations.Writebacks : Prop :=
  ∀ (s : State) (line : Nat) (k : Clu) (tag : BitVec 5) (ep : BitVec 8) (w : WbEntry) (rest : List Msg),
    let r : Req := ⟨line, .clu k tag ep⟩
    let h := s.homeOfLine line
    let e := s.dirOf line
    let wbd := Arrives s (isWbd r) (.wbd r w) line rest
    let evc := Arrives s (isEvc r) (.evc r) line rest
    let acked (t : State) : Prop := t.net = rest ++ [.wback line k] ∧ t.cores = s.cores ∧ t.clus = s.clus
    let known : Prop := (h.cached line).isSome = true ∧ e.bad = false
    let asks (m : Msg) (t : State) : Prop := t.net = rest ∧ t.cores = s.cores ∧ t.clus = s.clus ∧ t.mem = s.mem ∧
      (t.homeOfLine line).parked = h.parked ++ [m] ∧ ∃ q, (t.homeOfLine line).rq = h.rq ++ [q] ∧ q.line = line ∧ q.entry = true
    h.fwdPending line k = false →
    (h.cached line = none → h.txn? line = none → (∀ q ∈ h.rq, q.line = line → q.entry = false) →
      (wbd → ∃ t, exec (.wbd r) s = .next t ∧ asks (.wbd r w) t) ∧ (evc → ∃ t, exec (.evc r) s = .next t ∧ asks (.evc r) t)) ∧
    (known → wbd → e.dst = .own → e.p0 = k → h.evb.length < 256 → ∃ t, exec (.wbd r) s = .next t ∧ acked t ∧ (t.dirOf line).dst = .unc ∧
      ∃ x, (t.homeOfLine line).evFind line = some x ∧ x.data = w.data ∧ x.pois = w.pois ∧ w.dirty &&& ~~~x.dirty = 0) ∧
    (known → wbd → e.owner ≠ some k → ∃ t, exec (.wbd r) s = .next t ∧ acked t ∧ t.homes = s.homes ∧ t.mem = s.mem) ∧
    (known → evc → e.dst = .own → e.p0 = k → ∃ t, exec (.evc r) s = .next t ∧ acked t ∧ (t.dirOf line).dst = .unc) ∧
    (known → evc → e.owner ≠ some k → ∃ t, exec (.evc r) s = .next t ∧ acked t ∧ t.homes = s.homes ∧ t.mem = s.mem) ∧
    (InFlight s (fun y => match y with | .wback l c => l == line && c == k | _ => false) (.wback line k) rest →
      (∀ p ∈ (s.clu k).miss.entries, p.2.fill = none) → (s.clu k).fillq = [] →
      ∃ t, exec (.wback line k) s = .next t ∧ t.net = rest ∧ t.mem = s.mem ∧ t.homes = s.homes ∧ (t.clu k).wb? line = none ∧
        (t.clu k).l2 = (s.clu k).l2)

/-- Forwards, recalls and invalidations at a slice that holds the line and has used its grant, none of whose groups protects a granule of
it: the answers and the state changes of R211. A multicast invalidation drops the line in every slice of the column but those it spares,
and one acknowledgement counts for the column (R200). Where the spec leaves it open, the clauses follow the model's choice: log entry 18.
-/
def Obligations.ForwardsAtASlice : Prop :=
  ∀ (s : State) (line way : Nat) (k : Clu) (r : Req) (f : Floe) (rest : List Msg),
    let c := s.clu k
    let l := c.l2.get way .init
    let dirty : Bool := l.st == .m || l.st == .o
    let msg (kd : FwdKind) : Prop := InFlight s (isFwd kd line k) (.fwd kd line k r f) rest
    let after (i : Instr) (m : Msg) (st : Moesi) : Prop := ∃ t, exec i s = .next t ∧ t.net = rest ++ [m] ∧ t.mem = s.mem ∧ t.homes = s.homes ∧
      t.cores = s.cores ∧ (∀ j, j ≠ k → t.clu j = s.clu j) ∧ ((t.clu k).l2.get way .init).st = st ∧
      ((t.clu k).l2.get way .init).data = l.data
    c.find line = some way → c.wb? line = none → s.protectsLine k line = false → c.filling line = false →
    (holdsOwned c line = true → s.unused k line = false) → l.st ≠ .i →
    (msg .fwdS → after (.fwdS line k) (.dataF r l.data dirty 0 l.pois false) (if dirty then .o else .s)) ∧
    (msg .fwdX → after (.fwdX line k) (.dataF r l.data dirty l.dirty l.pois true) .i) ∧
    (msg .rclS → after (.rclS line k) (.ack line k 1 (if dirty then some l.data else none) l.pois f) .s) ∧
    (InFlight s (isRclI line k) (.fwd .rclI line k r f) rest →
      after (.rclI line k) (.ack line k 1 (if dirty then some l.data else none) l.pois f) .i) ∧
    (InFlight s (isInv line k) (.inv line k f) rest → after (.inv line k) (.ack line k 1 none 0 f) .i) ∧
    (∀ skip, InFlight s (isInv line k) (.invCol line (colOf k) skip f) rest → (∀ j, colOf j = colOf k → s.defers j line = false) →
      ∃ t, exec (.inv line k) s = .next t ∧ t.net = rest ++ [.ack line (colHead (colOf k)) 1024 none 0 f] ∧
        t.mem = s.mem ∧ t.homes = s.homes ∧ t.cores = s.cores ∧ (∀ j, colOf j ≠ colOf k ∨ j ∈ skip → t.clu j = s.clu j) ∧
        (k ∉ skip → ((t.clu k).l2.get way .init).st = .i))

/-- DATA, DATA_F and GRANT install the line for their miss entry, free the entry with its epoch advanced and answer CMP; one of a stale
epoch is dropped and counted in CO_L2_STAT (R192, R196, R203, R211). Where the spec leaves it open, the clauses follow the model's choice:
log entry 18. -/
def Rules.LineResponses : Prop :=
  ∀ (s : State) (line way : Nat) (k : Clu) (tag : BitVec 5) (ep : BitVec 8) (st : Moesi) (d : LineData) (p : LinePoison) (dirty x : Bool)
      (ds : BitVec 4) (rest : List Msg),
    let r : Req := ⟨line, .clu k tag ep⟩
    let c := s.clu k
    let data := InFlight s (fun y => match y with | .data q _ _ _ => q == r | _ => false) (.data r st d p) rest
    let dataF := InFlight s (fun y => match y with | .dataF q _ _ _ _ _ => q == r | _ => false) (.dataF r d dirty ds p x) rest
    let grant := InFlight s (fun y => match y with | .grant q => q == r | _ => false) (.grant r) rest
    let stale (i : Instr) : Prop := ∃ t, exec i s = .next t ∧ t.net = rest ∧ t.mem = s.mem ∧ (t.clu k).stale = satAdd c.stale 1 ∧
      (t.clu k).l2 = c.l2 ∧ (t.clu k).miss = c.miss
    let done (i : Instr) (m : Miss) (l : L2Line) (cd : Bool) : Prop := ∃ t, exec i s = .next t ∧ t.net = rest ++ [.cmp r cd] ∧ t.mem = s.mem ∧
      t.cores = s.cores ∧ t.homes = s.homes ∧ (t.clu k).l2.get way .init = { l with age := if m.stream then 3 else 0 } ∧
      (t.clu k).missEp.get tag.toNat 0 = ep + 1
    (c.missAt tag ep = none → (data → stale (.data r)) ∧ (dataF → stale (.dataF r)) ∧ (grant → stale (.grant r))) ∧
    (∀ m, c.missAt tag ep = some m → m.fill = none → m.line = line → c.stq = [] → c.held = [] → c.find line = none →
      (waysOf line).find? (fun w => (c.l2.get w .init).st == .i) = some way →
      (data → done (.data r) m ⟨line, st, d, 0, p, 0⟩ false) ∧
      (dataF → done (.dataF r) m ⟨line, if x then .m else .s, d, if x then ds else 0, p, 0⟩ dirty) ∧
      (grant → done (.grant r) m ⟨line, .m, 0, 15, 0, 0⟩ false)) ∧
    (∀ m, c.missAt tag ep = some m → m.fill = none → m.line = line → c.stq = [] → c.held = [] → c.find line = some way →
      m.kind = .upg → grant →
      done (.grant r) m { c.l2.get way .init with line := line, st := .m } false)

/-- UCDONE brings an uncached load's sector to the core that waits for it, under the bytes that the core held when it asked, and frees the
miss entry (R62, R203). Where the spec leaves it open, the clauses follow the model's choice: log entries 11, 19, 70. -/
def Rules.UncachedAnswers : Prop :=
  ∀ (s : State) (line : Nat) (k : Clu) (tag : BitVec 5) (ep : BitVec 8) (d : BitVec 256) (p : BitVec 8) (rest : List Msg) (m : Miss) (segs : Nat),
    let r : Req := ⟨line, .clu k tag ep⟩
    let a := s.here (32 * m.pay.sector)
    let c := s.core m.pay.core
    InFlight s (fun y => match y with | .ucdone q _ _ _ _ _ => q == r | _ => false) (.ucdone r d p true segs 0) rest →
    (s.clu k).missAt tag ep = some m → m.kind = .ucr false →
    ∀ o, (c.ucOut.find? fun o => o.grp == m.pay.grp && o.addr == a && o.lane == m.pay.lane && !o.store) = some o →
    let got : SecPart := SecPart.over ⟨o.mask, o.data, o.pois⟩ ⟨BitVec.allOnes 32, d, p⟩
    ∃ t, exec (.ucdone r) s = .next t ∧ t.net = rest ∧ t.mem = s.mem ∧ (t.clu k).missEp.get tag.toNat 0 = ep + 1 ∧
      (t.core m.pay.core).ucRes = c.ucRes ++ [⟨m.pay.grp, a, m.pay.lane, got.data, got.pois, 0, true⟩] ∧
      (∀ o ∈ (t.core m.pay.core).ucOut, o ∈ c.ucOut) ∧ (t.core m.pay.core).groups = c.groups

/-- ACK and CMP at the home: the last acknowledgement of an RDZ grants the line; dirty data of a recall enters the eviction buffer; CMP
closes the transaction, and after a FWD_S to an owner DIRTY decides between OWS and SHR with both (R205, R208, R210, R212). Where the spec
leaves it open, the clauses follow the model's choice: log entries 17, 18. -/
def Obligations.TransactionsEnd : Prop :=
  ∀ (s : State) (line : Nat) (src : Clu) (x : Txn) (rest : List Msg),
    let h := s.homeOfLine line
    let e := s.dirOf line
    h.txn? line = some x → x.line = line → e.bad = false → HomeQuiet s (s.locOf line).floe →
    (∀ n d p, 1 < x.acks → x.wait = .recall → InFlight s (fun y => match y with | .ack l k _ _ _ _ => l == line && k == src | _ => false)
      (.ack line src 1 (some d) p n) rest → h.evb.length < 256 → ∃ t, exec (.ack line src) s = .next t ∧ t.net = rest ∧ t.mem = s.mem ∧
        (∃ y, (t.homeOfLine line).txn? line = some y ∧ y.acks = x.acks - 1) ∧
        ∃ z, (t.homeOfLine line).evFind line = some z ∧ z.data = d ∧ z.pois = p ∧ z.dirty = 15) ∧
    (∀ n k tag ep, x.acks = 1 → x.wait = .acks → x.kind = .rdz → x.who = .clu k tag ep →
      InFlight s (fun y => match y with | .ack l c _ _ _ _ => l == line && c == src | _ => false) (.ack line src 1 none 0 n) rest →
      ∃ t, exec (.ack line src) s = .next t ∧ t.net = rest ++ [.grant ⟨line, x.who⟩] ∧ t.owned line k ∧
        t.opened line .rdz x.who .cmp) ∧
    (∀ k tag ep dirty, x.wait = .cmp → x.who = .clu k tag ep → x.slot = none →
      InFlight s (fun y => match y with | .cmp q _ => q == ⟨line, x.who⟩ | _ => false) (.cmp ⟨line, x.who⟩ dirty) rest →
      ∃ t, exec (.cmp ⟨line, x.who⟩) s = .next t ∧ t.net = rest ∧ t.cores = s.cores ∧ t.clus = s.clus ∧
        (t.homeOfLine line).txn? line = none ∧
        (x.kind = .rds → e.dst = .own → e.p0 ≠ k →
          (dirty = true → (t.dirOf line).dst = .ows ∧ (t.dirOf line).p0 = e.p0 ∧ (t.dirOf line).sharers = [k]) ∧
          (dirty = false → (t.dirOf line).dst = .shr ∧ (t.dirOf line).sharers = [e.p0, k])) ∧
        (x.kind ≠ .rds → t.dirOf line = e ∧ t.mem = s.mem))

/-! ### The moraine -/

/-- EVICTION_DRAIN and WCB_EVICT take a line's entry out of its buffer and put a write of its dirty sectors or of its written bytes in the
queue of the line's pseudo-channel, and the home's view after WCB_EVICT is the same bytes as before (R208, R286, R287). A write that has
waited 1 µs reaches HBM at the next time code unless a refresh is due, and there it changes the bytes of its mask and no other byte
(R290). Where the spec leaves it open, the clauses follow the model's choice: log entries 29, 65. -/
def Rules.BuffersDrain : Prop :=
  ∀ (s : State) (line : Nat), s.hbmRuns line = true → (s.chanOf line).stopped = false →
    let f := (s.locOf line).floe
    let h := s.homeOfLine line
    let waits (t : State) (m : LineMask) (d : LineData) : Prop :=
      ∃ w, (t.homeOfLine line).wq = [w] ∧ w.line = line ∧ w.mask = m ∧ w.data = d ∧ w.dir = none ∧ w.since = s.tb.now
    (∀ e, h.evFind line = some e → e.line = line → e.dirty ≠ 0 → h.wq = [] → HomeQuiet s f → ∃ t, exec (.evictionDrain line) s = .next t ∧
      (t.homeOfLine line).evFind line = none ∧ t.cores = s.cores ∧ t.net = s.net ∧ t.mem = s.mem ∧ waits t (sectorMask e.dirty) e.data) ∧
    (∀ e, h.evFind line = some e → e.line = line → e.dirty = 0 → HomeQuiet s f → ∃ t, exec (.evictionDrain line) s = .next t ∧
      (t.homeOfLine line).evFind line = none ∧ (t.homeOfLine line).wq = h.wq ∧ t.cores = s.cores ∧ t.net = s.net ∧ t.mem = s.mem) ∧
    (∀ e, h.wcFind line = some e → e.line = line → e.last.toNat + 2000 ≤ s.tb.now.toNat → h.evFind line = none → h.wq = [] →
      ∃ t, exec (.wcbEvict line) s = .next t ∧ (t.homeOfLine line).wcFind line = none ∧ t.cores = s.cores ∧ t.net = s.net ∧ t.mem = s.mem ∧
        (t.view line).data = (s.view line).data ∧ waits t e.mask e.data) ∧
    (∀ w, h.wq = [w] → w.line = line → h.rq = [] → h.gq = [] → (∀ p ∈ s.homes.entries, p.2.wq = [] ∨ p = (f.toNat, h)) →
      s.host.waiting = [] → (∀ p ∈ s.clus.entries, p.2.fillq = []) → s.tb.running = true → w.since.toNat + 1000 ≤ s.tb.now.toNat →
      s.tb.now.toNat + 64 < 2 ^ 64 → s.tb.now.toNat + 64 < (h.refs.get (s.locOf line).pc 0).toNat + h.refreshNs →
      ∃ t, exec .timeCode s = .next t ∧ (t.homeOfLine line).wq = [] ∧
        (∀ a, (a < 128 * line ∨ 128 * line + 128 ≤ a) → t.mem.read a = s.mem.read a) ∧
        ∀ i, i < 128 → t.mem.read (128 * line + i) =
          if w.mask.getLsbD i then w.data.extractLsb' (8 * i) 8 else s.mem.read (128 * line + i))

/-- A gather answers its core with the sector as the stack holds it under the bytes that the buffers held when it was accepted, and leaves
the directory, every buffer and every transaction as they are (R155, R208, R287, R288). Where the spec leaves it open, the clauses follow
the model's choice: log entries 9, 29, 65. -/
def Rules.Gathers : Prop :=
  ∀ (s : State) (g : GroupAt) (sector : Nat) (r : GatherReq) (o : UcOut),
    let line := sector / 4
    let h := s.homeOfLine line
    (h.gq.find? fun r => r.core == g.core && r.grp == g.grp && r.sector == sector) = some r → s.mayServe r.waiter = true →
    (s.chanOf line).stopped = false → s.memPois line = 0 → (h.reps.find? (·.line == line)) = none → h.wq = [] →
    ((s.core g.core).ucOut.find? fun y => y.grp == g.grp && !y.store && fieldN y.addr 0 49 == 32 * sector) = some o →
    let v := (Cover.mk r.mask r.data r.pois).over ⟨s.memLine line, 0⟩
    let i := sector % 4
    let got : SecPart := SecPart.over ⟨o.mask, o.data, o.pois⟩
      ⟨BitVec.allOnes 32, v.data.extractLsb' (256 * i) 256, v.pois.extractLsb' (8 * i) 8⟩
    ∃ t, exec (.gather g sector) s = .next t ∧ t.mem = s.mem ∧ t.poison = s.poison ∧ t.net = s.net ∧ t.clus = s.clus ∧
      (∀ c, c ≠ g.core → t.core c = s.core c) ∧ (t.core g.core).groups = (s.core g.core).groups ∧
      (t.homeOfLine line).dir = h.dir ∧ (t.homeOfLine line).dcache = h.dcache ∧ (t.homeOfLine line).txns = h.txns ∧
      (t.homeOfLine line).evb = h.evb ∧ (t.homeOfLine line).wcb = h.wcb ∧ (t.homeOfLine line).gq.length + 1 = h.gq.length ∧
      (t.core g.core).ucRes = (s.core g.core).ucRes ++ [{ UcRes.init with
        grp := g.grp, addr := o.addr, data := got.data, pois := got.pois }]

/-- A line read with its severities and parities that a RDS of an UNC line waits for (R198, R280): the transaction answers with the line.
A clean first read changes no count but reads and corrected severities; a clean second read counts in MR_REREAD and as a replay (R407);
otherwise MR_PARERR counts one and every word that fails again is delivered poisoned, and those not stored so count in DG_AO_POISON
(R407). A word stored poisoned fails both times (R371). Corrected severities count in MR_ODECC. Where the spec leaves it open, the clauses
follow the model's choice: log entries 29, 65, 66. -/
def Obligations.LineReads : Prop :=
  ∀ (s : State) (line : Nat) (a b : ReadReport), s.lineOk line = true → s.hbmRuns line = true → (s.chanOf line).stopped = false →
    let h := s.homeOfLine line
    let stored (i : Nat) : Prop := (s.memPois line).getLsbD i = true
    let fails (r : ReadReport) (i : Nat) : Prop := stored i ∨ r.par.getLsbD i = true ∨ (i < 8 ∧ r.sev0 = 2) ∨ (8 ≤ i ∧ i < 16 ∧ r.sev1 = 2) ∨
      (16 ≤ i ∧ i < 24 ∧ r.sev2 = 2) ∨ (24 ≤ i ∧ i < 32 ∧ r.sev3 = 2)
    let clean (r : ReadReport) : Prop := ∀ i, i < 32 → ¬fails r i
    let corr (r : ReadReport) : BitVec 64 := BitVec.ofNat 64 (([r.sev0, r.sev1, r.sev2, r.sev3].filter fun v => v == 1).length)
    ∀ q x k tag ep, h.rq.find? (·.line == line) = some q → q.entry = false → s.mayServe q.waiter = true → q.mask = 0 → h.wq = [] → h.evFind line = none → HomeQuiet s (s.locOf line).floe →
      h.txn? line = some x → x.line = line → x.kind = .rds → x.who = .clu k tag ep → (s.dirOf line).dst = .unc → (s.dirOf line).bad = false →
      (x.wait = .read ∨ x.wait = .dir ∧ h.cached line = none ∧ (clean a ∨ clean b)) →
      ∃ t p, exec (.hbmRead line a b) s = .next t ∧ t.mem = s.mem ∧ t.poison = s.poison ∧ t.cores = s.cores ∧ t.owned line k ∧
        t.opened line .rds x.who .cmp ∧ t.net = s.net ++ [.data ⟨line, x.who⟩ .e (s.memLine line) p] ∧
        let k := t.homeOfLine line
        (clean a → k.odecc = h.odecc + corr a ∧ k.reread = h.reread ∧ k.parerr = h.parerr ∧ p = 0) ∧
        (¬clean a → clean b → k.odecc = h.odecc + corr a + corr b ∧ k.reread = satAdd h.reread 1 ∧ k.parerr = h.parerr ∧ p = 0 ∧
          t.dg.aoReplay = satAdd s.dg.aoReplay 1) ∧
        (¬clean a → ¬clean b → k.odecc = h.odecc + corr a + corr b ∧ k.reread = h.reread ∧ k.parerr = satAdd h.parerr 1 ∧
          t.dg.aoPoison = satAdd s.dg.aoPoison ((List.range 32).countP fun i => p.getLsbD i && !(s.memPois line).getLsbD i) ∧
          ∀ i, i < 32 → (p.getLsbD i = true ↔ fails b i))

/-- The temperature states of R294: a reading sets the highest state that it reaches, a state stays until the reading falls 3 °C below its
threshold, an entry into STOP counts in MR_STOPS, the peak follows, and nothing else of the module changes but what STOP has held back
(R294, R296). That the first reading decides alone, and counts as an entry into STOP when it is 105 °C or more, is the model's own reading
of R295 and R296, which do not say (log entry 29). Where the spec leaves it open, the clauses follow the model's choice: log entry 29. -/
def Rules.TemperatureStates : Prop :=
  ∀ (s : State) (f : Floe) (c : BitVec 8),
    let h := s.home f
    let n := c.toNat
    (h.tstate = 3 → h.wq = [] ∧ HomeQuiet s f) →
    ∃ t, exec (.tempReading f c) s = .next t ∧ { t with homes := s.homes } = s ∧ (∀ k, k ≠ f → t.home k = s.home k) ∧
      let k := t.home f
      { k with tvalid := h.tvalid, tlast := h.tlast, tpeak := h.tpeak, tstate := h.tstate, stops := h.stops, hot := h.hot } = h ∧
      k.tvalid = true ∧ k.tlast = c ∧ k.tpeak.toNat = max h.tpeak.toNat n ∧
      (105 ≤ n → k.tstate = 3) ∧ (95 ≤ n → 2 ≤ k.tstate.toNat) ∧ (85 ≤ n → 1 ≤ k.tstate.toNat) ∧
      (n < 82 → k.tstate = 0) ∧ (n < 92 → k.tstate.toNat ≤ 1) ∧ (n < 102 → k.tstate.toNat ≤ 2) ∧
      (h.tvalid = true → ((102 ≤ n ∧ n < 105 ∧ h.tstate = 3) → k.tstate = 3) ∧ ((92 ≤ n ∧ n < 95 ∧ 2 ≤ h.tstate.toNat) → k.tstate = 2) ∧
        ((82 ≤ n ∧ n < 85 ∧ 1 ≤ h.tstate.toNat) → k.tstate = 1) ∧ (95 ≤ n → n < 102 → k.tstate = 2)) ∧
      (k.tstate = 3 → (h.tstate ≠ 3 ∨ h.tvalid = false) → k.stops = satAdd h.stops 1 ∧ k.hot = true) ∧
      (h.tvalid = true → h.tstate = 3 → k.stops = h.stops ∧ k.hot = h.hot)

/-- A command of a live channel that fails parity is retried and counted in MR_CH_CAPAR; after 64 in a row the channel stops (R377). A
refresh of a pseudo-channel is due 3.9 µs after the last below 85 °C and 1.95 µs after it otherwise; a channel that is mapped out gets
none (R293, R298). That a refresh closes the rows of its pseudo-channel is the model's own choice: R293 says nothing of rows (log entry
65). Where the spec leaves it open, the clauses follow the model's choice: log entries 9, 29, 65. -/
def Rules.ChannelsAndRefresh : Prop :=
  ∀ (s : State) (f : Floe) (ch : BitVec 4) (pc : BitVec 5),
    let h := s.home f
    let c := h.chans.get ch.toNat .init
    let own (c : Nat) : Bool := s.liveChan f c
    let only (t : State) : Prop := { t with homes := s.homes } = s ∧ ∀ k, k ≠ f → t.home k = s.home k
    (own ch.toNat = true → c.stopped = false → ∃ t, exec (.addressParityRetry f ch) s = .next t ∧ only t ∧
      (t.home f).chans.get ch.toNat .init = { c with capar := satAdd c.capar 1, caRun := min 64 (c.caRun + 1) }) ∧
    (own ch.toNat = true → 64 ≤ c.caRun → ∃ t, exec (.channelStop f ch) s = .next t ∧ only t ∧
      (t.home f).chans.get ch.toNat .init = { c with stopped := true }) ∧
    (c.caRun < 64 → exec (.channelStop f ch) s = .next s) ∧
    (own (pc.toNat / 2) = true → (h.refs.get pc.toNat 0).toNat + (if h.tstate = 0 then 3900 else 1950) ≤ s.tb.now.toNat →
      ∃ t, exec (.refresh f pc) s = .next t ∧ t.net = s.net ∧ t.cores = s.cores ∧ t.clus = s.clus ∧ (t.home f).refs = h.refs.put pc.toNat s.tb.now ∧
        (h.wq = [] → only t ∧ { t.home f with refs := h.refs, chans := h.chans } = h ∧
        let k := h.chans.get (pc.toNat / 2) .init
        let j := (t.home f).chans.get (pc.toNat / 2) .init
        (∀ i, i ≠ pc.toNat / 2 → (t.home f).chans.get i .init = h.chans.get i .init) ∧ { j with rows := k.rows } = k ∧ ∀ b, j.rows.get? b = if b / 32 = pc.toNat % 2 then none else k.rows.get? b)) ∧
    (own (pc.toNat / 2) = false → exec (.refresh f pc) s = .next s)

/-! ### Time -/

/-- TIME_CODE: the counter comes to the next multiple of 64 and the code names it; every island that runs has latched it, a stopped or
gated one has not; BUSY adds the cores with a block resident (R391, R393, R407). REFOK of a module that is no child is 1 while it is
locked and 0 in holdover (R411). With no write, fill or request of the host waiting neither memory nor any group changes but by the words
that have failed their parity since the last code, which poison or drop a copy and never write memory (R370). Where the spec leaves it
open, the clauses follow the model's choice: log entries 9, 34, 64. -/
def Rules.TimeCodes : Prop :=
  (∀ (s : State) (u : Upset), (s.struck u).mem = s.mem ∧ (s.struck u).poison = s.poison ∧ (s.struck u).ws = s.ws ∧ (s.struck u).tb = s.tb ∧
    (s.struck u).queues = s.queues ∧ (s.struck u).eng = s.eng) ∧
  ∀ (s : State), CodeOnly s → ∃ u, exec .timeCode s = .next (if s.pw.on then (Config.upsets s.fresh).foldl State.struck u else u) ∧
    u.tb.now.toNat % 64 = 0 ∧ u.tb.code = u.tb.now ∧
    (s.tb.now.toNat + 64 < 2 ^ 64 → s.tb.now.toNat < u.tb.now.toNat ∧ u.tb.now.toNat ≤ s.tb.now.toNat + 64) ∧
    { u.tb with now := s.tb.now, code := s.tb.code, refok := s.tb.refok } = s.tb ∧
    ((s.tb.roleSet && s.tb.role) = false → (s.tb.hold = true → u.tb.refok = false) ∧ (s.tb.hold = false → s.tb.lock = true → u.tb.refok = true)) ∧
    u.mem = s.mem ∧ u.poison = s.poison ∧ u.ws = s.ws ∧ u.net = s.net ∧ u.homes = s.homes ∧ u.dg.aoReplay = s.dg.aoReplay ∧
    u.dg.aoBusy = s.dg.aoBusy + BitVec.ofNat 64 ((s.cores.entries.filter fun e => e.2.launch.isSome).length) ∧
    (∀ c k, s.clus.get? c = some k → s.pw.on = true → ∃ j, u.clus.get? c = some j ∧ j.stamp = k.stamp ∧ j.l2 = k.l2 ∧
      (k.gated = false → k.stopped = false → j.latched = true) ∧ (k.gated = true ∨ k.stopped = true → j = k)) ∧
    ∀ c k, s.cores.get? c = some k → ∃ j, u.cores.get? c = some j ∧ { j with held := k.held } = k

/-- The series of R396: each tick sends one request, stamped as it goes out (R395), while fewer than 64 are out; the last of 64 responses
ends the series with the θ of an exchange of least d. Before SYNC that θ steps the counter once and is written to TB_OFFSET; afterwards it
is written to TB_RESID and not applied (R398). A series short of responses after 128 µs starts again. Where the spec leaves it open, the
clauses follow the model's choice: log entry 34. -/
def Rules.TimeSeries : Prop :=
  ∀ (s : State) (sub : BitVec 6) (m : TimeSeg),
    let t1 := s.tb.now + sub.setWidth 64
    (s.tb.exOn = true → s.tb.exNext < 64 → (s.port s.tb.port).st = .active → s.tb.exStart.toNat + 1000 * s.tb.exNext ≤ t1.toNat →
      ∃ t xs, exec (.timeExchangeTick sub) s = .next t ∧ t.tb.exNext = s.tb.exNext + 1 ∧ t.mem = s.mem ∧ t.tb.now = s.tb.now ∧
        t.tb.exch = xs ++ [{ Exch.init with seq := s.tb.exNext, t1 := t1 }] ∧ xs.map (·.seq) = s.tb.exch.map (·.seq) ∧
        ((∀ p x, s.ports.get? p = some x → ∀ y ∈ x.txq, y.isTime = false) → (∀ e ∈ s.tb.exch, e.seq ≠ s.tb.exNext) → xs = s.tb.exch)) ∧
    (s.tb.exOn = true → s.tb.exStart.toNat + 128000 ≤ s.tb.now.toNat → ∃ t, exec .seriesTimeout s = .next t ∧ { t with tb := s.tb } = s ∧
      t.tb.exch = [] ∧ t.tb.exNext = 0 ∧ t.tb.exStart = s.tb.now ∧ t.tb.now = s.tb.now ∧ t.tb.series = satAdd s.tb.series 1) ∧
    (m.kind = 1 → (s.port s.tb.port).st = .active → s.tb.exOn = true → s.tb.exch.length = 64 →
      ∀ e, e ∈ s.tb.exch → e.seq = m.seq.toNat → e.done = false → (∀ y ∈ s.tb.exch, y.done = false → y = e) → (s.tb.exch.map (·.seq)).Nodup →
      let all := s.tb.exch.map fun y => if y = e then { y with t2 := m.t2, t3 := m.t2 + m.dt.setWidth 64, t4 := t1, done := true } else y
      let d (y : Exch) : Int := ((y.t4 - y.t1) - (y.t3 - y.t2)).toInt
      ∃ t b, exec (.time s.tb.port m sub) s = .next t ∧ b ∈ all ∧ (∀ y ∈ all, d b ≤ d y) ∧ t.tb.exOn = false ∧ t.mem = s.mem ∧
        let th := ((b.t2 - b.t1) - (b.t4 - b.t3)).sshiftRight 1
        (s.tb.sync = false → t.tb.now = s.tb.now + th ∧ t.tb.offset = th ∧ t.tb.sync = true) ∧
        (s.tb.sync = true → t.tb.now = s.tb.now ∧ t.tb.resid = th ∧ t.tb.resv = true ∧ t.tb.offset = s.tb.offset))

/-- The PLL of a root locks and sets SYNC, that of a child locks once its parent port is ACTIVE and starts a series; a synced module whose
source is gone enters holdover, and it locks again without a step (R394, R396, R398). Where the spec leaves it open, the clauses follow
the model's choice: log entry 34. -/
def Rules.TimeLock : Prop :=
  ∀ (s : State) (port : PortId),
    (s.tb.running = true → s.tb.lock = false → s.tb.hold = false → s.isChild = false → ∃ t, exec (.pllLock port) s = .next t ∧
      t = { s with tb := { s.tb with lock := true, refok := true, sync := true } }) ∧
    (s.tb.running = true → s.tb.lock = false → s.tb.hold = false → s.tb.roleSet = true → s.tb.role = true → (s.port s.tb.port).st = .active →
      ∃ t, exec (.pllLock s.tb.port) s = .next t ∧ { t with tb := s.tb } = s ∧ t.tb.lock = true ∧ t.tb.sync = s.tb.sync ∧ t.tb.exOn = true ∧
        t.tb.exNext = 0 ∧ t.tb.now = s.tb.now) ∧
    (s.tb.sync = true → s.tb.hold = false → (s.isChild = false ∨ (s.port s.tb.port).st ≠ .active) →
      ∃ t, exec .holdover s = .next t ∧ { t with tb := s.tb } = s ∧ t.tb.hold = true ∧ t.tb.lock = false ∧ t.tb.now = s.tb.now ∧
        t.tb.sync = true) ∧
    (s.tb.hold = true → (s.isChild = false ∨ (s.port s.tb.port).st = .active) →
      ∃ t, exec .relock s = .next t ∧ { t with tb := s.tb } = s ∧ t.tb.hold = false ∧ t.tb.lock = true ∧ t.tb.now = s.tb.now ∧
        (s.isChild = true → t.tb.exOn = true ∧ t.tb.exNext = 0))

/-! ### Islands, power and cooling -/

/-- The stretch of an island (R444). sT follows the last sample of Tj; a droop leaves sD at least 8 and a clock stop holds issue until the
clock runs again and a code is latched (R393); sD falls by one at each recovery tick. No other island changes, and no register of any
group. Where the spec leaves it open, the clauses follow the model's choice: log entry 52. -/
def Rules.IslandClocks : Prop :=
  ∀ (s : State) (c : Clu) (tj : BitVec 8),
    let k := s.clu c
    let only (t : State) : Prop := t.cores = s.cores ∧ t.mem = s.mem ∧ t.homes = s.homes ∧ ∀ j, j ≠ c → t.clu j = s.clu j
    (s.pw.on = true → ∃ t, exec (.tjSample c tj) s = .next t ∧ only t ∧
      t.clu c = { k with tj := tj, tjHot := decide (120 ≤ k.tj.toNat), sT := if tj.toNat < 95 then 0 else min 32 (2 * (tj.toNat - 95)) }) ∧
    (s.pw.on = true → k.gated = false → ∃ t, exec (.supplyDroop c) s = .next t ∧ only t ∧ 8 ≤ (t.clu c).sD ∧ k.sD ≤ (t.clu c).sD ∧
      { t.clu c with sD := k.sD } = k) ∧
    (s.pw.on = true → k.gated = false → ∃ t, exec (.clockStop c) s = .next t ∧ only t ∧ (t.clu c).stopped = true ∧ (t.clu c).runs = false) ∧
    (k.stopped = true → ∃ t, exec (.clockRestart c) s = .next t ∧ only t ∧ (t.clu c).stopped = false ∧ (t.clu c).latched = false ∧
      (t.clu c).runs = false) ∧
    (k.stopped = false → ∃ t, exec (.droopRecoveryTick c) s = .next t ∧ only t ∧ t.clu c = { k with sD := k.sD - 1 })

/-- An idle island that has drained gates its power once PW_GATE.IDLE µs have passed, and a tile dispatched to it wakes it; it issues
nothing until it has latched a code. Islands do not gate while PW_GATE.EN is 0 (R197, R393, R445). Where the spec leaves it open, the
clauses follow the model's choice: log entry 53. -/
def Rules.IslandGating : Prop :=
  ∀ (s : State) (c : Clu),
    let k := s.clu c
    let here (i : Nat) : CoreId := BitVec.ofNat 20 (64 * c.toNat + i)
    (s.pw.on = true → k.runs = true → s.pw.gateEn = true → k.idleSince.toNat + 1000 * s.pw.gateIdle.toNat ≤ s.tb.now.toNat →
      (∀ i, i < 64 → (s.core (here i)).launch = none ∧ (s.core (here i)).sb = [] ∧ (s.core (here i)).l1 = .empty) →
      k.l2.entries = [] → k.wbuf = [] → k.miss.entries = [] → k.stq = [] → k.held = [] →
      ∃ t, exec (.islandGate c) s = .next t ∧ (t.clu c).gated = true ∧ (t.clu c).runs = false ∧ t.mem = s.mem ∧ t.rtrs = s.rtrs ∧ t.net = s.net) ∧
    (s.pw.gateEn = false → k.gated = false → ∃ t, exec (.islandGate c) s = .next t ∧ (t.clu c).gated = false ∧ t.mem = s.mem) ∧
    (k.gated = true → (∃ i, i < 64 ∧ (s.core (here i)).launch.isSome = true) → ∃ t, exec (.islandWake c) s = .next t ∧ t.cores = s.cores ∧
      (t.clu c).gated = false ∧ (t.clu c).runs = false)

/-- Loss of input power loses everything, the time counter included; a rail fault and a thermal trip keep the time base and the management
controller alone, with PW_STAT.RFAULT or TTRIP set; a power-up leaves the module as it is at reset (R414, R439, R440, R441, R444). Where
the spec leaves it open, the clauses follow the model's choice: log entry 52. -/
def Rules.PowerLoss : Prop :=
  ∀ (s : State) (c : Clu),
    let off (t : State) : Prop := t.pw.on = false ∧ t.pw.pgOut = false ∧ t.mem = State.reset.mem ∧ t.ws = State.reset.ws ∧
      t.cores = State.reset.cores ∧ t.queues = State.reset.queues ∧ t.eng = State.reset.eng ∧ t.pending = s.pending
    (∃ t, exec .inputPowerLoss s = .next t ∧ off t ∧ t.pw.aon = false ∧ t.tb = State.reset.tb) ∧
    (s.pw.aon = false → ∃ t, exec .powerUp s = .next t ∧ t = { State.reset with pending := s.pending, fresh := s.fresh }) ∧
    (s.pw.on = true → ∃ t, exec .railFault s = .next t ∧ off t ∧ t.pw.rfault = true ∧ t.pw.aon = true ∧ t.tb = s.tb ∧ t.mgmt = s.mgmt) ∧
    (s.pw.on = true → (s.clu c).tjHot = true → 120 ≤ (s.clu c).tj.toNat → ∃ t, exec (.thermalTrip c) s = .next t ∧ off t ∧
      t.pw.ttrip = true ∧ t.pw.aon = true ∧ t.tb = s.tb ∧ t.mgmt = s.mgmt) ∧
    ((s.clu c).tj.toNat < 120 → exec (.thermalTrip c) s = .next s)

/-- The supply and cooling flags of PW_STAT: LOWV from 43 V to below 46 V, HIGHV above 58 V to 60 V, COOL while the inlet exceeds 35 °C or
the outlet exceeds the inlet by more than 20 K, ILIM at the current limit; the module goes on (R437, R438, R458). A cage's presence and
fault are kept at its port. Where the spec leaves it open, the clauses follow the model's choice: log entry 52. -/
def Rules.SupplyAndCooling : Prop :=
  ∀ (s : State) (mv : BitVec 16) (ti to_ : BitVec 8) (p : PortId) (a b : Bool),
    (s.pw.aon = true → ∃ t, exec (.inputVoltageChange mv) s = .next t ∧ { t with pw := s.pw } = s ∧
      t.pw = { s.pw with vin := mv, lowv := decide (43000 ≤ mv.toNat ∧ mv.toNat < 46000), highv := decide (58000 < mv.toNat ∧ mv.toNat ≤ 60000) }) ∧
    (s.pw.aon = true → ∃ t, exec (.coolantCondition ti to_) s = .next t ∧ { t with pw := s.pw } = s ∧
      t.pw = { s.pw with tin := ti, tout := to_, cool := decide (35 < ti.toNat ∨ ti.toNat + 20 < to_.toNat) }) ∧
    (s.pw.on = true → ∃ t, exec .currentLimit s = .next t ∧ { t with pw := s.pw } = s ∧ t.pw.ilim = true ∧
      (0 < s.pw.vin.toNat → t.pw.iin.toNat = min 20700 (950000000 / s.pw.vin.toNat))) ∧
    (∃ t, exec (.cagePresenceFault p a b) s = .next t ∧ { t with ports := s.ports } = s ∧ (∀ q, q ≠ p → t.port q = s.port q) ∧
      t.port p = { s.port p with present := a, fault := b })

/-! ### Observation -/

/-- DG_CSELn takes a defined event and clears counter n of the one cluster; an undefined event is rejected with E_RANGE; CLR clears all
eight (R404, R405). Where the spec leaves it open, the clauses follow the model's choice: log entries 35, 36. -/
def Rules.EventCounters : Prop :=
  ∀ (s : State) (c : Clu) (n : BitVec 3) (v : Word), s.dgOpen = true → s.excluded (floeOfClu c) = false →
    let k := s.island c
    let ev := (v.setWidth 8 : BitVec 8).toNat
    (((ev ≤ 0x0E ∨ 0x10 ≤ ev ∧ ev ≤ 0x1B) → ∃ t, exec (.dgCselWrite c n v) s = .next t ∧ { t with clus := s.clus } = s ∧
      (∀ j, j ≠ c → t.clu j = s.clu j) ∧ { t.clu c with csel := k.csel, cnt := k.cnt } = k ∧
      (∀ i, (t.clu c).csel.get i 0 = if i = n.toNat then v.setWidth 8 else k.csel.get i 0) ∧
      (∀ i, (t.clu c).cnt.get i 0 = if i = n.toNat then 0 else k.cnt.get i 0))) ∧
    (¬(ev ≤ 0x0E ∨ 0x10 ≤ ev ∧ ev ≤ 0x1B) → ∃ t, exec (.dgCselWrite c n v) s = .next t ∧ t.clus = s.clus ∧ t.dg.errV = true ∧
      (s.dg.errV = false → t.dg.errCode = 0x0104)) ∧
    (∃ t, exec (.dgCctlClr c) s = .next t ∧ { t with clus := s.clus } = s ∧ (∀ j, j ≠ c → t.clu j = s.clu j) ∧
      (∀ i, (t.clu c).cnt.get i 0 = 0) ∧ { t.clu c with cnt := k.cnt } = k)

/-- Arming a trigger (R406): rejected with E_RANGE and nothing armed when AT is less than TB_NOW + 2,048, when an action is pending or
when ACT is 3. At the first code of at least AT that a running island latches it freezes its counters, thaws them, or clears and thaws
them, before it counts anything under that code; TRIGGER_ACTION records the action in the trace FIFO once (R410). Where the spec leaves it
open, the clauses follow the model's choice: log entry 36. -/
def Rules.Triggers : Prop :=
  ∀ (s : State) (v : Word) (c : Clu),
    let act : BitVec 2 := bits v 24 2
    (s.dgOpen = true → bitAt v 31 = true → (act = 3 ∨ s.dg.trigAt.toNat < s.tb.now.toNat + 2048 ∨ s.dg.armed = true) →
      ∃ t, exec (.dgTrigArm v) s = .next t ∧ t.clus = s.clus ∧ t.dg.armed = s.dg.armed ∧ t.dg.armAt = s.dg.armAt ∧ t.dg.acts = s.dg.acts ∧
        t.dg.errV = true ∧ (s.dg.errV = false → t.dg.errCode = 0x0104)) ∧
    (s.dgOpen = true → bitAt v 31 = true → act ≠ 3 → s.tb.now.toNat + 2048 ≤ s.dg.trigAt.toNat → s.dg.armed = false →
      ∃ t, exec (.dgTrigArm v) s = .next t ∧ t.dg.armed = true ∧ t.dg.armAt = s.dg.trigAt ∧ t.dg.acts = s.dg.acts ++ [(s.dg.trigAt, act)] ∧
        t.mem = s.mem ∧ t.clus = s.clus) ∧
    (CodeOnly s → s.pw.on = true → ∀ k a rest, s.clus.get? c.toNat = some k → k.gated = false → k.stopped = false →
      s.dg.acts.drop k.trigSeen = a :: rest →
      ∃ u j, exec .timeCode s = .next ((Config.upsets s.fresh).foldl State.struck u) ∧ u.clus.get? c.toNat = some j ∧
        (u.tb.code.toNat < a.1.toNat → j.frozen = k.frozen ∧ j.trigSeen = k.trigSeen) ∧
        (a.1.toNat ≤ u.tb.code.toNat → (∀ b ∈ rest, u.tb.code.toNat < b.1.toNat) → j.trigSeen = k.trigSeen + 1 ∧
          (a.2 = 0 → j.frozen = true ∧ j.cnt = k.cnt) ∧ (a.2 = 1 → j.frozen = false) ∧
          (a.2 = 2 → j.frozen = false ∧ ∀ n, n < 8 → freeEvent (k.csel.get n 0).toNat = false → k.csel.get n 0 ≠ 0x0E → j.cnt.get n 0 = 0))) ∧
    (s.pw.on = true → (s.clu c).runs = true → ∃ t, exec (.triggerAction c) s = .next t ∧ t.clu c = s.island c ∧
      (∀ j, j ≠ c → t.clu j = s.clu j) ∧ t.cores = s.cores ∧ t.dg.trigMark = max s.dg.trigMark (s.island c).trigSeen ∧
      ∀ a, s.dg.acts[s.dg.trigMark]? = some a → (s.island c).trigSeen = s.dg.trigMark + 1 → s.dg.tr.length < 4096 →
        s.dg.trHi = some ((a.1 >>> 32).setWidth 32) →
        t.dg.tr = s.dg.tr ++ [{ words := [2, a.2.setWidth 32, a.1.setWidth 32, (a.1 >>> 32).setWidth 32, 0, 0, 0, 0], pois := 0, gap := false }]) ∧
    ((s.clu c).runs = false → exec (.triggerAction c) s = .next s)

/-- The two FIFOs (R22, R403, R409, R410). A read of the pop register takes the head entry, latches its words and completes with its first
bytes, and of an empty FIFO sets UNDER and completes with the words delivered last; a sample of a selected, running island counts in
DG_PCS_TOTAL with an entry that names the group sampled and why it stands; a waiting watch record enters the trace FIFO and counts in
DG_TR_TOTAL. Where the spec leaves it open, the clauses follow the model's choice: log entries 5, 36. -/
def Rules.DebugFifos : Prop :=
  ∀ (s : State) (c : Clu) (did : DescId) (rowg : BitVec 16) (n : RdSize),
    let gives (t : State) (ws : List Word) : Prop := { t with dg := s.dg, host := s.host } = s ∧ t.host.cplSt = .ok ∧
      t.host.cpl = ((ws.map (toBytes 4)).flatten).take n.bytes
    (s.dgOpen = true → ∀ e rest, s.dg.pcs = e :: rest → ∃ t, exec (.dgPcsPop0 n) s = .next t ∧ gives t e.words ∧ t.dg.pcs = rest ∧
      t.dg.pcsPop = e.words) ∧
    (s.dgOpen = true → s.dg.pcs = [] → ∃ t, exec (.dgPcsPop0 n) s = .next t ∧ gives t s.dg.pcsPop ∧ t.dg = { s.dg with pcsUnder := true }) ∧
    (s.dgOpen = true → ∀ e rest, s.dg.tr = e :: rest → ∃ t, exec (.dgTrPop0 n) s = .next t ∧ gives t e.words ∧ t.dg.tr = rest ∧
      t.dg.trPop = e.words ∧ t.dg.trPois = e.pois) ∧
    (s.dgOpen = true → s.dg.tr = [] → ∃ t, exec (.dgTrPop0 n) s = .next t ∧ gives t s.dg.trPop ∧ t.dg = { s.dg with trUnder := true }) ∧
    (s.dgOpen = true → s.dg.selects c = true → (s.clu c).runs = true → s.dg.pcs.length < 16383 → s.dg.pcsAt ≠ some s.tb.now →
      ∀ i m gr, i < 64 → m < 16 → (∀ j, j < 64 → ((s.core (BitVec.ofNat 20 (64 * c.toNat + j))).launch.isSome = true ↔ j = i)) →
        let k := s.core (BitVec.ofNat 20 (64 * c.toNat + i))
        k.started = true → k.groups.get? m = some gr → gr.fin = false → (∀ j h, j < 16 → k.groups.get? j = some h → h.fin = false → j = m) →
        ∃ t e, exec (.pcSample c) s = .next t ∧ t.dg.pcs.getLast? = some e ∧ e.words.take 1 = [gr.pc.setWidth 32] ∧
          fieldN (e.words.getD 1 0) 0 16 = fieldN gr.pc 32 16 ∧ fieldN (e.words.getD 1 0) 24 4 = m ∧
          (let why := fieldN (e.words.getD 1 0) 28 4;
            (∃ r ∈ s.reasons ⟨BitVec.ofNat 20 (64 * c.toNat + i), BitVec.ofNat 4 m⟩ gr, why = r.toNat) ∧
            (gr.wait ≠ .run → why = 1 ∨ why = 9) ∧ (why = 0 → k.lastV.toNat = m ∨ k.lastS.toNat = m)) ∧
          e.words.getD 2 0 = BitVec.ofNat 32 (64 * c.toNat + i) ∧
          t.dg.pcsTotal = s.dg.pcsTotal + 1 ∧ t.mem = s.mem ∧ t.cores = s.cores) ∧
    (∀ r, (s.dg.waiting.find? fun y => y.desc == did && y.rowg == rowg) = some r → s.dg.tr.length < 4095 → s.dg.trHi = some r.hi →
      ∃ t, exec (.watchRecord did rowg) s = .next t ∧ { t with dg := s.dg } = s ∧
        t.dg.tr = s.dg.tr ++ [{ words := r.words, pois := 0, gap := false }] ∧ t.dg.trTotal = s.dg.trTotal + 1 ∧
        t.dg.waiting = s.dg.waiting.erase r)

/-! ### The host port -/

/-- BAR4 (R165, R416, R451): a write within a line puts its bytes at HBM offset BASE + o and leaves the line's other bytes, a read returns
the view's bytes; a request into a reserved offset or the closed golden region completes as Unsupported Request and changes no memory;
outside READY reads return ones and writes are discarded. Where the spec leaves it open, the clauses follow the model's choice: log
entries 8, 51. -/
def Rules.HostMemory : Prop :=
  ∀ (s : State) (off len : Nat) (bytes : List Byte),
    let a : Nat := s.fe.hwin.toNat + off
    let at_ (s : State) (x : Nat) : Byte := (s.view (x / 128)).data.extractLsb' (8 * (x % 128)) 8
    s.portOpen = true → s.host.waiting = [] → off + bytes.length ≤ 2 ^ s.host.barLog → off + len ≤ 2 ^ s.host.barLog → bytes ≠ [] → 0 < len →
    (s.bar4Open = false → exec (.hostBar4Write off bytes false) s = .next s ∧
      ∃ t, exec (.hostBar4Read off len) s = .next t ∧ t.host.cpl = List.replicate len 0xFF ∧ { t with host := s.host } = s) ∧
    (s.bar4Open = true → s.openRange a bytes.length = false → ∃ t, exec (.hostBar4Write off bytes false) s = .next t ∧
      { t with host := s.host } = s ∧ t.host.cplSt = .ur) ∧
    (s.bar4Open = true → s.openRange a len = false → ∃ t, exec (.hostBar4Read off len) s = .next t ∧ { t with host := s.host } = s ∧
      t.host.cplSt = .ur ∧ t.host.cpl = []) ∧
    (s.bar4Open = true → s.openRange a bytes.length = true → s.rangeRests a bytes.length = false → exec (.hostBar4Write off bytes false) s =
      .next { s with host := { s.host with waiting := [.write a bytes false] } }) ∧
    (s.bar4Open = true → s.openRange a bytes.length = true → s.rangeRests a bytes.length = true →
      a % 128 + bytes.length ≤ 128 → s.holders (a / 128) = [] → (s.dirOf (a / 128)).dst = .unc → (s.dirOf (a / 128)).bad = false → (s.chanOf (a / 128)).stopped = false →
      ∃ t, exec (.hostBar4Write off bytes false) s = .next t ∧ t.clus = s.clus ∧ t.ws = s.ws ∧
        (∀ i b, bytes[i]? = some b → at_ t (a + i) = b) ∧
        (∀ x, x / 128 = a / 128 → (x < a ∨ a + bytes.length ≤ x) → at_ t x = at_ s x)) ∧
    (s.bar4Open = true → s.openRange a len = true → s.rangeRests a len = true →
      (∀ l ∈ linesOf a len, (s.dirOf l).dst = .unc ∧ (s.dirOf l).bad = false ∧ (s.chanOf l).stopped = false ∧
        (s.homeOfLine l).waitingWrites l = [] ∧ ((s.homeOfLine l).reps.find? fun r => r.line == l) = none) →
      (a % 128 + len ≤ 128 ∨ ∀ l ∈ linesOf a len, ((s.homeOfLine l).cached l).isSome = true) →
      ∃ t, exec (.hostBar4Read off len) s = .next t ∧ t.mem = s.mem ∧ t.clus = s.clus ∧ t.host.cpl = (List.range len).map fun i => at_ s (a + i))

/-- FE_HWIN and BAR4's size (R451): a base that is no multiple of the size, or whose window would end beyond 16 TiB, is rejected with
E_RANGE and BASE unchanged; a resize makes BASE 0. PERST# resets the port and its configuration alone, and in stage 1 or 2 empties the
boot window (R417). A configuration request is retried until the port first answers (R416). Where the spec leaves it open, the clauses
follow the model's choice: log entries 51, 60. -/
def Rules.HostWindow : Prop :=
  ∀ (s : State) (v : BitVec 64) (lg : BitVec 6) (off : BitVec 12) (w : Option Word),
    let base := 2 ^ 30 * fieldN v 30 14
    let size := 2 ^ s.host.barLog
    (s.bar2Open = true → base % size = 0 → base + size ≤ 2 ^ 44 → ∃ t, exec (.feHwinWrite v) s = .next t ∧ { t with fe := s.fe } = s ∧
      t.fe.hwin.toNat = base ∧ { t.fe with hwin := s.fe.hwin } = s.fe) ∧
    (s.bar2Open = true → (base % size ≠ 0 ∨ 2 ^ 44 < base + size) → ∃ t, exec (.feHwinWrite v) s = .next t ∧ { t with fe := s.fe } = s ∧
      t.fe.hwin = s.fe.hwin ∧ t.fe.hwinErrV = true ∧ (s.fe.hwinErrV = false → t.fe.hwinErrCode = 0x0104)) ∧
    (s.pw.on = true → s.host.answers = true → 30 ≤ lg.toNat → lg.toNat ≤ 44 → ∃ t, exec (.bar4Resize lg) s = .next t ∧ t.host.barLog = lg.toNat ∧ t.fe.hwin = 0 ∧
      { t with host := s.host, fe := s.fe } = s ∧ t.fe.hwinErrV = s.fe.hwinErrV ∧ t.fe.hwinErrCode = s.fe.hwinErrCode) ∧
    (s.pw.on = true → ∃ t, exec .perst s = .next t ∧ t.host.answers = false ∧ t.host.barLog = 36 ∧
      t.host.d3hot = false ∧ t.host.devCtl = 0 ∧ t.host.bars = .empty ∧ t.mem = s.mem ∧ t.cores = s.cores ∧ t.queues = s.queues ∧
      t.eng = s.eng ∧ (s.primary.stage ≠ 1 → s.primary.stage ≠ 2 → t.west.stage = s.west.stage ∧ t.east.stage = s.east.stage) ∧
      (s.primary.stage = 1 ∨ s.primary.stage = 2 → t.west.stage = 1 ∧ t.east.stage = 1 ∧ t.west.window = ⟨[]⟩ ∧ t.east.window = ⟨[]⟩)) ∧
    (s.pw.on = true → s.host.answers = false → ∃ t, exec (.configRequest off w) s = .next t ∧ t.host.cplSt = .crs ∧ { t with host := s.host } = s) ∧
    (s.pw.on = true → s.host.answers = true → off.toNat < 4 → ∃ t, exec (.configRequest off none) s = .next t ∧ t.host.cplSt = .ok ∧
      t.host.cpl = toBytes 4 (0x0A011F7E : Word) ∧ t.mem = s.mem) ∧
    (s.bar2Open = true → s.eng.mst = 0 → ∃ t u, exec (.feKvpWrite false v) s = .next t ∧ exec (.feKvpWrite true v) s = .next u ∧
      t = { s with fe := { s.fe with kvpBase := v.setWidth 48 &&& 0xFFFFFFFF0000#48 } } ∧
      u = { s with fe := { s.fe with kvpNpage := v.setWidth 32 } }) ∧
    (s.bar2Open = true → s.eng.mst ≠ 0 → s.fe.hwV = false → ∃ t u, exec (.feKvpWrite false v) s = .next t ∧ exec (.feKvpWrite true v) s = .next u ∧
      t = { s with fe := { s.fe with hwV := true, hwBar := true, hwOff := 0x4000, hwCode := 0x0104 } } ∧
      u = { s with fe := { s.fe with hwV := true, hwBar := true, hwOff := 0x4008, hwCode := 0x0104 } })

/-- The configuration space (R448 to R452): the class and revision, the size and type that each BAR shows when all ones are written to it,
D3hot, in which the port carries no memory request, and the registers of the capability structures, wherever the device has them. The
layout within a structure is that of PCI Express and no word of the spec's. Where the spec leaves it open, the clauses follow the model's
choice: log entry 51. -/
def Rules.ConfigurationSpace : Prop :=
  ∀ (s : State) (off : BitVec 12) (v : Word) (i : Nat), s.pw.on = true → s.host.answers = true →
    let o := off.toNat / 4 * 4
    let cap (r : CfgReg) : Bool := 0x40 ≤ o && cfgRegAt o == some r
    (o = 8 → ∃ t, exec (.configRequest off none) s = .next t ∧ t.host.cplSt = .ok ∧ t.host.cpl = toBytes 4 (0x12000000 : Word) ∧ t.mem = s.mem) ∧
    (i < 6 → o = 0x10 + 4 * i → ∃ t u, exec (.configRequest off (some 0xFFFFFFFF)) s = .next t ∧ exec (.configRequest off none) t = .next u ∧
      u.host.cplSt = .ok ∧ u.host.cpl = toBytes 4 (match i with
        | 0 => 0xFC000004
        | 2 => 0xFF000004
        | 4 => BitVec.ofNat 32 (if s.host.barLog < 32 then 2 ^ 32 - 2 ^ s.host.barLog else 0) ||| 0xC
        | 5 => BitVec.ofNat 32 (2 ^ 32 - 2 ^ (s.host.barLog - 32))
        | _ => (0xFFFFFFFF : Word))) ∧
    (∃ t, exec (.configRequest off (some v)) s = .next t ∧ t.host.cplSt = .ok ∧ t.mem = s.mem ∧ t.cores = s.cores ∧
      t.host.d3hot = (if cap .pmCtl = true ∧ (fieldN v 0 2 = 0 ∨ fieldN v 0 2 = 3) then decide (fieldN v 0 2 = 3) else s.host.d3hot) ∧
      t.host.devCtl = (if cap .devCtl then v.setWidth 16 else s.host.devCtl) ∧
      t.host.barLog = if cap .rebarCtl = true ∧ 10 ≤ fieldN v 8 6 ∧ fieldN v 8 6 ≤ 24 then 20 + fieldN v 8 6 else s.host.barLog) ∧
    (∃ t x, exec (.configRequest off none) s = .next t ∧ t.host.cplSt = .ok ∧ t.host.cpl = toBytes 4 (x : Word) ∧ t.mem = s.mem ∧
      (cap .devCap = true → fieldN x 0 3 = 2) ∧ (cap .devCtl = true → x.setWidth 16 = t.host.devCtl) ∧
      (cap .aerUnc = true → x.getLsbD 12 = t.host.aerPois ∧ x.getLsbD 20 = t.host.aerUr ∧ x.getLsbD 22 = t.host.aerInt) ∧
      (0x40 ≤ o → cfgRegAt o = none → x = 0)) ∧
    (s.host.d3hot = true → (∀ a bs p, exec (.hostBar4Write a bs p) s = .next s) ∧ ∀ a n, exec (.hostBar4Read a n) s = .next s)


/-! ### Queues and packets -/

/-- Doorbells and ring fetches (R165, R306, R307, R308, R331). A doorbell within the ring sets the write pointer and the latch, one beyond
it leaves both, and one to a queue that is not ACTIVE has no effect; while an earlier request of the host waits, it waits behind it. A
fetch takes the slot at the read pointer, which moves on by one, and a slot that fails translation makes the queue FAILED. A kernel queue
with work keeps every user queue from being fetched. Where the spec leaves it open, the clauses follow the model's choice: log entry 39.
-/
def Obligations.Doorbells : Prop :=
  ∀ (s : State) (q : QId) (w : Word),
    let x := s.queue q
    (s.host.waiting = [] → s.inHold = false → x.st = .active → (w - x.rptr).toNat ≤ 2 ^ x.rlog →
      ∃ t, exec (.doorbell q w) s = .next t ∧ t = s.setQueue q { x with wptr := w, latch := true }) ∧
    (s.host.waiting = [] → 2 ^ x.rlog < (w - x.rptr).toNat → ∃ t, exec (.doorbell q w) s = .next t ∧ (t.queue q).wptr = x.wptr ∧ (t.queue q).rptr = x.rptr ∧
      (t.queue q).latch = x.latch ∧ (t.queue q).done = x.done ∧ (t.queue q).pkts = x.pkts ∧ ∀ r, r ≠ q → t.queue r = s.queue r) ∧
    (s.host.waiting = [] → x.st ≠ .active → exec (.doorbell q w) s = .next s) ∧
    (∀ r rest, s.host.waiting = r :: rest → r.run s = none → exec (.doorbell q w) s =
      .next { s with host := { s.host with waiting := s.host.waiting ++ [.doorbell q w] } }) ∧
    (x.st = .active → x.latch = true → x.rptr = x.wptr → ∃ t, exec (.queueIdle q) s = .next t ∧ t = s.setQueue q { x with latch := false }) ∧
    (x.rptr ≠ x.wptr → exec (.queueIdle q) s = .next s) ∧
    (FrontEnd s → s.nextQueue = some q →
      let slot := x.rbase + 64 * (x.rptr.toNat % 2 ^ x.rlog)
      (∀ c u, s.vread x.asid slot 64 = .fail c u → ∃ t, exec (.ringFetch q) s = .next t ∧ t = u.setQueue q { x with st := .failed, code := c }) ∧
      (∀ b u, s.vread x.asid slot 64 = .ok b u → ∃ t, exec (.ringFetch q) s = .next t ∧
        t.queue q = { x with rptr := x.rptr + 1, pkts := x.pkts ++ [{ Pkt.init with
          ep := x.ep, asid := x.asid, num := x.rptr, words := wordsOf b.data 16, pois := b.anyPois, serial := u.fe.fetchSerial }] } ∧
        t.fe.qfetch = u.fe.qfetch + 1 ∧ t.mem = u.mem ∧ ∀ r, r ≠ q → t.queue r = u.queue r)) ∧
    (∀ k u : Nat, 0x4000 ≤ k → k < 0x4008 → u < 0x4000 → k ∈ s.queues.keys →
      (∀ e ∈ s.queues.entries, e.1 = k → e.2.fetches = true) → exec (.ringFetch (BitVec.ofNat 16 u)) s = .next s)

/-- The checks of a fetched packet in their order, on the first fetched packet of a queue (R309, R310, R311). Where the spec leaves it
open, the clauses follow the model's choice: log entry 37. -/
def Rules.PacketChecks : Prop :=
  ∀ (s : State) (q : QId) (p : Pkt),
    let x := s.queue q
    let ends (c : Code) : Prop := ∃ t, exec (.packetCheck q) s = .next t ∧ Ends s t q p c p.seqResult
    let opcodes : List Nat := [0x01, 0x02, 0x03, 0x04, 0x05, 0x06, 0x10, 0x11, 0x12, 0x18, 0x19, 0x1A, 0x1B, 0x20, 0x21, 0x22, 0x23, 0x24]
    FrontEnd s → (x.pkts.find? fun y => y.st == .fetched && x.runs y && !s.heldPkt y) = some p →
    (p.pois = true → ends 0x0301) ∧
    (p.pois = false → bits (p.w 0) 8 4 ≠ x.ver → ends 0x0102) ∧
    (p.pois = false → bits (p.w 0) 8 4 = x.ver → p.opcode ∉ opcodes → ends 0x0101) ∧
    (p.pois = false → bits (p.w 0) 8 4 = x.ver → p.opcode ∈ opcodes → isKernelQ q = false → (0x10 ≤ p.opcode ∨ p.opcode = 3) → ends 0x0103) ∧
    (p.pois = false → bits (p.w 0) 8 4 = x.ver → p.opcode = 6 → (p.f 0 24 8 ≠ 4 ∨ p.w 1 ≠ 0) → ends 0x0104) ∧
    (p.pois = false → bits (p.w 0) 8 4 = x.ver → p.opcode = 6 → p.f 0 24 8 = 4 → p.f 0 14 2 = 0 → p.f 0 16 8 = 0 → p.w 1 = 0 →
      (∀ i, 3 ≤ i → i < 16 → p.w i = 0) → ∃ t, exec (.packetCheck q) s = .next t ∧
        t = s.setQueue q { x with pkts := x.pkts.map fun z => if z.serial = p.serial then { z with st := .accepted } else z }) ∧
    (∀ u, s.checkPkt q p = .ok 0 u → ∃ t, exec (.packetCheck q) s = .next t ∧ ∀ z ∈ (t.queue q).pkts, z.serial = p.serial → z.st = .accepted)

/-- Retirement and replies (R332, R333, R334). The oldest packet of a queue epoch retires once it has ended and DB_DONE counts it; a quiet
success leaves no entry, and any other gets one, in the next slot of the reply page, or at a full FIFO the newest entry becomes a gap
marker. A success counts for its space. Of a destroyed queue's packet only FE_QSTALE counts. A read of DB_REPLY0 completes with the head
entry's first bytes, removes it and latches its words; on an empty FIFO it repeats the last word delivered and sets UNDERRUN. Where the
spec leaves it open, the clauses follow the model's choice: log entries 38, 39. -/
def Rules.Replies : Prop :=
  ∀ (s : State) (q : QId) (n : RdSize),
    let x := s.queue q
    let ended : Option Pkt := x.pkts.find? fun y => y.st == .done && (x.before y).isEmpty
    let head := x.rply + 16 * (x.fhead % 256)
    let bytesAt (t : State) (slot : Nat) (ws : List Word) : Prop := ∀ i b, (unwords ws)[i]? = some b → t.byteAt (slot + i) = b
    (∀ p, s.inHold = false → s.fe.rstBusy = false → ended = some p →
      let rest := x.pkts.filter fun y => y.serial != p.serial
      let slot := x.rply + 16 * ((x.fhead + x.fcount) % 256)
      let newest := x.rply + 16 * ((x.fhead + 255) % 256)
      let silent : Prop := p.quiet = true ∧ p.code = 0 ∧ p.stat = 0
      let words : List Word := [place 32 24 (BitVec.ofNat 8 p.opcode) ||| place 32 20 p.ntok ||| place 32 16 p.stat ||| place 32 0 p.code,
        p.tag, (x.done + 1).setWidth 32, p.result]
      (p.ep = x.ep → silent → ∃ t, exec (.packetRetire q) s = .next t ∧ t.queue q = { x with pkts := rest, done := x.done + 1 } ∧
        t.mem = s.mem ∧ t.homes = s.homes ∧ ∀ sp, s.spaces.get? x.asid.toNat = some sp →
          t.spaces = s.spaces.put x.asid.toNat { sp with pkts := sp.pkts + 1 }) ∧
      (p.ep = x.ep → ¬silent → x.asid = 0 → x.fcount < 256 → PlainBytes s slot 16 →
        ∃ t, exec (.packetRetire q) s = .next t ∧
          t.queue q = { x with pkts := rest, done := x.done + 1, fcount := x.fcount + 1, gapTop := false,
                               head := if x.fcount = 0 then some ⟨words, 0⟩ else x.head } ∧
          (p.code ≠ 0 → t.spaces = s.spaces) ∧ bytesAt t slot words) ∧
      (p.ep = x.ep → ¬silent → x.asid = 0 → 256 ≤ x.fcount → x.gapTop = false → PlainBytes s newest 16 →
        ∃ t, exec (.packetRetire q) s = .next t ∧
          t.queue q = { x with pkts := rest, done := x.done + 1, gapTop := true, gap := true } ∧
          bytesAt t newest [0x0107, 0, (x.done + 1).setWidth 32, 0]) ∧
      (p.ep = x.ep → ¬silent → 256 ≤ x.fcount → x.gapTop = true → ∃ t, exec (.packetRetire q) s = .next t ∧
        t.queue q = { x with pkts := rest, done := x.done + 1 } ∧ t.mem = s.mem ∧ t.homes = s.homes) ∧
      (p.ep ≠ x.ep → ¬silent → ∃ t, exec (.packetRetire q) s = .next t ∧ t.queue q = { x with pkts := rest } ∧
        { t with queues := s.queues, fe := s.fe } = s ∧ t.fe = { s.fe with qstale := satAdd s.fe.qstale 1 })) ∧
    (ended = none → exec (.packetRetire q) s = .next s) ∧
    (s.host.waiting = [] → s.inHold = false → s.ready = true → (s.fe.rstBusy = false ∨ isUserQ q = false) →
      (x.fcount = 0 → ∃ t, exec (.dbReply0Pop q n) s = .next t ∧
        t = (s.setQueue q { x with underrun := true }).complete .ok ((unwords x.reply).take n.bytes)) ∧
      (∀ h, 0 < x.fcount → x.head = some h → ∃ t, exec (.dbReply0Pop q n) s = .next t ∧ (t.queue q).fcount = x.fcount - 1 ∧
        (t.queue q).fhead = x.fhead + 1 ∧ (t.queue q).pkts = x.pkts ∧ (t.queue q).reply = h.words ∧ (t.queue q).poisTag = h.pois ∧
        t.host.cplSt = .ok ∧ t.host.cpl = (unwords h.words).take n.bytes) ∧
      (0 < x.fcount → x.head = none → x.asid = 0 → PlainBytes s head 16 → ∃ t, exec (.dbReply0Pop q n) s = .next t ∧
        (t.queue q).fcount = x.fcount - 1 ∧ (t.queue q).fhead = x.fhead + 1 ∧ (t.queue q).pkts = x.pkts ∧
        (t.queue q).reply = wordsOf ((List.range 16).map fun i => s.byteAt (head + i)) 4 ∧
        ((s.view (head / 128)).pois = 0 → (t.queue q).poisTag = 0))) ∧
    (s.host.waiting = [] → s.inHold = false → s.ready = true → s.fe.rstBusy = true → isUserQ q = true →
      exec (.dbReply0Pop q n) s = .next (s.complete .ok (List.replicate n.bytes 0xFF))) ∧
    (s.host.waiting = [] → (s.inHold = true ∨ s.ready = false) →
      exec (.dbReply0Pop q n) s = .next (s.complete .ok (List.replicate n.bytes 0)))

/-- A kernel queue is set up by its own pages (R305), which BAR2 maps from READY on (R416): DB_KCFG.EN makes it ACTIVE with its pointers 0
when the configuration passes its checks, a configuration that fails writes DB_QSTAT.CODE and leaves the queue, EN = 0 frees it, and EN =
1 for a queue that is enabled or that is not FREE changes nothing and is recorded in FE_HWERR (R389). Where the spec leaves it open, the
clauses follow the model's choice: log entry 43. -/
def Rules.KernelQueues : Prop :=
  ∀ (s : State) (q : QId) (v : Word),
    let x := s.queue q
    let rlog := fieldN v 16 5
    let sound : Prop := 6 ≤ rlog ∧ rlog ≤ 16 ∧ x.kbase.toNat % 4096 = 0 ∧ x.krply.toNat % 4096 = 0
    ((isKernelQ q = false ∨ s.ready = false) → exec (.dbKcfgEn q v) s = .next s) ∧
    (isKernelQ q = true → s.inHold = false → s.ready = true → bitAt v 31 = true → (x.ken = true ∨ x.st ≠ .free) → ∃ t, exec (.dbKcfgEn q v) s = .next t ∧
      t = if s.fe.hwV then s else { s with fe := { s.fe with
        hwV := true, hwBar := true, hwOff := BitVec.ofNat 26 (0x80090 + 0x1000 * (q.toNat - 0x4000)), hwCode := 0x0104 } }) ∧
    (isKernelQ q = true → s.inHold = false → s.ready = true → x.ken = false → x.st = .free → bitAt v 31 = true →
      (¬sound → ∃ t, exec (.dbKcfgEn q v) s = .next t ∧ t = s.setQueue q { x with code := 0x0104 }) ∧
      (sound → bits v 24 4 ≠ 1 → ∃ t, exec (.dbKcfgEn q v) s = .next t ∧ t = s.setQueue q { x with code := 0x0102 }) ∧
      (sound → bits v 24 4 = 1 → (s.openRange x.kbase.toNat (64 * 2 ^ rlog) = false ∨ s.openRange x.krply.toNat 4096 = false) →
        ∃ t, exec (.dbKcfgEn q v) s = .next t ∧ t = s.setQueue q { x with code := 0x0302 }) ∧
      (sound → bits v 24 4 = 1 → s.openRange x.kbase.toNat (64 * 2 ^ rlog) = true → s.openRange x.krply.toNat 4096 = true →
        ∃ t, exec (.dbKcfgEn q v) s = .next t ∧ { t with queues := s.queues } = s ∧ (∀ r, r ≠ q → t.queue r = s.queue r) ∧
          let y := t.queue q
          y.ken = true ∧ y.st = .active ∧ y.code = 0 ∧ y.asid = 0 ∧ y.rlog = rlog ∧ y.rbase = x.kbase.toNat ∧ y.rply = x.krply.toNat ∧
            y.wptr = 0 ∧ y.rptr = 0 ∧ y.done = 0 ∧ y.fcount = 0 ∧ y.head = none ∧ y.latch = false ∧ y.wlim = 1000000 ∧ y.ep = x.ep + 1)) ∧
    (isKernelQ q = true → s.inHold = false → s.ready = true → (x.ken = true ∨ x.st ≠ .free) → bitAt v 31 = false → ∃ t, exec (.dbKcfgEn q v) s = .next t ∧
      (t.queue q).st = .free ∧ (t.queue q).ken = false ∧ (t.queue q).ep = x.ep + 1 ∧ (t.queue q).fcount = 0 ∧ (t.queue q).head = none ∧
      ∀ r, r ≠ q → t.queue r = s.queue r) ∧
    (isKernelQ q = true → s.inHold = false → s.ready = true → x.ken = false → x.st = .free → bitAt v 31 = false →
      exec (.dbKcfgEn q v) s = .next (s.setQueue q { x with kver := bits v 24 4, krlog := bits v 16 5 }))

/-- QUEUE_CREATE, QUEUE_DESTROY and QUEUE_LIMIT (R302, R303, R324, R366). A new queue takes the lowest free id and its RESULT names id and
epoch; a destroyed one is FREE with its epoch advanced; a limit of 0 is the default of 1,000,000 µs. Where the spec leaves it open, the
clauses follow the model's choice: log entry 38. -/
def Rules.QueuePackets : Prop :=
  ∀ (s : State) (q : QId) (p : Pkt),
    let a : Asid := bits (p.w 1) 0 16
    let id : QId := bits (p.w 4) 0 16
    let y := s.queue id
    let named : Prop := y.st ≠ .free ∧ y.ep = bits (p.w 4) 16 8
    let fails (i : Instr) (c : Code) : Prop := ∃ t, exec i s = .next t ∧ Ends s t q p c 0
    (s.starting q 0x10 = some p →
      (p.f 1 28 4 ≠ 1 → fails (.queueCreate q) 0x0102) ∧
      (p.f 1 28 4 = 1 → s.spaces.has a.toNat = false → fails (.queueCreate q) 0x0104) ∧
      (∀ u k, p.f 1 28 4 = 1 → s.spaces.has a.toNat = true → s.ringOk a (p.va 4) (p.va 6) (p.f 1 16 5) = .ok () u → k < 0x4000 →
        (u.queue (BitVec.ofNat 16 k)).st = .free → (∀ j, j < k → (u.queue (BitVec.ofNat 16 j)).st ≠ .free) →
        ∃ t, exec (.queueCreate q) s = .next t ∧
          Answered t q p.serial 0 (place 32 16 (u.queue (BitVec.ofNat 16 k)).ep ||| BitVec.ofNat 32 k) ∧
          let x := t.queue (BitVec.ofNat 16 k)
          x.st = .active ∧ x.asid = a ∧ x.rlog = p.f 1 16 5 ∧ x.rbase = p.va 4 ∧ x.rply = p.va 6 ∧ x.wptr = 0 ∧ x.rptr = 0 ∧ x.done = 0 ∧
            x.fcount = 0 ∧ x.head = none ∧ x.wlim = (if p.w 8 = 0 then 1000000 else p.w 8)) ∧
      (∀ u, p.f 1 28 4 = 1 → s.spaces.has a.toNat = true → s.ringOk a (p.va 4) (p.va 6) (p.f 1 16 5) = .ok () u →
        (∀ j, j < 0x4000 → (u.queue (BitVec.ofNat 16 j)).st ≠ .free) → ∃ t, exec (.queueCreate q) s = .next t ∧ Ends u t q p 0x0105 0)) ∧
    (s.starting q 0x11 = some p →
      (¬named → fails (.queueDestroy q) 0x0104) ∧
      (named → isUserQ id = false → fails (.queueDestroy q) 0x0104) ∧
      (named → isUserQ id = true → (∀ z ∈ s.eng.psteps, z.serial ≠ p.serial) → ∃ t, exec (.queueDestroy q) s = .next t ∧
        Answered t q p.serial 0 0 ∧ (t.queue id).st = .free ∧ (t.queue id).ep = y.ep + 1 ∧ (t.queue id).fcount = 0 ∧ (t.queue id).head = none ∧
        (∀ r, r ≠ q → r ≠ id → t.queue r = s.queue r) ∧ ∀ z ∈ t.eng.psteps, z.queue ≠ id)) ∧
    (s.starting q 0x12 = some p →
      (¬named → fails (.queueLimit q) 0x0104) ∧
      (named → ∃ t, exec (.queueLimit q) s = .next t ∧ Answered t q p.serial 0 0 ∧
        (t.queue id).wlim = (if p.w 5 = 0 then 1000000 else p.w 5) ∧ ∀ r, r ≠ q → r ≠ id → t.queue r = s.queue r))

/-- AS_CREATE, AS_EDIT, AS_DESTROY and KV_QUOTA (R324, R330, R338, R345, R346). An edit list is applied whole or not at all; an edit waits
until the pages of the space's queues can be walked, and an edit or a destruction while a packet of the space is under way, and then drops
the space's cached translations. Where the spec leaves it open, the clauses follow the model's choice: log entries 38, 40. -/
def Obligations.SpacePackets : Prop :=
  ∀ (s : State) (q : QId) (p : Pkt),
    let a : Asid := bits (p.w 1) 0 16
    let sp := s.spaces.get? a.toNat
    let fails (i : Instr) (c : Code) : Prop := ∃ t, exec i s = .next t ∧ Ends s t q p c 0
    (s.starting q 0x18 = some p →
      (s.spaces.has a.toNat = true → fails (.asCreate q) 0x0104) ∧
      (s.spaces.has a.toNat = false → ∃ t, exec (.asCreate q) s = .next t ∧ Done s t q p 0 0 0 0 ∧
        { t with queues := s.queues, spaces := s.spaces } = s ∧
        t.spaces = s.spaces.put a.toNat { Space.init with root := BitVec.ofNat 48 (p.va 4), quota := p.w 6 })) ∧
    (s.starting q 0x1A = some p →
      ((a = 0 ∨ s.spaces.has a.toNat = false ∨ s.queuesOf a ≠ 0 ∨ s.seqsOf a ≠ 0) → fails (.asDestroy q) 0x0104) ∧
      (a ≠ 0 → s.spaces.has a.toNat = true → s.queuesOf a = 0 → s.seqsOf a = 0 →
        (s.quiet a = false → exec (.asDestroy q) s = .next s) ∧
        (s.quiet a = true → ∃ t, exec (.asDestroy q) s = .next t ∧ Done s t q p 0 0 0 0 ∧ t.spaces = s.spaces.del a.toNat ∧ t.mem = s.mem ∧
          ∀ e, e ∈ t.fe.xc ↔ e ∈ s.fe.xc ∧ e.asid ≠ a))) ∧
    (s.starting q 0x1B = some p →
      (sp = none → fails (.kvQuota q) 0x0104) ∧
      (∀ x, sp = some x → ∃ t, exec (.kvQuota q) s = .next t ∧ Done s t q p 0 0 0 0 ∧ { t with queues := s.queues, spaces := s.spaces } = s ∧
        t.spaces = s.spaces.put a.toNat { x with quota := p.w 4 })) ∧
    (s.starting q 0x19 = some p →
      ((sp = none ∨ a = 0) → fails (.asEdit q) 0x0104) ∧
      (∀ x b u, sp = some x → a ≠ 0 → s.vread 0 (p.va 4) (16 * (p.w 6).toNat) = .ok b u → b.anyPois = false →
        let run := (editsOf b.data (p.w 6).toNat).foldl (fun (r : Acc Unit) e => r.bind fun _ v => v.edit x.root.toNat e) (.ok () u)
        let waits (v : State) : Bool := u.walksWait x.root.toNat (u.queuePages a) || v.walksWait x.root.toNat (u.queuePages a)
        (∀ c w, run = .fail c w → ∃ t, exec (.asEdit q) s = .next t ∧ Ends u t q p c 0) ∧
        (∀ v, run = .ok () v → waits v = true → exec (.asEdit q) s = .next s) ∧
        (∀ v, run = .ok () v → waits v = false → (∃ z ∈ u.queuePages a, u.walked x.root.toNat z ≠ v.walked x.root.toNat z) →
          ∃ t, exec (.asEdit q) s = .next t ∧ Ends u t q p 0x0104 0) ∧
        (∀ v, run = .ok () v → waits v = false → (∀ z ∈ u.queuePages a, u.walked x.root.toNat z = v.walked x.root.toNat z) →
          (s.quiet a = false → exec (.asEdit q) s = .next s) ∧
          (s.quiet a = true → ∃ t, exec (.asEdit q) s = .next t ∧ Done v t q p 0 0 0 0 ∧ t.mem = v.mem ∧ t.homes = v.homes ∧
            ∀ e ∈ t.fe.xc, e.asid ≠ a))))

/-- STEP, COPY, LAUNCH and NOP (R313 to R319, R323). A STEP that passes waits with the step engine, in fetch order; a COPY leaves the
source's bytes at the destination and every other byte of its line; an image that fails its check (R131, R135) runs on no core and is
recorded; a NOP ends when it starts. Where the spec leaves it open, the clauses follow the model's choice: log entries 8, 37, 41, 68. -/
def Obligations.WorkPackets : Prop :=
  ∀ (s : State) (q : QId) (p : Pkt),
    let fails (i : Instr) (c : Code) : Prop := ∃ t, exec i s = .next t ∧ Ends s t q p c p.seqResult
    let pends (e e1 : Engine) (y : PStep) : Prop := ∃ a b, e.psteps = a ++ b ∧ e1 = { e with psteps := a ++ y :: b } ∧
      (∀ z ∈ a, z.serial ≤ y.serial) ∧ ∀ z, b.head? = some z → y.serial < z.serial
    let n := (p.w 3).toNat
    let src := p.va 4
    let dst := p.va 6
    (s.starting q 0x06 = some p → ∃ t, exec (.nop q) s = .next t ∧ Ends s t q p 0 0) ∧
    (s.starting q 0x01 = some p →
      (s.modelState = 3 → fails (.step q) 0x0301) ∧
      (s.modelState ≠ 3 → s.modelState ≠ 2 → fails (.step q) 0x0104) ∧
      (s.modelState = 2 → s.eng.prog = none → s.eng.nextProg = none → fails (.step q) 0x0104) ∧
      (s.modelState = 2 → (s.eng.prog ≠ none ∨ s.eng.nextProg ≠ none) → p.f 1 30 2 ≠ 1 →
        let seq := s.eng.findSeq p.asid (bits (p.w 3) 0 24) (bits (p.w 3) 24 8)
        (seq = none → fails (.step q) 0x0104) ∧
        (seq ≠ none → ∃ t y, exec (.step q) s = .next t ∧ pends s.eng t.eng y ∧ y.queue = q ∧
          y.serial = p.serial ∧ y.kind = bits (p.w 1) 30 2 ∧ y.asid = p.asid ∧ y.id = bits (p.w 3) 0 24 ∧ y.ep = bits (p.w 3) 24 8 ∧
          Started t q p.serial ∧ t.mem = s.mem)) ∧
      (s.modelState = 2 → (s.eng.prog ≠ none ∨ s.eng.nextProg ≠ none) → p.f 1 30 2 = 1 → 130552 < (p.w 8).toNat → fails (.step q) 0x0104) ∧
      (s.modelState = 2 → (s.eng.prog ≠ none ∨ s.eng.nextProg ≠ none) → p.f 1 30 2 = 1 → (p.w 8).toNat ≤ 130552 →
        ∀ b u, s.vread p.asid (p.va 6) (4 * (p.w 8).toNat) = .ok b u → b.anyPois = false →
          (∀ w ∈ wordsOf b.data (p.w 8).toNat, fieldN w 0 24 < u.eng.vocab) → ∃ t y, exec (.step q) s = .next t ∧
            pends u.eng t.eng y ∧ y.kind = 1 ∧ y.serial = p.serial ∧
            y.prompt = (wordsOf b.data (p.w 8).toNat).map (bits · 0 24))) ∧
    (s.starting q 0x02 = some p →
      (n = 0 → ∃ t, exec (.copy q) s = .next t ∧ Ends s t q p 0 0) ∧
      (p.asid = 0 → PlainBytes s dst n → p.f 1 30 2 = 1 → ∃ t, exec (.copy q) s = .next t ∧ Answered t q p.serial 0 0 ∧
        (∀ i, i < n → t.byteAt (dst + i) = (p.w 8).extractLsb' (8 * (i % 4)) 8) ∧
        ∀ a, a / 128 = dst / 128 → (a < dst ∨ dst + n ≤ a) → t.byteAt a = s.byteAt a) ∧
      (p.asid = 0 → PlainBytes s src n → PlainBytes s dst n → p.f 1 30 2 = 0 → (s.view (src / 128)).pois = 0 →
        (s.homeOfLine (dst / 128)).rq = [] → (s.homeOfLine (dst / 128)).gq = [] →
        ∃ t, exec (.copy q) s = .next t ∧ Answered t q p.serial 0 0 ∧ (∀ i, i < n → t.byteAt (dst + i) = s.byteAt (src + i)) ∧
        ∀ a, a / 128 = dst / 128 → (a < dst ∨ dst + n ≤ a) → t.byteAt a = s.byteAt a)) ∧
    (s.starting q 0x03 = some p → q ≠ 0xFFFF →
      let la := p.launch q
      (la.placed = true → (s.modelReady = false ∨ s.placedShards la.layer la.role = []) → ∃ t, exec (.launch q) s = .next t ∧ Ends s t q p 0x0104 0) ∧
      (la.placed = false → ∀ r pc, s.checkImage la.entry la.valloc = .bad r pc → ∃ t, exec (.launch q) s = .next t ∧
        Done s t q p (reasonCode r) 0 0 0 ∧ t.launches = s.launches ∧ t.cores = s.cores ∧ t.mem = s.mem ∧
        (s.fe.lchkV = false → t.fe.lchkV = true ∧ t.fe.lchkReason = BitVec.ofNat 4 r ∧ t.fe.lchkCode = reasonCode r ∧
          t.fe.lchkPc = BitVec.ofNat 48 pc ∧ t.fe.lchkQ = q) ∧ (s.fe.lchkV = true → t.fe = s.fe)) ∧
      (la.placed = false → ∀ image u, s.checkImage la.entry la.valloc = .ok image u → u.imageFits { la with image := image } none = false →
        exec (.launch q) s = .next s) ∧
      (la.placed = false → ∀ image u b v, s.checkImage la.entry la.valloc = .ok image u → u.imageFits { la with image := image } none = true →
        (u.fillCaches { la with image := image }).vread 0 (p.va 6) 64 = .ok b v → b.anyPois = false → ∃ t, exec (.launch q) s = .next t ∧ Started t q p.serial ∧ t.cores = v.cores ∧
          t.launches = v.launches.put v.launchSerial { la with
            image := image, args := (wordsOf b.data 16).take 8 ++ [p.w 12, p.w 13, p.w 14, p.w 15] ++ (wordsOf b.data 16).drop 12 }))

/-- WAIT, its polls and its limit, and SIGNAL (R320, R321, R322). A fence whose value meets the condition ends the WAIT with its low word;
one that is not met by WLIMIT fails the queue with E_WAITTO and drops its later packets, and that of a destroyed queue fails none; SIGNAL
stores, adds or keeps the greater. Where the spec leaves it open, the clauses follow the model's choice: log entries 8, 39. -/
def Obligations.FencePackets : Prop :=
  ∀ (s : State) (q : QId) (p : Pkt),
    let x := s.queue q
    let ref := dwordAt p.words 6
    let met (v : BitVec 64) : Prop := if p.f 1 30 2 = 0 then ref.toNat ≤ v.toNat else if p.f 1 30 2 = 1 then v = ref else v ≠ ref
    let read (i : Instr) (u0 : State) : Prop := ∀ b u, u0.vread p.fenceSpace (p.va 4) 8 = .ok b u →
      let v : BitVec 64 := ofBytes 64 b.data
      (b.anyPois = true → ∃ t, exec i s = .next t ∧ Answered t q p.serial 0x0301 0) ∧
      (b.anyPois = false → met v → ∃ t, exec i s = .next t ∧ Answered t q p.serial 0 (v.setWidth 32)) ∧
      (b.anyPois = false → ¬met v → ∃ t, exec i s = .next t ∧ Started t q p.serial ∧ t.mem = u.mem ∧
        ∀ y ∈ (t.queue q).pkts, y.serial = p.serial → y.last = v)
    let plain : Prop := ∀ k, (s.queue k).waits = []
    let expired (y : Pkt) : Bool := decide (y.start.toNat + 1000 * y.wlim.toNat ≤ s.tb.now.toNat)
    (s.starting q 0x04 = some p → read (.wait q) (s.startPkt q p.serial)) ∧
    (s.inHold = false → s.fe.rstBusy = false → x.waits = [p] → (∀ y ∈ x.pkts, y.serial = p.serial → y = p) → read (.waitPoll q) s) ∧
    (∀ r, s.inHold = false → s.fe.rstBusy = false → x.waits = [r, p] → exec (.waitPoll q) s = .next ((s.waitRead q r).waitRead q p)) ∧
    (s.inHold = false → s.fe.rstBusy = false → x.waits.find? expired = some p → p.ep ≠ x.ep →
      ∃ t, exec (.waitTimeout q) s = .next t ∧ Ends s t q p 0x0106 (p.last.setWidth 32)) ∧
    (s.inHold = false → s.fe.rstBusy = false → x.waits.find? expired = some p → p.ep = x.ep →
      ∃ t, exec (.waitTimeout q) s = .next t ∧ Answered t q p.serial 0x0106 (p.last.setWidth 32) ∧ (t.queue q).st = .failed ∧
        (t.queue q).code = 0x0106 ∧ { t with queues := s.queues } = s ∧ (∀ r, r ≠ q → t.queue r = s.queue r) ∧
        ∀ y ∈ (t.queue q).pkts, y.ep = x.ep → y.serial ≤ p.serial) ∧
    (x.waits.find? expired = none → exec (.waitTimeout q) s = .next s) ∧
    (s.starting q 0x05 = some p → p.fenceSpace = 0 → p.va 4 % 8 = 0 → PlainBytes s (p.va 4) 8 → (s.view (p.va 4 / 128)).pois = 0 → plain →
      let old : BitVec 64 := ofBytes 64 ((List.range 8).map fun i => s.byteAt (p.va 4 + i))
      let new := if p.f 1 30 2 = 0 then ref else if p.f 1 30 2 = 1 then old + ref else if old.toNat < ref.toNat then ref else old
      ∃ t, exec (.signal q) s = .next t ∧ Answered t q p.serial 0 0 ∧
        (∀ i, i < 8 → t.byteAt (p.va 4 + i) = new.extractLsb' (8 * i) 8) ∧
        ∀ a, a / 128 = p.va 4 / 128 → (a < p.va 4 ∨ p.va 4 + 8 ≤ a) → t.byteAt a = s.byteAt a)

/-! ### Programs, descriptors and forward windows -/

/-- PROG_LOAD takes a program whose header and nodes pass R112 and R113 for the next step boundary, and leaves the one that runs (R110,
R112). Where the spec leaves it open, the clauses follow the model's choice: log entry 42. -/
def Rules.ProgramLoads : Prop :=
  ∀ (s : State) (q : QId) (p : Pkt), s.starting q 0x21 = some p →
    (s.modelReady = false → ∃ t, exec (.progLoad q) s = .next t ∧ Ends s t q p 0x0104 0) ∧
    ∀ h u b v, s.modelReady = true → s.vread p.asid (p.va 4) 64 = .ok h u → h.anyPois = false →
      let w := wordsOf h.data 16
      let n := fieldN (wordAt w 0) 0 16
      let maxseq := fieldN (wordAt w 0) 16 16
      let tree := fieldN (wordAt w 1) 0 8
      let pcol := fieldN (wordAt w 1) 8 8
      let sound : Prop := 1 ≤ maxseq ∧ maxseq ≤ 1024 ∧ tree ≤ 1 ∧ 1 ≤ pcol ∧ pcol ≤ 32 ∧ fieldN (wordAt w 1) 16 16 = 0 ∧
        (∀ i, 4 ≤ i → i < 16 → wordAt w i = 0) ∧ (dwordAt w 2).toNat < 2 ^ 48 ∧ maxseq * max pcol (v.widest tree) ≤ 1024
      ((n = 0 ∨ 4095 < n) → ∃ t, exec (.progLoad q) s = .next t ∧ Ends u t q p 0x0104 0) ∧
      (1 ≤ n → n ≤ 4095 → u.vread p.asid (p.va 4 + 64) (32 * n) = .ok b v → b.anyPois = false →
        let nodes := (List.range n).map fun i => nodeOf (wordsOf (b.data.drop (32 * i)) 8)
        (sound → (∀ i x, nodes[i]? = some x → v.nodeOk i x = true) → ∃ t, exec (.progLoad q) s = .next t ∧ Done v t q p 0 0 0 0 ∧
          t.eng = { v.eng with nextProg := some { nodes := nodes, maxseq := maxseq, tree := tree, pcol := pcol,
                                                  coltab := (dwordAt w 2).toNat, asid := p.asid } } ∧ t.mem = v.mem) ∧
        ((¬sound ∨ ∃ i x, nodes[i]? = some x ∧ v.nodeOk i x = false) → ∃ t, exec (.progLoad q) s = .next t ∧ Ends v t q p 0x0104 0))

/-- DESC_SET, DESC_RELEASE and their confirmation across modules (R233, R248, R268, R324). A descriptor is set with no round begun; one
that names another module waits for that module's message with the same digest, and is dropped with E_RANGE on another digest and with
E_WAITTO at the wait limit. A module that has the id set answers such a message, whether its own descriptor is still pending or not, and
is otherwise as it was. A descriptor with a round open is not released; a release advances the descriptor's EPOCH. Where the spec leaves
it open, the clauses follow the model's choice: log entries 27, 42. -/
def Rules.Descriptors : Prop :=
  ∀ (s : State) (q : QId) (p : Pkt),
    let id : DescId := bits (p.w 1) 0 16
    (s.starting q 0x22 = some p → ∀ b u, s.vread p.asid (p.va 4) 64 = .ok b u → b.anyPois = false →
      let d0 : Desc := { Desc.init with owner := p.asid, words := wordsOf b.data 16, setQ := q, setSerial := p.serial, setAt := s.tb.now }
      ((d0.fieldsOk = false ∨ u.descs.has id.toNat = true ∨ d0.isShard = true ∧ u.modelReady = false) →
        ∃ t, exec (.descSet q) s = .next t ∧ Ends u t q p 0x0104 0) ∧
      (d0.fieldsOk = true → u.descs.has id.toNat = false → (d0.isShard = true → u.modelReady = true) →
        ∀ l v es, u.vread p.asid d0.list (16 * d0.nent) = .ok l v → l.anyPois = false → v.entriesOf l.data d0.nent = some es →
          let d : Desc := { d0 with entries := es, digest := ofBytes 384 (sha384 (b.data ++ l.data)), rootEp := v.descEp.get id.toNat 0 }
          (distinctL (namedCores es) = false → ∃ t, exec (.descSet q) s = .next t ∧ Ends v t q p 0x0104 0) ∧
          (distinctL (namedCores es) = true → v.otherMods d = [] → v.descExcluded d = true → ∃ t, exec (.descSet q) s = .next t ∧ Ends v t q p 0x0502 0) ∧
          (distinctL (namedCores es) = true → v.otherMods d = [] → v.descExcluded d = false → v.compOk d = true →
            (v.setDesc id d).routersHold d = true → ∃ t, exec (.descSet q) s = .next t ∧ Done v t q p 0 0 0 0 ∧ t.mem = v.mem ∧
              t.descs = v.descs.put id.toNat d ∧ d.rounds = [] ∧ d.pend = false))) ∧
    (s.starting q 0x23 = some p →
      (s.descs.get? id.toNat = none → ∃ t, exec (.descRelease q) s = .next t ∧ Ends s t q p 0x0104 0) ∧
      (∀ d, s.descs.get? id.toNat = some d →
        let used : Prop := s.progNames id = true ∨ (∃ x ∈ s.descs.vals, x.rootx = 1 ∧ x.comp = id) ∨ s.roundOpen id d = true ∨ d.pend = true
        (used → ∃ t, exec (.descRelease q) s = .next t ∧ Ends s t q p 0x0104 0) ∧
        (¬used → ∃ t, exec (.descRelease q) s = .next t ∧ Done s t q p 0 0 0 0 ∧ t.descs = s.descs.del id.toNat ∧
          t.descEp = s.descEp.put id.toNat (s.descEp.get id.toNat 0 + 1) ∧ t.mem = s.mem ∧ t.cores = s.cores))) ∧
    (∀ (did : DescId) (d : Desc), s.descs.get? did.toNat = some d → d.pend = false → ∀ src ep digest,
      (src ∈ s.otherMods d → exec (.mgmt src did ep digest) s = .next (s.sendMgmt src did d true)) ∧
      (src ∉ s.otherMods d → exec (.mgmt src did ep digest) s = .next s)) ∧
    (∀ (did : DescId), s.descs.get? did.toNat = none → ∀ src ep digest, exec (.mgmt src did ep digest) s = .next s) ∧
    (∀ (did : DescId) (d : Desc), s.descs.get? did.toNat = some d → d.pend = true →
      (∃ y ∈ (s.queue d.setQ).pkts, y.serial = d.setSerial) →
      (∀ src ep digest, src ∈ s.otherMods d → digest ≠ d.digest → ∃ t, exec (.mgmt src did ep digest) s = .next t ∧
        t.descs.get? did.toNat = none ∧ Answered t d.setQ d.setSerial 0x0104 0) ∧
      (∀ src ep, s.otherMods d = [src] → d.confirmed = [] → ∃ t e, exec (.mgmt src did ep d.digest) s = .next t ∧
        t.descs.get? did.toNat = some e ∧ e.pend = false ∧ e.confirmed = [src] ∧ Answered t d.setQ d.setSerial 0 0 ∧
        ((∀ c ∈ s.cores.vals, ∀ g ∈ c.groups.vals, g.wait ≠ .barSys did) → e.rounds = d.rounds)) ∧
      (d.setAt.toNat + 1000 * (s.queue d.setQ).wlim.toNat ≤ s.tb.now.toNat → ∃ t, exec (.descConfirmTimeout did) s = .next t ∧
        t.descs = s.descs.del did.toNat ∧ Answered t d.setQ d.setSerial 0x0106 0) ∧
      (s.tb.now.toNat < d.setAt.toNat + 1000 * (s.queue d.setQ).wlim.toNat → exec (.descConfirmTimeout did) s = .next s))

/-- FWIN_SET writes the forward window of each core its list names, or clears it when the entry has no blocks (R324); an entry with a
reserved bit set is rejected with E_RANGE and one that names a core of an excluded floe with E_DEGRADED, and then no window changes
(R310). Where the spec leaves it open, the clauses follow the model's choice: log entry 42. -/
def Rules.ForwardWindows : Prop :=
  ∀ (s : State) (q : QId) (p : Pkt) (b : Bytes) (u : State), s.starting q 0x24 = some p → s.vread p.asid (p.va 4) (8 * p.f 6 0 21) = .ok b u →
    b.anyPois = false →
    let slot := p.f 1 0 4
    let es := fwinEntries b.data (p.f 6 0 21)
    let core (w : List Word) : CoreId := bits (wordAt w 0) 0 20
    let key (w : List Word) : Nat := 64 * slot + (core w).toNat % 64
    let sound (w : List Word) : Prop := fieldN (wordAt w 0) 20 12 = 0 ∧ fieldN (wordAt w 1) 24 8 = 0
    ((∃ w ∈ es, ¬sound w) → ∃ t, exec (.fwinSet q) s = .next t ∧ Ends u t q p 0x0104 0) ∧
    ((∀ w ∈ es, sound w) → (∃ w ∈ es, u.excluded (floeOf (core w)) = true) → ∃ t, exec (.fwinSet q) s = .next t ∧ Ends u t q p 0x0502 0) ∧
    ((∀ w ∈ es, sound w) → (∀ w ∈ es, u.excluded (floeOf (core w)) = false) → (∀ d ∈ u.descs.vals, d.deliv ≠ 1) →
      ∃ t, exec (.fwinSet q) s = .next t ∧ Answered t q p.serial 0 0 ∧ t.mem = u.mem ∧ t.cores = u.cores ∧ t.descs = u.descs ∧
        (∀ pre w post, es = pre ++ w :: post → (∀ y ∈ post, core y ≠ core w) →
          (t.rtr (cluOf (core w))).fwin.get? (key w) = if fieldN (wordAt w 1) 16 8 = 0 then none
            else some ⟨true, bits (wordAt w 1) 16 8, bits (wordAt w 1) 0 16⟩) ∧
        ∀ c k, (∀ w ∈ es, cluOf (core w) ≠ c ∨ key w ≠ k) → (t.rtr c).fwin.get? k = (u.rtr c).fwin.get? k)

/-! ### Model load and the step engine -/

/-- MODEL_LOAD and its phases (R107, R109, R349, R375). A failure in CHECK leaves the model and the weight stores that were there. GOLDEN
places the golden region at the top of HBM. WRITE gives each shard's core the bytes whose CRC-32C is the shard's, every other byte of the
weight stores reading 0, and ends with E_POISON and the model UNUSABLE when neither copy gives them. READY makes the model READY. Where
the spec leaves it open, the clauses follow the model's choice: log entries 47, 48. -/
def Obligations.ModelLoads : Prop :=
  ∀ (s : State) (q : QId) (p : Pkt) (l : Load),
    let rest : Prop := s.inHold = false ∧ s.fe.rstBusy = false ∧ s.eng.load = some l
    let e := s.eng
    let waits : Prop := ∃ y ∈ (s.queue l.queue).pkts, y.serial = l.serial
    (s.starting q 0x20 = some p → ∃ t, exec (.modelLoad q) s = .next t ∧ Started t q p.serial ∧ t.ws = s.ws ∧ t.mem = s.mem ∧
      t.eng = { e with mst := 1, mphase := 1,
                       load := some { Load.init with queue := q, serial := p.serial, image := p.va 4, prev := e.mst } }) ∧
    (rest → e.mphase = 1 → s.drained? l = true → ∀ r u, s.checkModel l = .ok r u →
      (r.code ≠ 0 → ∃ t, exec .check s = .next t ∧ Done u t l.queue { Pkt.init with serial := l.serial } r.code 0 0 0 ∧ t.ws = u.ws ∧
        t.eng = { u.eng with mphase := 2, mst := l.prev, mcode := r.code, load := none }) ∧
      (r.code = 0 → ∃ t, exec .check s = .next t ∧ t.ws = u.ws ∧ t.eng.mphase = 3 ∧ t.eng.load = some r.load ∧ t.eng.prog = none ∧
        t.eng.nextProg = none ∧ t.eng.seqs.entries = [] ∧
        ((∀ k ∈ u.descs.keys, k < 65536) → ∀ k x, t.descs.get? k = some x → x.isShard = false))) ∧
    (rest → e.mphase ≠ 1 → exec .check s = .next s) ∧
    (rest → e.mphase = 3 →
      let g := (l.len + 2097151) / 2097152 * 2097152
      let base := s.capacity - 2 * g
      2 * g ≤ s.capacity → s.rangeRests l.image l.len = true →
      (∀ i, i < s.capacity / 128 → base / 128 ≤ i → s.lineRests i = true) → l.len % 128 = 0 → (s.readRange l.image l.len).1.anyPois = false →
      ∃ t, exec .golden s = .next t ∧ t.ws = s.ws ∧ t.eng.mphase = 4 ∧ t.eng.goldV = true ∧ t.eng.goldBase = base ∧ t.eng.imgLen = l.len ∧
        t.eng.modelId = l.modelId ∧ t.eng.dig = l.dig ∧ t.eng.gold0 = (List.range (l.len / 128)).map (base / 128 + ·) ∧
        t.eng.gold1.length = t.eng.gold0.length ∧ ∀ x ∈ t.eng.gold1, base / 128 + l.len / 128 ≤ x ∧ 128 * x + 128 ≤ s.capacity) ∧
    (rest → e.mphase = 4 → (∀ x ∈ e.gold0 ++ e.gold1, s.lineRests x = true) →
      let s0 := { s with eng := { e with mphase := 5 } }
      let off (x : Shard) (i : Nat) : Nat := x.core.toNat * 262144 + x.wsAt i
      ∀ x, l.shards = [x] →
      (∀ c0 u, s0.shardBytes e.gold0 x = (c0, u) → c0.anyPois = false → crc32c c0.data = x.crc → x.nlayer = 1 → c0.data.length = 32 * x.len →
        x.wsAt 0 + 32 * x.len ≤ 262144 → ∃ t, exec .write s = .next t ∧ t.eng.mphase = 5 ∧
          (∀ j b, c0.data[j]? = some b → t.ws.read (off x 0 + j) = b) ∧
          ∀ a, (a < off x 0 ∨ off x 0 + 32 * x.len ≤ a) → t.ws.read a = 0) ∧
      (∀ c0 u c1 v, s0.shardBytes e.gold0 x = (c0, u) → c0.anyPois = false → crc32c c0.data ≠ x.crc → u.shardBytes e.gold1 x = (c1, v) →
        (c1.anyPois = true ∨ crc32c c1.data ≠ x.crc) → waits → ∃ t, exec .write s = .next t ∧ t.eng.mst = 3 ∧ t.eng.mcode = 0x0301 ∧
          t.eng.load = none ∧ t.ws = v.ws ∧ Answered t l.queue l.serial 0x0301 0)) ∧
    (rest → e.mphase = 5 → waits → ∃ t, exec .ready s = .next t ∧ Answered t l.queue l.serial 0 0 ∧ t.ws = s.ws ∧ t.mem = s.mem ∧
      t.eng = { e with mst := 2, mphase := 6, mcode := 0, load := none, withheld := [], count := 0,
                       units := (s.fe.kvpNpage.toNat - 2048 - 1024 * l.nlayers) / l.nlayers })

/-- The nodes of a step (R114 to R124, R133, R244). A node that may not start yet changes nothing. EMBED and PLACED start; REDUCE takes
one round of its descriptor, SELECT the round's targets, DRAFT its ranks; a node whose round has not come waits, and one whose round is
lost fails. The images of the nodes whose last predecessor has started are filled. VERIFY takes the counts of its descriptor's round, or
forms them where no core contributes, and chooses for each generating sequence the deepest accepted column, the lowest node among equals.
Where the spec leaves it open, the clauses follow the model's choice: log entries 25, 26, 55. -/
def Rules.StepNodes : Prop :=
  ∀ (s : State) (i : Nat) (n : Node),
    let e := s.eng
    let begun : Engine := { e with started := insertNat e.started i }
    let calm : Prop := begun.toFill = []
    let done (t : State) : Prop := i ∈ t.eng.doneN ∧ t.eng.sst = e.sst ∧ t.eng.batch.length = e.batch.length ∧ t.ws = s.ws
    let votes (t : State) (bad : Nat → Nat) : Prop := t.eng.targets = e.targets ∧ ∀ j b, e.batch[j]? = some b →
      ∃ y, t.eng.batch[j]? = some y ∧ y = { b with winner := y.winner } ∧ (b.gen = false → y.winner = 0) ∧
        (b.gen = true →
          let accepted (q : Nat) (c : Col) : Prop := e.cols[q]? = some c ∧ c.slot = j ∧ (c.node = 0 ∨ bad q = 0)
          ∀ q c, accepted q c → ∃ r w, accepted r w ∧ w.node = y.winner ∧ (c.depth < w.depth ∨ c.depth = w.depth ∧ w.node ≤ c.node))
    (∀ x ∈ [(Instr.embed i, (1 : BitVec 4)), (.placed i, 2), (.reduce i, 3), (.select i, 4), (.verify i, 5), (.draft i, 6), (.commit i, 7),
      (.endNode i, 0xF)], s.nodeAt i x.2 = none → exec x.1 s = .next s) ∧
    (s.nodeAt i 1 = some n → calm → ∀ b u, s.vread 0 n.arg 64 = .ok b u → b.anyPois = false →
      (∀ x ∈ Config.embedPlan (wordsOf b.data 16) (e.cols.map (·.token)), s.openRange x.1 x.2.2 = true → s.openRange x.2.1 x.2.2 = true →
        u.rangeRests x.1 x.2.2 = true ∧ u.rangeRests x.2.1 x.2.2 = true) →
      ∃ t, exec (.embed i) s = .next t ∧ done t) ∧
    (s.nodeAt i 2 = some n → i ∉ e.started → calm →
      let la : Launch := { Launch.init with
        queue := 0xFFFF, node := i, placed := true, bim := n.bim, ngrp := n.ngrp, nthr := n.nthr, valloc := regAlloc n.vregs, spad := n.spad,
        entry := n.code, bound := n.bound, layer := n.layer, role := n.role, passes := ceilDiv e.cols.length 32, cols := e.cols.length }
      let starts (image : List (BitVec 64)) (w : State) : Prop := ∀ b v, w.vread 0 n.arg 64 = .ok b v → b.anyPois = false →
        ∃ t x, exec (.placed i) s = .next t ∧ i ∈ t.eng.started ∧ t.cores = v.cores ∧ (∀ f ∈ t.eng.fills, f.node ≠ i) ∧
          t.launches = v.launches.put v.launchSerial x ∧ x = { la with image := image, args := wordsOf b.data 16, binds := x.binds } ∧
          x.binds.map (·.1) = (v.placedShards n.layer n.role).map fun y => y.2.core
      (∀ f, (e.fills.find? fun f => f.node == i) = some f → starts f.image s) ∧
      ((∀ f ∈ e.fills, f.node ≠ i) → ∀ image u, s.checkImage n.code (regAlloc n.vregs) = .ok image u →
        u.imageFits { la with image := image } none = true → starts image (u.fillCaches { la with image := image }))) ∧
    (∀ d : Desc, s.descs.get? n.desc.toNat = some d →
      let rounds (k : Nat) (r : List (List Result)) : Prop := r.length = k ∧
        ∀ j l, r[j]? = some l → s.nodeRound n.desc d n.layer j = .held l ∧ ∀ y ∈ l, y.poisAt .engine = false
      (s.nodeAt i 3 = some n → s.nodeRound n.desc d n.layer 0 = .wait →
        (calm → exec (.reduce i) s = .next { s with eng := begun }) ∧
        (∀ j m image u, begun.toFill = [(j, m)] → ({ s with eng := begun } : State).fillImage (s.nodeLaunch j m) = .ok image u →
          exec (.reduce i) s = .next { u with eng := { u.eng with fills := u.eng.fills ++ [⟨j, image⟩] } })) ∧
      (s.nodeAt i 3 = some n → s.nodeRound n.desc d n.layer 0 = .lost → s.stepRuns = true → ∃ t, exec (.reduce i) s = .next t ∧
        t.eng.failCode = 0x0402 ∧ t.eng.failNode = i ∧ t.eng.sst = 3) ∧
      (s.nodeAt i 3 = some n → calm → ∀ r, rounds 1 r → ∃ t, exec (.reduce i) s = .next t ∧ done t ∧ t.mem = s.mem ∧ t.cores = s.cores) ∧
      (s.nodeAt i 4 = some n → calm → ∀ r, rounds 1 [[r]] → 8 * e.cols.length ≤ r.data.length → ∃ t, exec (.select i) s = .next t ∧ done t ∧
        t.mem = s.mem ∧ t.eng.targets = (List.range e.cols.length).map fun c => fieldN (ofBytes 32 ((r.data.drop (8 * c + 4)).take 4) : Word) 0 24) ∧
      (s.nodeAt i 5 = some n → calm → s.contributed n = true → ∀ r, rounds 1 [[r]] → 4 * e.cols.length ≤ r.data.length →
        (∀ c ∈ e.cols, c.node < 32) → ∃ t, exec (.verify i) s = .next t ∧ done t ∧ t.mem = s.mem ∧
          votes t fun q => (ofBytes 32 ((r.data.drop (4 * q)).take 4) : Word).toNat) ∧
      (s.nodeAt i 6 = some n → calm → ∀ r, rounds 8 r → ∃ t, exec (.draft i) s = .next t ∧ done t ∧ t.mem = s.mem ∧
        t.eng.draftRanks.length = e.batch.length)) ∧
    (s.nodeAt i 5 = some n → calm → s.contributed n = false → e.targets.length = e.cols.length → (∀ c ∈ e.cols, c.node < 32) →
      ∃ t, exec (.verify i) s = .next t ∧ done t ∧ t.mem = s.mem ∧ votes t fun q => badOf e.cols e.targets (e.cols.getD q .init))

/-- Step boundaries and the end of a step (R114, R123, R127, R356, R358). With nothing waiting no step starts, and the boundary that
follows a step is counted with no sequence paused; a LEAVE ends its sequence at the boundary; COMMIT advances a generating sequence by the
tokens it commits and closes the step; END ends it once every other node has ended, counts it, and the next boundary follows. Where the
spec leaves it open, the clauses follow the model's choice: log entries 54, 56. -/
def Rules.StepEnds : Prop :=
  ∀ (s : State) (i : Nat) (n : Node),
    let e := s.eng
    let calm : Prop := ({ e with started := insertNat e.started i } : Engine).toFill = []
    (e.sst = 0 → e.psteps = [] → e.seqs.entries = [] → exec .stepBoundary s = .next s) ∧
    (∀ g, FrontEnd s → e.sst = 1 → s.modelReady = true → e.nextProg = none → e.prog = some g → e.psteps = [] → e.seqs.entries = [] →
      exec .stepBoundary s = .next { s with eng := { e with sst := 0 }, fe := { s.fe with stepPoison := false, paused := 0 } }) ∧
    (s.modelReady = false → exec .stepBoundary s = .next s) ∧
    (2 ≤ e.sst.toNat → exec .stepBoundary s = .next s) ∧
    (∀ g r x p, FrontEnd s → e.sst.toNat ≤ 1 → s.modelReady = true → e.nextProg = none → e.prog = some g → e.mst = 2 → e.seqs.entries = [(r, x)] →
      e.psteps = [p] → p.kind = 2 → p.asid = x.asid → p.id = x.id → p.ep = x.ep → x.joining = false → s.earlierStep x p.serial = false →
      (∃ y ∈ (s.queue p.queue).pkts, y.serial = p.serial) → ∃ t, exec .stepBoundary s = .next t ∧ t.eng.seqs.entries = [] ∧ t.eng.psteps = [] ∧
        t.eng.sst = 0 ∧ t.eng.count = e.count ∧ Answered t p.queue p.serial 0 x.word ∧ t.mem = s.mem ∧
        t.eng.seqEp.get x.id.toNat 0 = x.ep + 1) ∧
    (s.nodeAt i 7 = some n → calm → e.targets.length = e.cols.length → ∀ b u, e.batch = [b] → b.gen = true →
      let plan := s.commitPlan (fun c => e.targets.getD c 0) 0 b
      s.commitSlot plan = .ok () u → ∃ t y, exec (.commit i) s = .next t ∧ i ∈ t.eng.doneN ∧ t.eng.sst = 3 ∧ t.eng.seqs.get? b.rec_ = some y ∧
        y.pos = (e.seqs.get b.rec_ .init).pos + plan.toks.length ∧ y.root = BitVec.ofNat 24 (plan.toks.getLastD 0) ∧ t.mem = u.mem) ∧
    (s.nodeAt i 0xF = some n → ∀ g, e.prog = some g →
      ((∃ j y, g.nodes[j]? = some y ∧ y.kind ≠ 0xF ∧ j ∉ e.doneN) → exec (.endNode i) s = .next s) ∧
      ((∀ j y, g.nodes[j]? = some y → y.kind ≠ 0xF → j ∈ e.doneN) → ∃ t, exec (.endNode i) s = .next t ∧
        t.eng.sst = (if e.lost then 0 else 1) ∧
        t.eng.count = e.count + 1 ∧ t.eng.batch = [] ∧ t.eng.cols = [] ∧ { t with eng := e } = s ∧
        ∀ k y, e.seqs.get? k = some y → ∃ z, t.eng.seqs.get? k = some z ∧ z = { y with drafts := z.drafts }))

/-! ### Tiles -/

/-- Tiles (R115, R134, R360 to R365, R381, R392). A free core takes the tile that is due to it, with its registers cleared; a free
launch's tile passes no lower free core of its set whose floe has had none in the cycle; the tile's timer is a time-stamp of its island;
its groups start at the entry with the argument words in s0 to s15 and the lanes of its threads; it is free again once every group has
finished and its stores are done; a launch completes after its last tile; a tile that overruns four times its bound resets the device.
Where the spec leaves it open, the clauses follow the model's choice: log entries 44, 45, 68. -/
def Obligations.Tiles : Prop :=
  ∀ (s : State) (c : CoreId) (l : Nat) (la : Launch), s.launches.get? l = some la →
    let k := s.core c
    let island := s.clu (cluOf c)
    let low := max s.tb.code.toNat island.stamp.toNat
    let high := max (s.tb.code.toNat + 63) island.stamp.toNat
    let answered (t : State) (code : Code) (x : Word) : Prop :=
      (∃ y ∈ (s.queue la.queue).pkts, y.serial = la.serial) → Answered t la.queue la.serial code x
    (k.launch ≠ none → exec (.tileDispatch l c) s = .next s) ∧
    (la.placed = false → (s.lowestFree l la c s.fe.dispatched = true → s.dispatchCycle l la c = some (s.fe.dispatched ++ [floeOf c])) ∧
      (∀ b : CoreId, la.csbase ≤ b.toNat → b.toNat < c.toNat → s.coreFree b = true → s.launchFor b = some l →
        floeOf b ∉ s.fe.dispatched → s.lowestFree l la c s.fe.dispatched = false ∧ s.lowestFree l la c [] = false)) ∧
    (FrontEnd s → s.coreFree c = true → s.launchFor c = some l → s.dispatchCycle l la c = none → exec (.tileDispatch l c) s = .next s) ∧
    (∀ floes, FrontEnd s → s.coreFree c = true → s.launchFor c = some l → s.dispatchCycle l la c = some floes →
      (∀ e ∈ k.l1.entries, e.2.dirty = 0) → ∃ t, exec (.tileDispatch l c) s = .next t ∧ t.mem = s.mem ∧ t.ws = s.ws ∧
        t.fe.dispatched = floes ∧ (∀ j, j ≠ c → t.core j = s.core j) ∧ (t.core c).launch = some l ∧ (t.core c).started = false ∧ (t.core c).groups = .empty ∧
        (t.core c).tile = (if la.placed then 0 else la.next) ∧ (t.core c).mode = la.bim ∧ (t.core c).spadWr = [] ∧
        (t.core c).errSeen = false ∧ (t.core c).arr.queue = [] ∧
        ∃ x, t.launches.get? l = some x ∧ x.live = la.live + 1 ∧ x.next = (if la.placed then la.next else la.next + 1)) ∧
    (FrontEnd s → k.launch = some l → k.started = false → la.stopping = false → island.runs = true → island.draining = false →
      la.args.length = 16 → la.placed = false → s.tb.code.toNat + 63 < 2 ^ 64 → ∃ t v, exec (.tileStart c) s = .next t ∧ { t with cores := s.cores, clus := s.clus, fresh := s.fresh } = s ∧
        (∀ j, j ≠ c → t.core j = s.core j) ∧ (t.core c).started = true ∧ (t.core c).timer = some v ∧ low ≤ v.toNat ∧ v.toNat ≤ high ∧
        t.clu (cluOf c) = { island with stamp := v } ∧ (∀ j, j ≠ cluOf c → t.clu j = s.clu j) ∧
        ∀ g, g < la.ngrp → ∃ gr, (t.core c).groups.get? g = some gr ∧ gr.pc = BitVec.ofNat 48 la.entry ∧ gr.exec = gr.lmask ∧
          (∀ i, i < 32 → (gr.exec.getLsbD i = true ↔ 32 * g + i < la.nthr)) ∧ (∀ n i, gr.vreg n i = 0) ∧
          (∀ i, i < 12 → gr.sreg i = la.args.getD i 0) ∧ gr.sreg 12 = BitVec.ofNat 32 k.tile ∧ gr.sreg 13 = BitVec.ofNat 32 la.ntile ∧
          gr.sreg 14 = la.args.getD 14 0 ∧ gr.sreg 15 = la.args.getD 15 0 ∧ ∀ i, 16 ≤ i → gr.sreg i = 0) ∧
    (FrontEnd s → k.launch = some l → k.started = true → la.stopping = false → (∀ x ∈ k.groups.vals, x.fin = true ∧ x.lostStore = false) →
      k.sb = [] → k.ucOut = [] → k.puts = [] → ∃ t, exec (.tileFinish c) s = .next t ∧ t.mem = s.mem ∧ (∀ j, j ≠ c → t.core j = s.core j) ∧
        (t.core c).launch = none ∧ (t.core c).timer = none ∧ ∃ x, t.launches.get? l = some x ∧ x.live = la.live - 1 ∧ x.ended = la.ended ++ [c] ∧
          x.lost = la.lost) ∧
    (k.launch = some l → ((∃ x ∈ k.groups.vals, x.fin = false) ∨ k.sb ≠ [] ∨ k.ucOut ≠ [] ∨ k.puts ≠ []) → exec (.tileFinish c) s = .next s) ∧
    (FrontEnd s → la.stopping = false → la.live = 0 → (if la.placed then la.binds = [] else la.next = la.ntile) → la.lost = [] →
      (∀ e ∈ s.cores.entries, e.2.l1of ≠ some l ∧ e.2.launch ≠ some l ∧ ∀ u ∈ e.2.ucOut, u.store = true → u.lid ≠ some l) →
      (∀ e ∈ s.clus.entries, ∀ y ∈ e.2.stq, y.lid ≠ some l) →
      (la.queue ≠ 0xFFFF → ∃ t, exec (.launchComplete l) s = .next t ∧ t.launches = s.launches.del l ∧ t.cores = s.cores ∧ t.mem = s.mem ∧
        answered t la.errCode (if la.errCode = 0 then 0 else la.errCore.setWidth 32)) ∧
      (la.queue = 0xFFFF → la.errCode = 0 → s.eng.failCode = 0 →
        ({ s.eng with started := insertNat s.eng.started la.node } : Engine).toFill = [] → ∃ t, exec (.launchComplete l) s = .next t ∧
          t.launches = s.launches.del l ∧ t.cores = s.cores ∧ t.mem = s.mem ∧ t.queues = s.queues ∧ la.node ∈ t.eng.doneN)) ∧
    (FrontEnd s → (∃ e ∈ s.clus.entries, ∃ y ∈ e.2.stq, y.lid = some l) → (∀ e ∈ s.cores.entries, e.2.l1of ≠ some l) →
      exec (.launchComplete l) s = .next s) ∧
    (la.stopping = false → la.live ≠ 0 → exec (.launchComplete l) s = .next s) ∧
    (∀ t0, k.launch = some l → k.timer = some t0 →
      let ran (now : Nat) : Nat := now - t0.toNat - k.held.toNat
      s.tb.code.toNat + 63 < 2 ^ 64 →
      (FrontEnd s → (∃ x ∈ k.groups.vals, x.fin = false) → 256 * la.bound < ran low → ∃ t, exec (.tileTimerExpiry c) s = .next t ∧
        t.fe.rstBusy = true ∧ t.fe.rstCause = 2 ∧ t.launches = .empty ∧ ∀ j x, t.cores.get? j = some x → x.launch = none) ∧
      (ran high ≤ 256 * la.bound → exec (.tileTimerExpiry c) s = .next s))

/-! ### Errors and resets -/

/-- The refetch of a weight-store sector (R373, R388): a sector that no shard covers becomes 0; any other takes the bytes of golden copy 0
when its line is clean, and of copy 1 otherwise; no other byte of a weight store changes, and the refetch is counted. Where the spec
leaves it open, the clauses follow the model's choice: log entry 49. -/
def Rules.WeightRefetches : Prop :=
  ∀ (s : State) (g : GroupAt) (c : CoreId) (off : BitVec 18), FrontEnd s →
    (if (floeOf c).toNat < 64 then s.west else s.east).fwOn = true →
    let sec := off.toNat / 32
    let at_ := c.toNat * 262144 + 32 * sec
    let counted (t : State) (c1 : Bool) : Prop := t.fe.wrefAll = satAdd s.fe.wrefAll 1 ∧
      t.fe.wrefC1 = (if c1 then satAdd s.fe.wrefC1 1 else s.fe.wrefC1) ∧ t.fe.wrefV = true ∧ t.fe.wrefSect = BitVec.ofNat 13 sec ∧ t.fe.wrefCore = c
    let only (t : State) : Prop := ∀ a, (a < at_ ∨ at_ + 32 ≤ a) → t.ws.read a = s.ws.read a
    let idle (line : Nat) : Prop := s.lineRests line = true ∧ (s.dirOf line).dst = .unc ∧ (s.dirOf line).bad = false ∧
      (s.chanOf line).stopped = false ∧ ((s.homeOfLine line).reps.find? fun r => r.line == line) = none ∧
      (s.homeOfLine line).waitingWrites line = [] ∧ (s.homeOfLine line).dcache.length < 65536
    (s.sectorSource c sec = none → ∃ t, exec (.weightRefetch g c off) s = .next t ∧ t.mem = s.mem ∧ counted t false ∧ only t ∧
      ∀ i, i < 32 → t.ws.read (at_ + i) = 0) ∧
    (∀ o, s.sectorSource c sec = some o →
      let l0 := s.eng.gold0.getD (o / 128) 0
      let l1 := s.eng.gold1.getD (o / 128) 0
      let i := o / 32 % 4
      idle l0 → idle l1 →
      ((s.view l0).pois = 0 → ∃ t, exec (.weightRefetch g c off) s = .next t ∧ t.mem = s.mem ∧ counted t false ∧ only t ∧
        ∀ j, j < 32 → t.ws.read (at_ + j) = s.byteAt (128 * l0 + 32 * i + j)) ∧
      ((s.view l0).pois ≠ 0 → (s.view l1).pois.extractLsb' (8 * i) 8 = 0 → ∃ t, exec (.weightRefetch g c off) s = .next t ∧ counted t true ∧
        only t ∧ ∀ j, j < 32 → t.ws.read (at_ + j) = s.byteAt (128 * l1 + 32 * i + j)))

/-- Device reset (R383, R384, R385). Cores, launches, links, queues' packets and messages are gone, every queue that is neither FREE nor
in HOLD is LOST with its code, and the weight stores, the time base and the memory map stay. The requests of other modules wait at the
homes. A second request while one is under way is counted only. The reset ends with DEVICE RESET COMPLETE, once every write has left the
controllers' queues. Where the spec leaves it open, the clauses follow the model's choice: log entry 50. -/
def Rules.DeviceResets : Prop :=
  ∀ (s : State) (cause : RstCause),
    let code : Code := match cause with
      | .tilehang => 0x0203
      | _ => 0x0301
    let idle : Prop := (∀ h ∈ s.homes.vals, h.wq = []) ∧ ∀ f : Floe, HomeQuiet s f
    (s.inHold = true → exec (.deviceReset cause) s = .next s) ∧
    (s.inHold = false → s.pw.on = true → s.fe.rstBusy = true → ∃ t, exec (.deviceReset cause) s = .next t ∧
      t = { s with fe := { s.fe with rstCount := satAdd s.fe.rstCount 1 } }) ∧
    (FrontEnd s → ∃ t, exec (.deviceReset cause) s = .next t ∧ t.fe.rstBusy = true ∧ t.fe.rstCount = satAdd s.fe.rstCount 1 ∧
      t.fe.rstCause = (match cause with
        | .host => 1
        | .tilehang => 2
        | _ => 3) ∧
      t.ws = s.ws ∧ t.tb = s.tb ∧ t.live = s.live ∧ t.failedClu = s.failedClu ∧ (∀ m ∈ t.net, m.foreign = true) ∧ (∀ m ∈ s.net, m.foreign = true → m ∈ t.net) ∧
      t.fnet = [] ∧ t.dnet = [] ∧ t.ilvSel = 0 ∧ (∀ n ∈ [t.west, t.east], n.repSel = 0 ∧ n.nonce = 0 ∧ n.qbusy = false ∧ n.qdone = false ∧ n.qref = false) ∧
      t.launches = .empty ∧ t.pending = s.pending ∧ t.eng.psteps = [] ∧ t.eng.sst = 0 ∧ t.eng.prog = none ∧ t.eng.count = 0 ∧
      (s.eng.load = none → t.eng.mst = s.eng.mst ∧ t.eng.goldV = s.eng.goldV) ∧
      (∀ j x, t.cores.get? j = some x → x.launch = none ∧ x.groups = .empty ∧ x.sb = []) ∧
      (∀ j x, t.ports.get? j = some x → x.st = .off ∧ x.rbuf = [] ∧ x.txq = []) ∧
      (∀ j x, t.clus.get? j = some x → x.l2 = .empty ∧ x.wbuf = [] ∧ x.stq = [] ∧ x.gated = false ∧ x.tj = 0) ∧
      (∀ j x, j < 128 → t.homes.get? j = some x → x.txns = [] ∧ x.wcb = [] ∧ x.evb = [] ∧ x.tlast = 0 ∧ x.tstate = 3 ∧ x.parked = [] ∧
        (∀ m ∈ x.ingress, m.foreign = true) ∧ (∀ e ∈ x.wq, e.dir = none) ∧
        ((∀ f h, s.homes.get? f = some h → h.wcb = [] ∧ h.evb = [] ∧ h.tstate ≠ 3 ∧ ∀ e ∈ h.wq, (s.locOf e.line).floe.toNat = f) → x.wq = [])) ∧
      ∀ j x, s.queues.get? j = some x → ∃ y, t.queues.get? j = some y ∧ y.pkts = [] ∧ y.ep = x.ep ∧ y.wptr = 0 ∧ y.rptr = 0 ∧ y.ken = false ∧ y.ver = 0 ∧
        y.done = x.done ∧ y.fcount = x.fcount ∧
        (x.st = .free ∨ x.st = .hold → y.st = x.st) ∧ (x.st ≠ .free → x.st ≠ .hold → y.st = .lost ∧ y.code = code)) ∧
    (s.fe.rstBusy = false → exec .resetComplete s = .next s) ∧
    ((∃ h ∈ s.homes.vals, h.wq ≠ []) → exec .resetComplete s = .next s) ∧
    (s.fe.rstBusy = true → s.mgmt.topo = none → idle → ∃ t, exec .resetComplete s = .next t ∧ t = { s with fe := { s.fe with rstBusy := false } }) ∧
    (∀ (r : Req) (pay : Pay), s.fe.rstBusy = true → s.lineOk r.line = true → s.deferred .ucw r.line pay = false →
      takeReq (isReq (· == .ucw) r) [] s.net = some (.req .ucw r pay) → ∃ t, exec (.ucw r) s = .next t ∧
        (t.homeOfLine r.line).ingress = (s.homeOfLine r.line).ingress ++ [.req .ucw r pay] ∧ { t with homes := s.homes, net := s.net } = s) ∧
    (∀ m tp, s.fe.rstBusy = true → s.mgmt.topo = some (m, tp) → idle → s.inHold = false → s.pw.on = true → s.am.lock = false → ∃ t,
      exec .resetComplete s = .next t ∧ t.fe.rstBusy = false ∧ t.am.mid = m ∧ t.mem = s.mem)

/-! ### The register interface -/

/-- Reads and writes of registers (R8, R10, R12, R14, R22, R337, R368, R412, R460, R465 to R468). A host read returns the register's word,
that of PW_IN or PW_PIN a measurement within the limits of R436 and R437, a read of FE_QSTALE clears it, a read of 8 B at a multiple of 8
returns the register's two words, and a read of 4, 8 or 16 B at a register that pops a FIFO pops it once; a write reaches the register's
writable bits alone, one to a read-only page or one of 4 B to an unaligned offset changes nothing, one of 8 B is one of its low word and
then one of its high word, one that a register's rules refuse is recorded in FE_HWERR, and the module id takes no write once LOCK is set.
Where the spec leaves it open, the clauses follow the model's choice: log entries 9, 59. -/
def Obligations.Registers : Prop :=
  ∀ (s : State) (a : Agent) (off len : Nat) (v : BitVec 64),
    let w : Word := v.setWidth 32
    let plain (o : Nat) : Prop := (∀ q, pageOf o ≠ .db q 0x40 ∧ pageOf o ≠ .kq q 0x40) ∧ pageOf o ≠ .dg 0x20 ∧ pageOf o ≠ .dg 0x80 ∧
      s.hostReaches (pageOf o) = true
    let still (o : Nat) : Prop := pageOf o ≠ .pw 0x08 ∧ pageOf o ≠ .pw 0x10
    let sizes : List (Nat × RdSize) := [(4, .b4), (8, .b8), (16, .b16)]
    (s.portOpen = false → exec (.readClear .bar2 off len) s = .next s ∧ exec (.registerWrite .bar2 off false v) s = .next s) ∧
    (s.portOpen = true → ∀ o, ctlOff a (off / 4 * 4) = some o → a ≠ .firmware → (a = .bar0 → s.fe.rstBusy = false) → plain o →
      0 < len → off % 4 + len ≤ 4 → ∃ t, exec (.readClear a off len) s = .next t ∧ t.host.cplSt = .ok ∧
        (still o → t.host.cpl = toBytes 4 (s.regWord o) ∧ t.pw = s.pw) ∧
        t.mem = s.mem ∧ t.cores = s.cores ∧ t.queues = s.queues ∧ t.eng = s.eng) ∧
    (s.portOpen = true → ∀ o, off % 8 = 0 → ctlOff a off = some o → ctlOff a (off + 4) = some (o + 4) → a ≠ .firmware → (a = .bar0 → s.fe.rstBusy = false) →
      plain o → plain (o + 4) → still o → still (o + 4) → ∃ t, exec (.readClear a off 8) s = .next t ∧ t.host.cplSt = .ok ∧
        t.host.cpl = toBytes 4 (s.regWord o) ++ toBytes 4 ((s.clearRc (pageOf o)).regWord (o + 4))) ∧
    (s.portOpen = true → s.ready = true → s.inHold = false → s.pw.on = true → ∀ o : Nat, o = 0x08 ∨ o = 0x10 →
      ∃ t, exec (.readClear .bar2 (0x101000 + o) 4) s = .next t ∧ t.host.cplSt = .ok ∧ t.host.cpl = toBytes 4 (t.powerWord o) ∧
        t.pw.iin.toNat ≤ 20700 ∧ (0 < s.pw.vin.toNat → t.pw.iin.toNat * s.pw.vin.toNat ≤ 950000000) ∧ t.pw.pin.toNat ≤ 95000 ∧
        { t.pw with iin := s.pw.iin, pin := s.pw.pin } = s.pw ∧ { t with host := s.host, pw := s.pw, fresh := s.fresh } = s) ∧
    (s.portOpen = true → s.fe.rstBusy = false → ∀ q : Nat, q < 0x4000 → ∀ x ∈ sizes,
      exec (.readClear .bar0 (0x1000 * q + 0x40) x.1) s = exec (.dbReply0Pop (BitVec.ofNat 16 q) x.2) s) ∧
    (s.portOpen = true → s.ready = true → s.inHold = false → ∀ x ∈ sizes,
      exec (.readClear .bar2 0x301020 x.1) s = exec (.dgPcsPop0 x.2) s ∧ exec (.readClear .bar2 0x301080 x.1) s = exec (.dgTrPop0 x.2) s) ∧
    (s.portOpen = true → s.ready = true → s.inHold = false → ∃ t, exec (.readClear .bar2 0x10 4) s = .next t ∧
      t.host.cpl = toBytes 4 s.fe.qstale ∧ { t with host := s.host, fe := s.fe } = s ∧ t.fe = { s.fe with qstale := 0 }) ∧
    (s.portOpen = true → s.ready = true → s.inHold = false →
      (∃ t, exec (.registerWrite .bar2 0x4040 false v) s = .next t ∧ t = { s with fe := { s.fe with asSel := bits w 0 16 } }) ∧
      (∃ t, exec (.registerWrite .bar2 0x101028 false v) s = .next t ∧ t = { s with pw := { s.pw with islSel := bits w 0 14 } }) ∧
      (10 ≤ fieldN w 0 16 → ∃ t, exec (.registerWrite .bar2 0x101020 false v) s = .next t ∧
        t = { s with pw := { s.pw with gateEn := bitAt w 31, gateIdle := bits w 0 16 } }) ∧
      (fieldN w 0 16 < 10 → ∃ t, exec (.registerWrite .bar2 0x101020 false v) s = .next t ∧ { t with fe := s.fe } = s ∧
        (s.fe.hwV = false → t.fe.hwV = true ∧ t.fe.hwCode = 0x0104 ∧ t.fe.hwBar = true ∧ t.fe.hwOff = 0x101020) ∧ (s.fe.hwV = true → t.fe = s.fe)) ∧
      (∀ x, x < 0x1000 → exec (.registerWrite .bar2 (0x100000 + x) false v) s = .next s)) ∧
    (off % 4 ≠ 0 → exec (.registerWrite a off false v) s = .next s) ∧
    (off % 4 = 0 → ∃ t, exec (.registerWrite .bar2 off false v) s = .next t ∧
      exec (.registerWrite .bar2 off true v) s = exec (.registerWrite .bar2 (off + 4) false (v >>> 32)) t) ∧
    (s.pw.on = true → (s.west.fwOn = true ∨ s.east.fwOn = true) →
      (s.am.lock = false → ∃ t, exec (.registerWrite .firmware 0x160008 false v) s = .next t ∧ t = { s with am := { s.am with mid := bits w 0 15 } }) ∧
      (s.am.lock = true → exec (.registerWrite .firmware 0x160008 false v) s = .next s))

/-! ### Boot, identity and the management port -/

/-- The stages of boot (R415, R418 to R422). ROM starts the time counter and settles each identity by the CRC of its helper data and the
key of its certificate; the image the primary accepts moves both nunataks on and is measured, and a refused one empties the window; PEER
copies the image to the secondary, whose ROM checks and measures the copy, and starts the firmware on both when it accepts it and the
measurements agree, or goes back; SELFTEST records the failed clusters and clears the weight stores; HBM leaves memory empty; LINKS waits
for a topology and for its ports; SYNC ends in READY. Where the spec leaves it open, the clauses follow the model's choice: log entry 57.
-/
def Rules.BootStages : Prop :=
  ∀ (s : State) (side : Side) (level : Bool) (r : SelfTestReport) (ch : List ChanReport),
    let n := s.nt side
    let both (t : State) (p : Nunatak → Prop) : Prop := p t.west ∧ p t.east
    let stage (k : Nat) (t : State) : Prop := both t fun x => x.stage = k
    (s.booting 0 = true → ∃ t, exec .rom s = .next t ∧ t.tb.running = true ∧ both t (fun x => x.idst ≠ 0) ∧ t.mem = s.mem ∧ t.cores = s.cores ∧
      (let helper := if side = .west then t.eeprom.helperW else t.eeprom.helperE
       let cert := if side = .west then t.eeprom.certW else t.eeprom.certE
       let key := curveMul (t.nt side).idKey.toNat curveG
       n.idst = 0 → (crc32c helper.data ≠ helper.crc → (t.nt side).idst = 2) ∧ ((t.nt side).idst = 1 → Config.certKey cert.data = key) ∧
         ((t.nt side).idst = 3 → Config.certKey cert.data ≠ key))) ∧
    (s.pw.on = true → ∃ t, exec (.strapAccept side level) s = .next t ∧ (t.nt side).live = level ∧ (t.nt side).latchSet = true ∧
      (n.latchSet = true → (t.nt side).latch = n.latch) ∧ (n.latchSet = false → (t.nt side).latch = level) ∧ t.mem = s.mem) ∧
    (s.booting 1 = true → side = s.primarySide →
      (imgResult n.window = 1 → ∃ t, exec (.bootGo side) s = .next t ∧ stage 2 t ∧ (t.nt side).meas = imgMeasure n.window ∧
        (t.nt side).accepted = true ∧ (t.nt side).window = n.window) ∧
      (imgResult n.window ≠ 1 → ∃ t, exec (.bootGo side) s = .next t ∧ (t.nt side).stage = n.stage ∧ (t.nt side).result = imgResult n.window ∧
        (t.nt side).window = ⟨[]⟩ ∧ (t.nt side).meas = n.meas ∧ t.nt (peerSide side) = s.nt (peerSide side))) ∧
    (s.booting 1 = true → side ≠ s.primarySide → exec (.bootGo side) s = .next s) ∧
    (s.booting 2 = true → s.primary.accepted = true → ∃ t e, exec .peerVerify s = .next t ∧ t.mem = s.mem ∧
      (t.nt s.primarySide).window = s.primary.window ∧
      (let copy := copied s.primary.window e
       let same : Prop := imgResult copy = 1 ∧ imgMeasure copy = s.primary.meas
       (t.nt (peerSide s.primarySide)).window = copy ∧
       (same → both t fun x => x.stage = 3 ∧ x.result = 1 ∧ x.fwOn = true ∧ x.kick = none ∧ x.meas = s.primary.meas ∧ x.peerMeas = s.primary.meas) ∧
       (¬same → both t fun x => x.stage = 1 ∧ x.result = 4 ∧ x.accepted = false))) ∧
    (s.booting 3 = true → s.primary.result ≠ 5 →
      (r.fabricOk = false → ∃ t, exec (.selftest r) s = .next t ∧ t.west = { s.west with result := 5 } ∧ t.east = { s.east with result := 5 } ∧
        { t with west := s.west, east := s.east } = s) ∧
      (r.fabricOk = true → ∃ t, exec (.selftest r) s = .next t ∧ stage 4 t ∧ t.ws = ⟨[]⟩ ∧ t.mapped = true ∧
        ∀ c, c ∈ t.failedClu ↔ c ∈ r.failed ∧ c < 16896)) ∧
    (s.booting 4 = true →
      let out (f : Nat) : Prop := ∃ x ∈ ch, x.floe.toNat = f ∧ x.stackFail = true
      ((∀ f, f < 128 → out f ∨ (s.homes.get f .init).tvalid = true) → ∃ t, exec (.hbmTraining ch) s = .next t ∧ stage 5 t ∧
        t.mem = ⟨[]⟩ ∧ t.poison = [] ∧ (ch = [] → t.live.length = 2048) ∧ ∀ f, f < 128 → out f → ∀ c, c < 16 → 16 * f + c ∉ t.live) ∧
      ((∃ f, f < 128 ∧ ¬out f ∧ (s.homes.get f .init).tvalid = false) → exec (.hbmTraining ch) s = .next s)) ∧
    (s.booting 5 = true →
      (s.mgmt.topo = none → ∃ t, exec .links s = .next t ∧ both t (fun x => x.swait = 1) ∧ t.west.stage = s.west.stage ∧
        t.east.stage = s.east.stage ∧ t.ports = s.ports) ∧
      (∀ m tp, s.mgmt.topo = some (m, tp) → s.am.linkStart = none → s.am.lock = false → ∃ t, exec .links s = .next t ∧ t.am.mid = m ∧
        t.am.linkStart = some s.tb.now ∧ both t fun x => x.swait = 0) ∧
      (∀ m tp t0, s.mgmt.topo = some (m, tp) → s.am.linkStart = some t0 → t0.toNat + 100000000 ≤ s.tb.now.toNat →
        ∃ t, exec .links s = .next t ∧ stage 6 t ∧ { t with west := s.west, east := s.east } = s)) ∧
    (s.booting 6 = true →
      (s.tb.sync = true → ∃ t, exec .sync s = .next t ∧ stage 7 t ∧ t.ready = true ∧ { t with west := s.west, east := s.east } = s) ∧
      (s.tb.sync = false → ∃ t, exec .sync s = .next t ∧ t.west.stage = s.west.stage ∧ both t (fun x => x.swait ≠ 0) ∧
        { t with west := s.west, east := s.east } = s))

/-- The heartbeat and HOLD (R427 to R430). A nunatak sends frames of its state with a rising SEQ until its watchdog runs out; a frame with
a wrong CRC is discarded; a strap that the peer latched otherwise, a peer in HOLD, a frame missing for 1 ms and a live strap that differs
from the latched one each put the module into HOLD. Where the spec leaves it open, the clauses follow the model's choice: log entries 24,
57. -/
def Rules.Heartbeats : Prop :=
  ∀ (s : State) (side : Side) (f : BitVec 64), s.pw.on = true →
    let n := s.nt side
    let good : Prop := crc32c ((toBytes 8 f).take 4) = bits f 32 32
    let falls (i : Instr) (why : BitVec 4) : Prop := n.hold = false → s.inHold = false → ∃ t, exec i s = .next t ∧ Held t ∧
      (t.nt side).hold = true ∧ (t.nt side).hwhy = why ∧ t.ws = s.ws ∧ ∀ c x, t.cores.get? c = some x → x.launch = none
    (n.latchSet = true → (n.fwOn = false ∨ ∃ t0, n.kick = some t0 ∧ s.tb.now.toNat ≤ t0.toNat + 10000000) → ∃ t, exec (.heartbeatSend side) s = .next t ∧
      (t.nt side).seq = n.seq + 1 ∧ (t.nt side).frames = n.frames ++ [heartbeat side n] ∧ t.nt (peerSide side) = s.nt (peerSide side) ∧
      { t with west := s.west, east := s.east } = s) ∧
    (n.fwOn = true → (∀ t0, n.kick = some t0 → t0.toNat + 10000000 < s.tb.now.toNat) → exec (.heartbeatSend side) s = .next s) ∧
    (¬good → ∃ t, exec (.heartbeatFrame side f) s = .next t ∧ t.nt side = n ∧ t.nt (peerSide side) = { s.nt (peerSide side) with
      frames := (s.nt (peerSide side)).frames.erase f } ∧ { t with west := s.west, east := s.east } = s) ∧
    (good → n.latchSet = true → bitAt f 16 ≠ n.latch → falls (.heartbeatFrame side f) 1) ∧
    (good → (n.latchSet = false ∨ bitAt f 16 = n.latch) → bitAt f 18 = true → falls (.heartbeatFrame side f) 3) ∧
    (good → n.latchSet = true → bitAt f 16 = n.latch → bitAt f 18 = false → ∃ t, exec (.heartbeatFrame side f) s = .next t ∧
      (t.nt side).pvalid = true ∧ (t.nt side).pseq = bits f 0 16 ∧ (t.nt side).lastFrame = s.tb.now ∧ (t.nt side).hold = n.hold ∧ t.mem = s.mem) ∧
    (s.tb.running = true → 16000000 ≤ s.tb.now.toNat → (n.pvalid = false ∨ n.lastFrame.toNat + 1000000 ≤ s.tb.now.toNat) →
      falls (.heartbeatTimeout side) 2) ∧
    (n.pvalid = true → s.tb.now.toNat < n.lastFrame.toNat + 1000000 → exec (.heartbeatTimeout side) s = .next s) ∧
    (n.latchSet = true → n.live ≠ n.latch → falls (.strapLiveMismatch side) 4) ∧
    (n.live = n.latch → exec (.strapLiveMismatch side) s = .next s) ∧
    (n.fwOn = true → ∃ t, exec (.ntHbKick side) s = .next t ∧ t.nt side = { n with kick := some s.tb.now } ∧
      t.nt (peerSide side) = s.nt (peerSide side) ∧ { t with west := s.west, east := s.east } = s)

/-- Quotes and the host port's training (R416, R425, R426). GO sets BUSY, or REFUSED when the identity is not OK, and nothing while BUSY;
the quote ends with DONE in 368 bytes that carry the nonce and the signature of the first 272 with the side's identity key; the primary's
port answers once it has trained. Where the spec leaves it open, the clauses follow the model's choice: log entry 58. -/
def Rules.Quotes : Prop :=
  ∀ (s : State) (side : Side), s.pw.on = true →
    let n := s.nt side
    let only (t : State) (x : Nunatak) : Prop := t = s.setNt side x
    (n.qbusy = true → exec (.quote side) s = .next s) ∧
    ((1 ≤ n.stage ∨ s.inHold = true) → n.qbusy = false →
      (n.idst = 1 → ∃ t, exec (.quote side) s = .next t ∧ only t { n with qbusy := true }) ∧
      (n.idst ≠ 1 → ∃ t, exec (.quote side) s = .next t ∧ only t { n with qref := true })) ∧
    (n.qbusy = true → ∃ t, exec (.quoteDone side) s = .next t ∧ (t.nt side).qbusy = false ∧ (t.nt side).qdone = true ∧
      (t.nt side).qbuf.length = 368 ∧ ((t.nt side).qbuf.drop 8).take 32 = toBytes 32 n.nonce ∧
      (∃ k, let sig := ecdsaSign n.idKey.toNat (sha384 ((t.nt side).qbuf.take 272)) k
        (t.nt side).qbuf.drop 272 = toBytes 48 (BitVec.ofNat 384 sig.1) ++ toBytes 48 (BitVec.ofNat 384 sig.2)) ∧ (t.nt side).stage = n.stage ∧ t.mem = s.mem) ∧
    (n.qbusy = false → exec (.quoteDone side) s = .next s) ∧
    (s.inHold = false → 1 ≤ n.stage → side = s.primarySide → ∃ t, exec (.hostPortTrained side) s = .next t ∧ (t.nt side).portUp = true ∧
      t.host = { s.host with answers := true } ∧ t.mem = s.mem) ∧
    (s.inHold = false → side ≠ s.primarySide → exec (.hostPortTrained side) s = .next s)

/-- The management port (R431, R432). Each command is answered with bit 7 of CMD set and a status: STATUS, SET_TOPO (refused once a port
has left OFF), RESET with its two bytes alone, TELEM and STRAP; an unknown command has status 2 and a frame with a wrong CRC status 1.
Where the spec leaves it open, the clauses follow the model's choice: log entry 58. -/
def Rules.ManagementFrames : Prop :=
  ∀ (s : State) (f : List Byte), s.pw.aon = true →
    let answer (t : State) (status : Nat) (data : List Byte) : Prop := t.mgmt.answer = answerFrame (f.getD 0 0) status data
    let only (t : State) : Prop := { t with mgmt := s.mgmt } = s ∧ { t.mgmt with answer := s.mgmt.answer, topo := s.mgmt.topo } = s.mgmt
    (frameOf f = some (1, []) → ∃ t d, exec (.status f) s = .next t ∧ only t ∧ t.mgmt.topo = s.mgmt.topo ∧ answer t 0 d ∧ d.length = 24 ∧
      d.take 4 = toBytes 4 (s.nunatakWord (if s.inHold then s.west else s.primary) 0)) ∧
    (∀ p, frameOf f = some (2, p) → p.length = 6 →
      (s.am.everLocked = true → ∃ t, exec (.setTopo f) s = .next t ∧ only t ∧ t.mgmt.topo = s.mgmt.topo ∧ answer t 3 []) ∧
      (s.am.everLocked = false → ∃ t, exec (.setTopo f) s = .next t ∧ only t ∧ answer t 0 [] ∧
        t.mgmt.topo = some (ofBytes 15 (p.take 2), ofBytes 31 (p.drop 2)))) ∧
    (frameOf f = some (3, [0x5A, 0xA5]) → ∃ t, exec (.resetCmd f) s = .next t ∧ answer t 0 [] ∧ t.pending = s.pending ∧ t.mem = State.reset.mem ∧
      t.ws = State.reset.ws ∧ t.cores = State.reset.cores ∧ t.queues = State.reset.queues ∧ t.eng = State.reset.eng) ∧
    (∀ p, frameOf f = some (3, p) → p ≠ [0x5A, 0xA5] → ∃ t, exec (.resetCmd f) s = .next t ∧ only t ∧ t.mgmt.topo = s.mgmt.topo ∧ answer t 3 []) ∧
    (frameOf f = some (4, []) → ∃ t d, exec (.telem f) s = .next t ∧ t.mgmt.topo = s.mgmt.topo ∧ answer t 0 d ∧ d.length = 8 ∧
      only { t with pw := s.pw, fresh := s.fresh } ∧ { t.pw with iin := s.pw.iin, pin := s.pw.pin } = s.pw ∧
      (s.west.fwOn = false → s.east.fwOn = false → d = List.replicate 8 0 ∧ t.pw = s.pw) ∧
      (s.west.fwOn = true → d.take 6 = toBytes 2 s.pw.vin ++ toBytes 4 t.pw.pin ∧ (s.pw.on = true → t.pw.pin.toNat ≤ 95000))) ∧
    (frameOf f = some (5, []) → ∃ t, exec (.strapCmd f) s = .next t ∧ only t ∧ t.mgmt.topo = s.mgmt.topo ∧
      answer t 0 (toBytes 4 (s.nunatakWord s.west 0x010) ++ toBytes 4 (s.nunatakWord s.east 0x010))) ∧
    (frameOf f = none → ∃ t, exec (.unknownCmd f) s = .next t ∧ only t ∧ t.mgmt.topo = s.mgmt.topo ∧ answer t 1 []) ∧
    (∀ c p, frameOf f = some (c, p) → (c = 0 ∨ 5 < c) → ∃ t, exec (.unknownCmd f) s = .next t ∧ only t ∧ t.mgmt.topo = s.mgmt.topo ∧ answer t 2 [])

/-! ### The Amdon links -/

/-- Flits (R253, R257, R259, R261, R270, R273). The codewords of every flit count. A flit with a wrong CRC or an uncorrected codeword is
discarded and answered with a NAK in a CTRL flit, which counts in AM_REPLAY; a DATA flit ahead of the expected SEQ is too, and one behind
is dropped. IDLE brings its credits, unless flits are being discarded. The expected DATA flit advances SEQ, is told of by an IDLE flit and
returns its credit as its buffer empties, and a read request in it reaches its home. A NAK has the replay buffer sent again from its SEQ,
a TIME message with a new time-stamp, which counts as a replay, and the eighth in a row for one SEQ, sent or received, retrains the port.
Where the spec leaves it open, the clauses follow the model's choice: log entries 31, 72. -/
def Rules.LinkFlits : Prop :=
  ∀ (s : State) (port : PortId) (f : BitVec 2048) (fec : Fec) (seq : BitVec 12),
    let p := s.port port
    let only (t : State) : Prop := { t with ports := s.ports } = s ∧ ∀ q, q ≠ port → t.port q = s.port q
    let lone : Prop := p.txq = [] ∧ p.rbuf = [] ∧ ∀ r, (s.port r).movedTo = none
    let good : Prop := fec.bad = false ∧ flitOk f = true
    let seen : Port := { p with fecCorr := p.fecCorr + fec.corr.setWidth 64, fecUnc := satAdd p.fecUnc fec.unc.toNat }
    let counted (x : Port) : Prop := x.fecCorr = seen.fecCorr ∧ x.fecUnc = seen.fecUnc
    let nak (t : State) : Prop := (t.port port).rxSeq = p.rxSeq ∧ (t.port port).st = .active ∧ (t.port port).replay = satAdd p.replay 1 ∧
      (t.port port).discard = true ∧ (t.port port).nakSent = p.nakSent + 1 ∧ counted (t.port port) ∧
      ∃ y, (t.port port).out = p.out ++ [y] ∧ flitType y = 2
    let idles (x : Port) : Prop := x.rxSeq = p.rxSeq + 1 ∧ x.discard = false ∧ x.nakSent = 0 ∧ counted x ∧
      ∃ l, x.out = p.out ++ l ∧ l ≠ [] ∧ ∀ y ∈ l, flitType y = 0
    (p.st ≠ .active → exec (.dataFlit port f fec) s = .next s ∧ exec (.idleFlit port f fec) s = .next s ∧ exec (.nak port seq) s = .next s) ∧
    (p.st = .active → ¬good → ∀ i ∈ [Instr.dataFlit port f fec, .idleFlit port f fec],
      (p.nakSent < 7 → ∃ t, exec i s = .next t ∧ only t ∧ nak t ∧ (t.port port).crc = (if flitOk f then p.crc else satAdd p.crc 1)) ∧
      (7 ≤ p.nakSent → ∃ t, exec i s = .next t ∧ (t.port port).st = .retrain ∧ t.mem = s.mem)) ∧
    (p.st = .active → good → flitType f = 1 → flitSeq f ≠ p.rxSeq → (flitSeq f - p.rxSeq).toNat < 2048 →
      (p.discard = false → p.nakSent < 7 → ∃ t, exec (.dataFlit port f fec) s = .next t ∧ only t ∧ nak t ∧ (t.port port).crc = p.crc) ∧
      (p.discard = true → exec (.dataFlit port f fec) s = .next (s.setPort port seen))) ∧
    (p.st = .active → good → flitType f = 1 → 2048 ≤ (flitSeq f - p.rxSeq).toNat → exec (.dataFlit port f fec) s = .next (s.setPort port seen)) ∧
    (p.st = .active → good → flitType f = 0 →
      (p.discard = true → exec (.idleFlit port f fec) s = .next (s.setPort port seen)) ∧
      (p.discard = false → lone → ∃ t, exec (.idleFlit port f fec) s = .next t ∧ only t ∧ (t.port port).rxSeq = p.rxSeq ∧
        (t.port port).out = p.out ∧ counted (t.port port) ∧
        ∀ k, (t.port port).cred.get k 0 = p.cred.get k 0 + if k = fieldN (flitWord f 1) 28 4 then fieldN (flitWord f 1) 18 10 else 0)) ∧
    (p.st = .active → good → flitType f = 1 → flitSeq f = p.rxSeq → p.rx.length < 1024 → lone →
      (flitMsgs f = [] → ∃ t, exec (.dataFlit port f fec) s = .next t ∧ only t ∧ idles (t.port port) ∧ (t.port port).rx = p.rx ∧
        (t.port port).retq = []) ∧
      (∀ x, flitMsgs f = [x] → x.mtype = 1 → x.dmod = s.mid → s.lineOk (x.addr / 128) = true → s.inGolden x.addr = false →
        ∃ t, exec (.dataFlit port f fec) s = .next t ∧ idles (t.port port) ∧ t.mem = s.mem ∧
          ((∀ y ∈ p.rx, y.serial ≠ p.rxSerial) → (t.port port).rx = p.rx ∧ (t.port port).retq = []) ∧
          t.net = s.net ++ [.req (.ucr false) ⟨x.addr / 128, .remote x.smod x.tag x.tepoch port⟩
            { Pay.init with sector := x.addr / 32, addr := x.addr, pois := x.pois, remote := true }])) ∧
    (p.st = .active →
      let run := if p.nakSeq = seq ∧ 0 < p.nakRun then p.nakRun + 1 else 1
      let again := (p.rbuf.map (·.flit)).dropWhile fun y => flitSeq y != seq
      let resent (t : State) : Prop := { t with ports := s.ports, dg := s.dg, fresh := s.fresh, tb := s.tb } = s ∧ (∀ q, q ≠ port → t.port q = s.port q) ∧
        (t.port port).st = .active ∧ (t.port port).nakRun = run ∧ (t.port port).replay = satAdd p.replay 1 ∧
        t.dg = if again = [] then s.dg else { s.dg with aoReplay := satAdd s.dg.aoReplay 1 }
      (run < 8 → (∀ y ∈ p.rbuf, ∀ x ∈ flitMsgs y.flit, x.isTime = false) → ∃ t, exec (.nak port seq) s = .next t ∧ resent t ∧ t.tb = s.tb ∧
        t.fresh = s.fresh ∧ (t.port port).rbuf = p.rbuf ∧ (t.port port).out = p.out ++ again) ∧
      (run < 8 → ∀ y, p.rbuf = [y] → flitSeq y.flit = seq → ∃ t, ∃ sub : BitVec 6, exec (.nak port seq) s = .next t ∧ resent t ∧
        (t.port port).out = p.out ++ [restamp y.flit (s.tb.now + sub.setWidth 64)]) ∧
      (8 ≤ run → ∃ t, exec (.nak port seq) s = .next t ∧ (t.port port).st = .retrain ∧ t.mem = s.mem))

/-- Training (R255 to R258, R262, R274). DETECT waits for four lanes and for coordinates within the topology; EQUALISE sets the width or
fails the attempt; NEGOTIATE and IDENTIFY send CTRL flits and bring the port to ACTIVE with SEQ 0, or to DOWN or MISWIRED; the third
failed attempt leaves it DOWN with its reason. EN and TRAIN of AM_CTRL, which the firmware of the port's half writes, start and stop it,
and the first port that leaves OFF sets LOCK. Where the spec leaves it open, the clauses follow the model's choice: log entries 21, 32,
73. -/
def Obligations.LinkTraining : Prop :=
  ∀ (s : State) (port : PortId) (lanes : BitVec 8) (peer : CtrlFields) (pmod : ModId) (pport : PortId) (pdir : BitVec 3) (pver : BitVec 4),
    let p := s.port port
    let only (t : State) : Prop := { t with ports := s.ports } = s ∧ ∀ q, q ≠ port → t.port q = s.port q
    let to' (i : Instr) (st : PortState) (P : Port → Prop) : Prop := ∃ t, exec i s = .next t ∧ only t ∧ (t.port port).st = st ∧ P (t.port port)
    let ctrl (x : Port) : Prop := ∃ y, x.out = p.out ++ [y] ∧ flitType y = 2
    let has (n k : Nat) : Prop := ∀ i, n ≤ i → i < n + k → lanes.getLsbD i = true
    (p.st = .detect → s.coordsOk s.mid = false → to' (.detect port lanes) .detect fun x => x.why = 0xB) ∧
    (p.st = .detect → s.coordsOk s.mid = true → (4 ≤ (List.range 8).countP lanes.getLsbD → to' (.detect port lanes) .equalise fun _ => True) ∧
      ((List.range 8).countP lanes.getLsbD < 4 → exec (.detect port lanes) s = .next s)) ∧
    ((p.st = .equalise ∨ p.st = .retrain) →
      (has 0 8 → to' (.equalise port lanes) .align fun x => x.width = 0 ∧ x.laneok = lanes) ∧
      (has 0 4 → ¬has 0 8 → to' (.equalise port lanes) .align fun x => x.width = 1 ∧ x.laneok = lanes) ∧
      (has 4 4 → ¬has 0 4 → to' (.equalise port lanes) .align fun x => x.width = 2 ∧ x.laneok = lanes) ∧
      (¬has 0 4 → ¬has 4 4 → p.attempts < 2 → to' (.equalise port lanes) .detect fun x => x.attempts = p.attempts + 1 ∧ x.ver = 0) ∧
      (¬has 0 4 → ¬has 4 4 → 2 ≤ p.attempts → to' (.equalise port lanes) .down fun x => x.why = portCode p.st ∧ x.errValid = true ∧
        (p.errValid = false → x.errCode = 0x0402))) ∧
    (p.st = .align → to' (.align port) .negotiate ctrl) ∧
    (p.st = .negotiate → bitAt peer.versions 0 = false → to' (.negotiate port peer) .down fun x => x.why = 0xA) ∧
    (p.st = .negotiate → bitAt peer.versions 0 = true →
      (s.neighbour p.dir.toNat = none → to' (.negotiate port peer) .miswired fun x => x.ver = 1) ∧
      (s.neighbour p.dir.toNat ≠ none → to' (.negotiate port peer) .identify fun x => x.ver = 1 ∧ x.caps = 3 &&& peer.caps ∧
        x.width = (if p.width = 0 then peer.width else p.width) ∧ (∀ k, k < 12 → x.cred.get k 0 = peer.reserved.toNat) ∧
        x.cred.get 15 0 = peer.shared.toNat ∧ ctrl x)) ∧
    (p.st = .identify → (s.neighbour p.dir.toNat ≠ some pmod ∨ pdir ≠ p.dir ^^^ 1 ∨ pver ≠ p.ver) →
      to' (.identify port pmod pport pdir pver) .miswired fun x => x.pmod = pmod ∧ x.pport = pport ∧ x.pdir = pdir) ∧
    (p.st = .identify → s.neighbour p.dir.toNat = some pmod → pdir = p.dir ^^^ 1 → pver = p.ver → p.movedTo = none → p.txq = [] →
      to' (.identify port pmod pport pdir pver) .active fun x => x.txSeq = 0 ∧ x.rxSeq = 0 ∧ x.rbuf = [] ∧ x.rx = [] ∧ x.pmod = pmod) ∧
    (p.st ∈ [.equalise, .align, .negotiate, .identify, .retrain] → p.attempts < 2 →
      to' (.trainingTimeout port) .detect fun x => x.attempts = p.attempts + 1 ∧ x.ver = 0) ∧
    (p.st ∉ [.equalise, .align, .negotiate, .identify, .retrain] → exec (.trainingTimeout port) s = .next s) ∧
    (s.trains port = false → exec (.amCtrlTrain port) s = .next s ∧ ∀ en, exec (.amCtrlEn port en) s = .next s) ∧
    ((p.st = .down ∨ p.st = .miswired) → s.inHold = false → s.pw.on = true → s.trains port = true →
      to' (.amCtrlTrain port) .detect fun x => x.attempts = 0 ∧ x.ver = 0) ∧
    (p.st = .off → s.inHold = false → s.pw.on = true → s.trains port = true → ∃ t, exec (.amCtrlEn port true) s = .next t ∧ (t.port port).st = .detect ∧
      (t.port port).en = true ∧ t.am.lock = true ∧ t.am.mid = s.am.mid ∧ t.mem = s.mem ∧ ∀ q, q ≠ port → t.port q = s.port q) ∧
    (p.st ≠ .active → s.inHold = false → s.pw.on = true → s.trains port = true → to' (.amCtrlEn port false) .off fun x => x.en = false ∧ x.width = 0 ∧ x.ver = 0)

/-- REMOTE TAG TIMEOUT (R266, R267): a tag with no answer after AM_RTO µs completes its load with E_LINKDOWN and is free with its TEPOCH
advanced; before, nothing changes. Where the spec leaves it open, the clauses follow the model's choice: log entry 32. -/
def Rules.RemoteTags : Prop :=
  ∀ (s : State) (tag : BitVec 10) (c : CoreId) (g : BitVec 4) (a : BitVec 64),
    let r := s.am.tags.get tag.toNat .init
    let k := s.core c
    (r.use = none → exec (.remoteTagTimeout tag) s = .next s) ∧
    (s.tb.now.toNat < r.start.toNat + 1000 * s.am.rto.toNat → exec (.remoteTagTimeout tag) s = .next s) ∧
    (r.use = some (.load c g a) → r.start.toNat + 1000 * s.am.rto.toNat ≤ s.tb.now.toNat →
      (k.ucOut.any fun o => o.grp == g && o.addr == a && !o.store) = true → ∃ t, exec (.remoteTagTimeout tag) s = .next t ∧ t.mem = s.mem ∧
        (∀ j, j ≠ c → t.core j = s.core j) ∧ (t.am.tags.get tag.toNat .init).use = none ∧ (t.am.tags.get tag.toNat .init).ep = r.ep + 1 ∧
        ∃ y, (t.core c).ucRes = k.ucRes ++ [y] ∧ y.grp = g ∧ y.addr = a ∧ y.err = 0x0402)

/-! ### The whole block -/

/-- A step runs the command at the front of the queue on the state with the queue's rest, and an empty queue idles. Where the spec leaves
it open, the clauses follow the model's choice: log entry 3. -/
def Obligations.StepRunsTheFrontCommand : Prop :=
  (∀ (c : Instr) (s : State), step { s with pending := c :: s.pending } = exec c s) ∧
  ∀ s : State, s.pending = [] → step s = .next s

/-- Reset (R9, R338, R351, R384, R414, R415, R451, R460): no command waits, the module is powered and at stage ROM, every queue is FREE,
no model is loaded, no tile runs, BAR4's window starts at 0 and is 64 GiB, and the gating of islands is off with its idle time at 100 µs.
Where the spec leaves it open, the clauses follow the model's choice: log entries 1, 2, 6. -/
def Obligations.StateAtReset : Prop :=
  State.reset.pending = [] ∧ State.reset.pw.on = true ∧ State.reset.launches = .empty ∧ State.reset.net = [] ∧ State.reset.eng.mst = 0 ∧ State.reset.eng.goldV = false ∧
    State.reset.west.stage = 0 ∧ State.reset.east.stage = 0 ∧ State.reset.inHold = false ∧ State.reset.am.lock = false ∧
    State.reset.tb.now = 0 ∧ State.reset.fe.hwin = 0 ∧ State.reset.host.barLog = 36 ∧ State.reset.pw.gateEn = false ∧
    State.reset.pw.gateIdle = 100 ∧ State.reset.spaces.has 0 = true ∧ (∀ q, (State.reset.queue q).st = .free) ∧
    (∀ c, (State.reset.core c).launch = none) ∧ (∀ p, (State.reset.port p).st = .off) ∧ ∀ a, State.reset.mem.read a = 0

/-- The invariant holds at reset. Where the spec leaves it open, the clauses follow the model's choice: log entries 1, 2. -/
def Obligations.InvariantAtReset : Prop := State.reset.Inv

/-- Every step from a state that meets the invariant answers a state that meets it: both memories keep their canonical form, and BAR4's
window stays aligned to its size and within 16 TiB (R451). -/
def Obligations.InvariantKeptByEveryStep : Prop :=
  ∀ s t : State, s.Inv → step s = .next t → t.Inv

/-- Every instruction word that the image check accepts decodes, and the command it decodes to encodes back to that word, whatever the
group (R129, R139). -/
def Obligations.WordsDecodeAndEncode : Prop :=
  ∀ (g : GroupAt) (w : BitVec 64), wordOk w = true → ∃ i, instrOf g w = some i ∧ instrWord i = some w

/-! ### Rules stated whole -/

/-- The compare condition of MOD[2:0] (R142), from whether an operand is NaN, whether the first is less and whether they are equal. -/
def Rules.condition (c : Nat) (nan lt eq : Prop) : Prop :=
  match c with
  | 0 => eq
  | 1 => nan ∨ ¬eq
  | 2 => lt
  | 3 => lt ∨ eq
  | 4 => ¬nan ∧ ¬lt ∧ ¬eq
  | 5 => ¬nan ∧ ¬lt
  | 6 => nan
  | _ => False

/-- The compare conditions of VCMP and VSET in every active lane (R142). Code 7 is reserved, and code 6 is for the f-types alone: the
image check accepts no word with either. -/
def Obligations.CompareConditions : Prop :=
  ∀ (s : State) (g : GroupAt) (f : VF) (x : Ctx),
    let c := fieldN f.md 0 3
    let A (l : Nat) := x.gr.rd f.src0 (wide f.ty) l
    let B (l : Nat) := x.gr.rd1 f (wide f.ty) l
    let V (b : BitVec 64) : FVal := if f.ty = .f64 then f64 b else f32 (b.setWidth 32)
    let nan (a b : BitVec 64) : Prop := isFloat f.ty = true ∧ (V a = .nan ∨ V b = .nan)
    let lt (a b : BitVec 64) : Prop := match f.ty with
      | .i32 => (a.setWidth 32).toInt < (b.setWidth 32).toInt
      | .u32 => (a.setWidth 32).toNat < (b.setWidth 32).toNat
      | .i64 => a.toInt < b.toInt
      | .u64 => a.toNat < b.toNat
      | _ => (V a).cmp (V b) = some .lt
    let eq (a b : BitVec 64) : Prop := match f.ty with
      | .i32 => a.setWidth 32 = b.setWidth 32
      | .u32 => a.setWidth 32 = b.setWidth 32
      | .i64 => a = b
      | .u64 => a = b
      | _ => (V a).cmp (V b) = some .eq
    let holds (l : Nat) : Prop := Rules.condition c (nan (A l) (B l)) (lt (A l) (B l)) (eq (A l) (B l))
    (∀ op ∈ [(0x40 : BitVec 8), 0x41], wordOk (encV op f) = true → c ≠ 7 ∧ (c = 6 → isFloat f.ty = true)) ∧
    (∀ n, f.dst = .s n → wordOk (encV 0x40 f) = true → Issues s g (encV 0x40 f) x → CleanV x.gr f (wide f.ty) (wide f.ty) →
      ∃ t m, exec (.vcmp g f) s = .next t ∧ WroteS x.gr (t.groupAt g) n.toNat false (BitVec.setWidth 64 (m : Word)) ∧
        ∀ l, x.active l → (m.getLsbD l = true ↔ holds l)) ∧
    (∀ d, f.dst = .v d → wordOk (encV 0x41 f) = true → Issues s g (encV 0x41 f) x → CleanV x.gr f (wide f.ty) (wide f.ty) →
      ∃ t val, exec (.vset g f) s = .next t ∧ WroteV x.gr (t.groupAt g) d false val ∧
        ∀ l, x.active l → (val l = 1 ∧ holds l) ∨ (val l = 0 ∧ ¬holds l))

/-- An LDR or STC with a lane whose address is not a multiple of its size, and no other error, stops the kernel with E_ALIGN (R183, R72). -/
def Obligations.MisalignedReservedAccess : Prop :=
  ∀ (s : State) (g : GroupAt) (f : MF) (x : Ctx), ∀ p ∈ [(Instr.ldr g f, (0x03 : BitVec 8), false), (.stc g f, 0x04, true)],
    Issues s g (encM p.2.1 f) x → x.memPois f true = false →
    let a (l : Nat) := x.gr.laneAddr f true l
    let n := sizeBytes f.size
    (∃ l, x.active l ∧ (a l).toNat % n ≠ 0) →
    (∀ l, x.active l → (a l).toNat % n = 0 → s.checkAddr (64 * x.core.spadUnits.toNat) f ⟨p.2.2, false, true⟩ (a l) = 0) →
    ∃ t, exec p.1 s = .next t ∧ KernelStop s t x 0x0202

/-- A ring fetch whose slot fails translation makes the queue FAILED with CODE E_XLATE, and no reply is written: nothing changes but what
the walk's own reads did (R331). -/
def Obligations.FailedRingFetch : Prop :=
  ∀ (s u : State) (q : QId) (c : Code), FrontEnd s → s.nextQueue = some q →
    let x := s.queue q
    s.vread x.asid (x.rbase + 64 * (x.rptr.toNat % 2 ^ x.rlog)) 64 = .fail c u →
    ∃ t, exec (.ringFetch q) s = .next t ∧ t = u.setQueue q { x with st := .failed, code := 0x0302 } ∧ u.queues = s.queues ∧ u.eng = s.eng ∧
      u.launches = s.launches ∧ u.net = s.net

/-! ### The statements made of several rules -/

/-- Every vector integer and bit instruction writes its result and nothing else (R141). -/
def Obligations.VectorIntegerInstructions : Prop := Rules.VectorIntegerArithmetic ∧ Rules.VectorBitOperations

/-- The compares, conversions, lane moves and reductions of the vector path (R141 to R144). -/
def Obligations.VectorCompareConvertReduce : Prop := Rules.VectorCompareConvertMove ∧ Rules.VectorReduction

/-- The scalar path: arithmetic and the special registers (R145). -/
def Obligations.ScalarInstructions : Prop := Rules.ScalarArithmetic ∧ Rules.SpecialRegisters

/-- Branches and the end of a group (R146). -/
def Obligations.ControlFlow : Prop := Rules.Branches ∧ Rules.GroupExit

/-- Where an instruction stops its kernel: a poisoned source, an address that fails its checks. -/
def Obligations.InstructionErrors : Prop := Rules.PoisonedSourceStops ∧ Rules.AddressChecksStop

/-- Loads and stores of the scratchpad (R63, R64). -/
def Obligations.ScratchpadAccess : Prop := Rules.ScratchpadLoads ∧ Rules.ScratchpadStores

/-- Loads of memory and of the weight-store window complete (R62, R66). -/
def Obligations.MemoryLoads : Prop := Rules.LoadsRetire ∧ Rules.WindowLoads

/-- Stores enter the store buffer and leave it (R60, R61). -/
def Obligations.MemoryStores : Prop := Rules.StoresEnterTheBuffer ∧ Rules.StoreBufferDrains

/-- Reserved loads, conditional stores and protection (R178 to R182). -/
def Obligations.Reservations : Prop := Rules.ReservedLoads ∧ Rules.ConditionalStores ∧ Rules.ProtectionEnds

/-- The matrix instructions issue, wait, stop and complete (R73 to R83, R95). -/
def Obligations.MatrixInstructions : Prop := Rules.MatrixIssue ∧ Rules.MatrixWork

/-- The array's own steps: the end of a K block and the scale fold (R76, R89). -/
def Obligations.ArraySteps : Prop := Rules.KBlockEnds ∧ Rules.ScaleFolds

/-- Barriers hold and release their groups (R170). -/
def Obligations.Barriers : Prop := Rules.BarrierArrivals ∧ Rules.BarrierReleases

/-- Results are delivered to routers and taken by cores (R244, R245). -/
def Obligations.FirnResults : Prop := Rules.Results ∧ Rules.Deliveries

/-- Responses at a slice (R203, R211). -/
def Obligations.ResponsesAtASlice : Prop := Rules.LineResponses ∧ Rules.UncachedAnswers

/-- The home's buffers drain, and a gather reads past them (R286 to R288). -/
def Obligations.MemoryBuffers : Prop := Rules.BuffersDrain ∧ Rules.Gathers

/-- Temperature, command parity and refresh of a memory controller (R293, R294, R377). -/
def Obligations.ControllerCare : Prop := Rules.TemperatureStates ∧ Rules.ChannelsAndRefresh

/-- The time base: codes, exchanges with the parent, lock and holdover (R391 to R398). -/
def Obligations.TimeBase : Prop := Rules.TimeCodes ∧ Rules.TimeSeries ∧ Rules.TimeLock

/-- The clocks and the gating of the islands (R393, R444, R445). -/
def Obligations.Islands : Prop := Rules.IslandClocks ∧ Rules.IslandGating

/-- Power and cooling events (R437 to R441, R458). -/
def Obligations.PowerAndCooling : Prop := Rules.PowerLoss ∧ Rules.SupplyAndCooling

/-- Event counters, triggers and the debug FIFOs (R403 to R410). -/
def Obligations.Observation : Prop := Rules.EventCounters ∧ Rules.Triggers ∧ Rules.DebugFifos

/-- The host's memory window and the port's configuration (R416, R417, R451). -/
def Obligations.HostPort : Prop := Rules.HostMemory ∧ Rules.HostWindow ∧ Rules.ConfigurationSpace

/-- Packets are checked, retire and are answered (R310, R333, R334). -/
def Obligations.PacketService : Prop := Rules.PacketChecks ∧ Rules.Replies

/-- Kernel queues and user queues are set up, changed and freed (R305, R324). -/
def Obligations.QueueManagement : Prop := Rules.KernelQueues ∧ Rules.QueuePackets

/-- Step programs, reduction descriptors and forward windows (R112, R233, R324). -/
def Obligations.ProgramsAndDescriptors : Prop := Rules.ProgramLoads ∧ Rules.Descriptors ∧ Rules.ForwardWindows

/-- The step engine from boundary to END (R114 to R124, R356 to R360). -/
def Obligations.StepEngine : Prop := Rules.StepNodes ∧ Rules.StepEnds

/-- Weight refetches and device resets (R373, R383 to R385). -/
def Obligations.ErrorsAndResets : Prop := Rules.WeightRefetches ∧ Rules.DeviceResets

/-- Boot, heartbeats and HOLD (R415 to R430). -/
def Obligations.Boot : Prop := Rules.BootStages ∧ Rules.Heartbeats

/-- The management port, quotes and the host port's training (R426, R431, R432). -/
def Obligations.Management : Prop := Rules.ManagementFrames ∧ Rules.Quotes

/-- Flits on a link, and remote tags that time out (R259, R267, R270). -/
def Obligations.LinkTraffic : Prop := Rules.LinkFlits ∧ Rules.RemoteTags

end
end

