-- ==== Sys2Proof/Laws/Tab.lean ====
section
/-! SUPPORT. Laws of the finite maps and of the HBM memory: a read after a write, and every write keeps the canonical form. -/
namespace Sys2Proof.Machine

/-! ### Entry lists -/

theorem lookL_putL_same {α : Type} (l : List (Nat × α)) (k : Nat) (v d : α) : lookL (putL l k v) k d = v := by
  induction l with
  | nil => simp [putL, lookL]
  | cons p t ih =>
    obtain ⟨j, w⟩ := p
    simp only [putL]
    split
    · simp [lookL]
    · split
      · simp [lookL]
      · rename_i h
        simp [lookL, h, ih]

theorem lookL_putL_ne {α : Type} (l : List (Nat × α)) {k i : Nat} (v d : α) (h : i ≠ k) :
    lookL (putL l k v) i d = lookL l i d := by
  induction l with
  | nil => simp [putL, lookL, Ne.symm h]
  | cons p t ih =>
    obtain ⟨j, w⟩ := p
    simp only [putL]
    split
    · simp [lookL, Ne.symm h]
    · split
      · rename_i h1
        subst h1
        simp [lookL, Ne.symm h]
      · simp only [lookL]
        split
        · rfl
        · exact ih

theorem lookL_filter_same {α : Type} (l : List (Nat × α)) (k : Nat) (d : α) :
    lookL (l.filter fun p => p.1 != k) k d = d := by
  induction l with
  | nil => rfl
  | cons p t ih =>
    obtain ⟨j, w⟩ := p
    simp only [List.filter_cons]
    split
    · rename_i h
      have hj : j ≠ k := by simpa using h
      simp [lookL, hj, ih]
    · exact ih

theorem lookL_filter_ne {α : Type} (l : List (Nat × α)) {k i : Nat} (d : α) (h : i ≠ k) :
    lookL (l.filter fun p => p.1 != k) i d = lookL l i d := by
  induction l with
  | nil => rfl
  | cons p t ih =>
    obtain ⟨j, w⟩ := p
    simp only [List.filter_cons]
    split
    · simp only [lookL]
      split
      · rfl
      · exact ih
    · rename_i hj
      have hj : j = k := by simpa using hj
      simp [lookL, hj, Ne.symm h, ih]

theorem map_putL {α β : Type} (f : α → β) (l : List (Nat × α)) (k : Nat) (v : α) :
    (putL l k v).map (fun p => (p.1, f p.2)) = putL (l.map fun p => (p.1, f p.2)) k (f v) := by
  induction l with
  | nil => rfl
  | cons p t ih =>
    obtain ⟨j, w⟩ := p
    simp only [putL, List.map_cons]
    split
    · simp
    · split
      · simp
      · simp [ih]

/-! ### Finite maps -/

@[simp] theorem Tab.get_put_same {α : Type} (t : Tab α) (k : Nat) (v d : α) : (t.put k v).get k d = v :=
  lookL_putL_same _ _ _ _

theorem Tab.get_put_ne {α : Type} (t : Tab α) {k i : Nat} (v d : α) (h : i ≠ k) : (t.put k v).get i d = t.get i d :=
  lookL_putL_ne _ _ _ h

@[simp] theorem Tab.get?_put_same {α : Type} (t : Tab α) (k : Nat) (v : α) : (t.put k v).get? k = some v := by
  simp [Tab.get?, Tab.put, map_putL some, lookL_putL_same]

theorem Tab.get?_put_ne {α : Type} (t : Tab α) {k i : Nat} (v : α) (h : i ≠ k) : (t.put k v).get? i = t.get? i := by
  simp [Tab.get?, Tab.put, map_putL some, lookL_putL_ne _ _ _ h]

@[simp] theorem Tab.get_empty {α : Type} (k : Nat) (d : α) : (Tab.empty : Tab α).get k d = d := rfl

@[simp] theorem Tab.get?_empty {α : Type} (k : Nat) : (Tab.empty : Tab α).get? k = none := rfl

@[simp] theorem Tab.get_del_same {α : Type} (t : Tab α) (k : Nat) (d : α) : (t.del k).get k d = d :=
  lookL_filter_same _ _ _

theorem Tab.get_del_ne {α : Type} (t : Tab α) {k i : Nat} (d : α) (h : i ≠ k) : (t.del k).get i d = t.get i d :=
  lookL_filter_ne _ _ h

theorem lookL_some {α : Type} (l : List (Nat × α)) (k : Nat) (v d : α)
    (h : lookL (l.map fun p => (p.1, some p.2)) k none = some v) : lookL l k d = v := by
  induction l with
  | nil => simp [lookL] at h
  | cons p t ih =>
    obtain ⟨j, w⟩ := p
    simp only [List.map_cons, lookL] at h ⊢
    split at h
    · rename_i hj
      simpa [hj] using h
    · rename_i hj
      simp [hj, ih h]

/-- A key that has an entry reads as that entry whatever the default. -/
theorem Tab.get_of_get? {α : Type} (t : Tab α) {k : Nat} {v : α} (d : α) (h : t.get? k = some v) : t.get k d = v :=
  lookL_some _ _ _ _ h

/-! ### Memory -/

theorem Memory.read_write_same (m : Memory) (a : Nat) (b : Byte) : (m.write a b).read a = b := by
  unfold Memory.write Memory.read
  split
  · rename_i h
    rw [h]
    exact lookL_filter_same _ _ _
  · exact lookL_putL_same _ _ _ _

theorem Memory.read_write_ne (m : Memory) {a i : Nat} (b : Byte) (h : i ≠ a) : (m.write a b).read i = m.read i := by
  unfold Memory.write Memory.read
  split
  · exact lookL_filter_ne _ _ h
  · exact lookL_putL_ne _ _ _ h

/-- A byte outside the bytes written reads as before. -/
theorem Memory.read_writeBytes_out (bs : List Byte) : ∀ (m : Memory) {a i : Nat}, (i < a ∨ a + bs.length ≤ i) →
    (m.writeBytes a bs).read i = m.read i := by
  induction bs with
  | nil => intro m a i _; rfl
  | cons b t ih =>
    intro m a i h
    simp only [List.length_cons] at h
    rw [Memory.writeBytes, ih _ (by omega), Memory.read_write_ne _ _ (by omega)]

/-- A byte within the bytes written reads as the byte written there. -/
theorem Memory.read_writeBytes_in (bs : List Byte) : ∀ (m : Memory) (a j : Nat), j < bs.length →
    (m.writeBytes a bs).read (a + j) = bs.getD j 0 := by
  induction bs with
  | nil => intro m a j h; simp at h
  | cons b t ih =>
    intro m a j h
    rw [Memory.writeBytes]
    cases j with
    | zero => simp [Memory.read_writeBytes_out t _ (Or.inl (Nat.lt_succ_self a)), Memory.read_write_same]
    | succ n =>
      have := ih (m.write a b) (a + 1) n (by simpa using h)
      rw [show a + (n + 1) = a + 1 + n by omega, this]
      simp

theorem risesL_iff (l : List Host.Cell) : risesL l = true ↔ l.Pairwise (fun p q => p.1 < q.1) := by
  induction l with
  | nil => simp [risesL]
  | cons p t ih =>
    cases t with
    | nil => simp [risesL]
    | cons q u =>
      simp only [risesL, Bool.and_eq_true, decide_eq_true_eq, ih, List.pairwise_cons, List.mem_cons, forall_eq_or_imp]
      constructor
      · rintro ⟨h, hq, hu⟩
        exact ⟨⟨h, fun x hx => Nat.lt_trans h (hq x hx)⟩, hq, hu⟩
      · rintro ⟨⟨h, _⟩, hq, hu⟩
        exact ⟨h, hq, hu⟩

theorem mem_putL {α : Type} (l : List (Nat × α)) (k : Nat) (v : α) (p : Nat × α) :
    p ∈ putL l k v → p = (k, v) ∨ p ∈ l := by
  induction l with
  | nil => simp [putL]
  | cons q t ih =>
    obtain ⟨j, w⟩ := q
    simp only [putL]
    split
    · intro h
      simpa using h
    · split
      · intro h
        rcases List.mem_cons.1 h with h | h
        · exact Or.inl h
        · exact Or.inr (List.mem_cons_of_mem _ h)
      · intro h
        rcases List.mem_cons.1 h with h | h
        · exact Or.inr (h ▸ List.mem_cons_self ..)
        · rcases ih h with h | h
          · exact Or.inl h
          · exact Or.inr (List.mem_cons_of_mem _ h)

theorem pairwise_putL (l : List Host.Cell) (k : Nat) (v : Byte) (h : l.Pairwise fun p q => p.1 < q.1) :
    (putL l k v).Pairwise fun p q => p.1 < q.1 := by
  induction l with
  | nil => simp [putL]
  | cons q t ih =>
    obtain ⟨j, w⟩ := q
    have ht := (List.pairwise_cons.1 h).2
    have hj := (List.pairwise_cons.1 h).1
    simp only [putL]
    split
    · rename_i hk
      refine List.pairwise_cons.2 ⟨fun p hp => ?_, h⟩
      rcases List.mem_cons.1 hp with hp | hp
      · simpa [hp] using hk
      · exact Nat.lt_trans hk (hj p hp)
    · split
      · rename_i hk
        exact List.pairwise_cons.2 ⟨fun p hp => hk ▸ hj p hp, ht⟩
      · refine List.pairwise_cons.2 ⟨fun p hp => ?_, ih ht⟩
        rcases mem_putL t k v p hp with hp | hp
        · rw [hp]; simp only; omega
        · exact hj p hp

/-- Every write of a byte keeps the canonical form. -/
theorem Memory.wf_write (m : Memory) (a : Nat) (b : Byte) (h : m.wf = true) : (m.write a b).wf = true := by
  unfold Memory.wf at h ⊢
  simp only [Bool.and_eq_true, risesL_iff, List.all_eq_true, bne_iff_ne, ne_eq] at h ⊢
  obtain ⟨hr, hn⟩ := h
  unfold Memory.write
  split
  · exact ⟨hr.filter _, fun p hp => hn p (List.mem_filter.1 hp).1⟩
  · rename_i hb
    refine ⟨pairwise_putL _ _ _ hr, fun p hp => ?_⟩
    rcases mem_putL _ _ _ p hp with hp | hp
    · rw [hp]; exact hb
    · exact hn p hp

/-- Every write of a run of bytes keeps the canonical form. -/
theorem Memory.wf_writeBytes (bs : List Byte) : ∀ (m : Memory) (a : Nat), m.wf = true → (m.writeBytes a bs).wf = true := by
  induction bs with
  | nil => intro m a h; exact h
  | cons b t ih => intro m a h; exact ih _ _ (Memory.wf_write m a b h)

theorem Memory.wf_empty : (⟨[]⟩ : Memory).wf = true := rfl

end Sys2Proof.Machine
end

