-- ==== Sys2Proof/Laws/State.lean ====
section
/-! SUPPORT. What each update of a unit of State changes: one lemma per field, and the unit read back. -/
namespace Sys2Proof.Machine

variable (s : State)

/-! ### setCore -/

@[simp] theorem State.setCore_pending (c : CoreId) (k : Core) : (s.setCore c k).pending = s.pending := rfl
@[simp] theorem State.setCore_fresh (c : CoreId) (k : Core) : (s.setCore c k).fresh = s.fresh := rfl
@[simp] theorem State.setCore_mem (c : CoreId) (k : Core) : (s.setCore c k).mem = s.mem := rfl
@[simp] theorem State.setCore_poison (c : CoreId) (k : Core) : (s.setCore c k).poison = s.poison := rfl
@[simp] theorem State.setCore_ws (c : CoreId) (k : Core) : (s.setCore c k).ws = s.ws := rfl
@[simp] theorem State.setCore_cores (c : CoreId) (k : Core) : (s.setCore c k).cores = s.cores.put c.toNat k := rfl
@[simp] theorem State.setCore_clus (c : CoreId) (k : Core) : (s.setCore c k).clus = s.clus := rfl
@[simp] theorem State.setCore_rtrs (c : CoreId) (k : Core) : (s.setCore c k).rtrs = s.rtrs := rfl
@[simp] theorem State.setCore_homes (c : CoreId) (k : Core) : (s.setCore c k).homes = s.homes := rfl
@[simp] theorem State.setCore_net (c : CoreId) (k : Core) : (s.setCore c k).net = s.net := rfl
@[simp] theorem State.setCore_ucResv (c : CoreId) (k : Core) : (s.setCore c k).ucResv = s.ucResv := rfl
@[simp] theorem State.setCore_descs (c : CoreId) (k : Core) : (s.setCore c k).descs = s.descs := rfl
@[simp] theorem State.setCore_descEp (c : CoreId) (k : Core) : (s.setCore c k).descEp = s.descEp := rfl
@[simp] theorem State.setCore_fnet (c : CoreId) (k : Core) : (s.setCore c k).fnet = s.fnet := rfl
@[simp] theorem State.setCore_dnet (c : CoreId) (k : Core) : (s.setCore c k).dnet = s.dnet := rfl
@[simp] theorem State.setCore_upAsm (c : CoreId) (k : Core) : (s.setCore c k).upAsm = s.upAsm := rfl
@[simp] theorem State.setCore_dnAsm (c : CoreId) (k : Core) : (s.setCore c k).dnAsm = s.dnAsm := rfl
@[simp] theorem State.setCore_ports (c : CoreId) (k : Core) : (s.setCore c k).ports = s.ports := rfl
@[simp] theorem State.setCore_am (c : CoreId) (k : Core) : (s.setCore c k).am = s.am := rfl
@[simp] theorem State.setCore_live (c : CoreId) (k : Core) : (s.setCore c k).live = s.live := rfl
@[simp] theorem State.setCore_ilvSel (c : CoreId) (k : Core) : (s.setCore c k).ilvSel = s.ilvSel := rfl
@[simp] theorem State.setCore_queues (c : CoreId) (k : Core) : (s.setCore c k).queues = s.queues := rfl
@[simp] theorem State.setCore_spaces (c : CoreId) (k : Core) : (s.setCore c k).spaces = s.spaces := rfl
@[simp] theorem State.setCore_fe (c : CoreId) (k : Core) : (s.setCore c k).fe = s.fe := rfl
@[simp] theorem State.setCore_launches (c : CoreId) (k : Core) : (s.setCore c k).launches = s.launches := rfl
@[simp] theorem State.setCore_launchSerial (c : CoreId) (k : Core) : (s.setCore c k).launchSerial = s.launchSerial := rfl
@[simp] theorem State.setCore_eng (c : CoreId) (k : Core) : (s.setCore c k).eng = s.eng := rfl
@[simp] theorem State.setCore_tb (c : CoreId) (k : Core) : (s.setCore c k).tb = s.tb := rfl
@[simp] theorem State.setCore_dg (c : CoreId) (k : Core) : (s.setCore c k).dg = s.dg := rfl
@[simp] theorem State.setCore_west (c : CoreId) (k : Core) : (s.setCore c k).west = s.west := rfl
@[simp] theorem State.setCore_east (c : CoreId) (k : Core) : (s.setCore c k).east = s.east := rfl
@[simp] theorem State.setCore_failedClu (c : CoreId) (k : Core) : (s.setCore c k).failedClu = s.failedClu := rfl
@[simp] theorem State.setCore_mapped (c : CoreId) (k : Core) : (s.setCore c k).mapped = s.mapped := rfl
@[simp] theorem State.setCore_mgmt (c : CoreId) (k : Core) : (s.setCore c k).mgmt = s.mgmt := rfl
@[simp] theorem State.setCore_eeprom (c : CoreId) (k : Core) : (s.setCore c k).eeprom = s.eeprom := rfl
@[simp] theorem State.setCore_host (c : CoreId) (k : Core) : (s.setCore c k).host = s.host := rfl
@[simp] theorem State.setCore_pw (c : CoreId) (k : Core) : (s.setCore c k).pw = s.pw := rfl
@[simp] theorem State.core_setCore (c : CoreId) (k : Core) : (s.setCore c k).core c = k := Tab.get_put_same _ _ _ _
theorem State.core_setCore_ne {i c : CoreId} (k : Core) (ne : i ≠ c) : (s.setCore c k).core i = s.core i :=
  Tab.get_put_ne _ _ _ fun e => ne (BitVec.eq_of_toNat_eq e)

/-! ### setClu -/

@[simp] theorem State.setClu_pending (c : Clu) (k : Cluster) : (s.setClu c k).pending = s.pending := rfl
@[simp] theorem State.setClu_fresh (c : Clu) (k : Cluster) : (s.setClu c k).fresh = s.fresh := rfl
@[simp] theorem State.setClu_mem (c : Clu) (k : Cluster) : (s.setClu c k).mem = s.mem := rfl
@[simp] theorem State.setClu_poison (c : Clu) (k : Cluster) : (s.setClu c k).poison = s.poison := rfl
@[simp] theorem State.setClu_ws (c : Clu) (k : Cluster) : (s.setClu c k).ws = s.ws := rfl
@[simp] theorem State.setClu_cores (c : Clu) (k : Cluster) : (s.setClu c k).cores = s.cores := rfl
@[simp] theorem State.setClu_clus (c : Clu) (k : Cluster) : (s.setClu c k).clus = s.clus.put c.toNat k := rfl
@[simp] theorem State.setClu_rtrs (c : Clu) (k : Cluster) : (s.setClu c k).rtrs = s.rtrs := rfl
@[simp] theorem State.setClu_homes (c : Clu) (k : Cluster) : (s.setClu c k).homes = s.homes := rfl
@[simp] theorem State.setClu_net (c : Clu) (k : Cluster) : (s.setClu c k).net = s.net := rfl
@[simp] theorem State.setClu_ucResv (c : Clu) (k : Cluster) : (s.setClu c k).ucResv = s.ucResv := rfl
@[simp] theorem State.setClu_descs (c : Clu) (k : Cluster) : (s.setClu c k).descs = s.descs := rfl
@[simp] theorem State.setClu_descEp (c : Clu) (k : Cluster) : (s.setClu c k).descEp = s.descEp := rfl
@[simp] theorem State.setClu_fnet (c : Clu) (k : Cluster) : (s.setClu c k).fnet = s.fnet := rfl
@[simp] theorem State.setClu_dnet (c : Clu) (k : Cluster) : (s.setClu c k).dnet = s.dnet := rfl
@[simp] theorem State.setClu_upAsm (c : Clu) (k : Cluster) : (s.setClu c k).upAsm = s.upAsm := rfl
@[simp] theorem State.setClu_dnAsm (c : Clu) (k : Cluster) : (s.setClu c k).dnAsm = s.dnAsm := rfl
@[simp] theorem State.setClu_ports (c : Clu) (k : Cluster) : (s.setClu c k).ports = s.ports := rfl
@[simp] theorem State.setClu_am (c : Clu) (k : Cluster) : (s.setClu c k).am = s.am := rfl
@[simp] theorem State.setClu_live (c : Clu) (k : Cluster) : (s.setClu c k).live = s.live := rfl
@[simp] theorem State.setClu_ilvSel (c : Clu) (k : Cluster) : (s.setClu c k).ilvSel = s.ilvSel := rfl
@[simp] theorem State.setClu_queues (c : Clu) (k : Cluster) : (s.setClu c k).queues = s.queues := rfl
@[simp] theorem State.setClu_spaces (c : Clu) (k : Cluster) : (s.setClu c k).spaces = s.spaces := rfl
@[simp] theorem State.setClu_fe (c : Clu) (k : Cluster) : (s.setClu c k).fe = s.fe := rfl
@[simp] theorem State.setClu_launches (c : Clu) (k : Cluster) : (s.setClu c k).launches = s.launches := rfl
@[simp] theorem State.setClu_launchSerial (c : Clu) (k : Cluster) : (s.setClu c k).launchSerial = s.launchSerial := rfl
@[simp] theorem State.setClu_eng (c : Clu) (k : Cluster) : (s.setClu c k).eng = s.eng := rfl
@[simp] theorem State.setClu_tb (c : Clu) (k : Cluster) : (s.setClu c k).tb = s.tb := rfl
@[simp] theorem State.setClu_dg (c : Clu) (k : Cluster) : (s.setClu c k).dg = s.dg := rfl
@[simp] theorem State.setClu_west (c : Clu) (k : Cluster) : (s.setClu c k).west = s.west := rfl
@[simp] theorem State.setClu_east (c : Clu) (k : Cluster) : (s.setClu c k).east = s.east := rfl
@[simp] theorem State.setClu_failedClu (c : Clu) (k : Cluster) : (s.setClu c k).failedClu = s.failedClu := rfl
@[simp] theorem State.setClu_mapped (c : Clu) (k : Cluster) : (s.setClu c k).mapped = s.mapped := rfl
@[simp] theorem State.setClu_mgmt (c : Clu) (k : Cluster) : (s.setClu c k).mgmt = s.mgmt := rfl
@[simp] theorem State.setClu_eeprom (c : Clu) (k : Cluster) : (s.setClu c k).eeprom = s.eeprom := rfl
@[simp] theorem State.setClu_host (c : Clu) (k : Cluster) : (s.setClu c k).host = s.host := rfl
@[simp] theorem State.setClu_pw (c : Clu) (k : Cluster) : (s.setClu c k).pw = s.pw := rfl
@[simp] theorem State.clu_setClu (c : Clu) (k : Cluster) : (s.setClu c k).clu c = k := Tab.get_put_same _ _ _ _
theorem State.clu_setClu_ne {i c : Clu} (k : Cluster) (ne : i ≠ c) : (s.setClu c k).clu i = s.clu i :=
  Tab.get_put_ne _ _ _ fun e => ne (BitVec.eq_of_toNat_eq e)

/-! ### setRtr -/

@[simp] theorem State.setRtr_pending (c : Clu) (r : Router) : (s.setRtr c r).pending = s.pending := rfl
@[simp] theorem State.setRtr_fresh (c : Clu) (r : Router) : (s.setRtr c r).fresh = s.fresh := rfl
@[simp] theorem State.setRtr_mem (c : Clu) (r : Router) : (s.setRtr c r).mem = s.mem := rfl
@[simp] theorem State.setRtr_poison (c : Clu) (r : Router) : (s.setRtr c r).poison = s.poison := rfl
@[simp] theorem State.setRtr_ws (c : Clu) (r : Router) : (s.setRtr c r).ws = s.ws := rfl
@[simp] theorem State.setRtr_cores (c : Clu) (r : Router) : (s.setRtr c r).cores = s.cores := rfl
@[simp] theorem State.setRtr_clus (c : Clu) (r : Router) : (s.setRtr c r).clus = s.clus := rfl
@[simp] theorem State.setRtr_rtrs (c : Clu) (r : Router) : (s.setRtr c r).rtrs = s.rtrs.put c.toNat r := rfl
@[simp] theorem State.setRtr_homes (c : Clu) (r : Router) : (s.setRtr c r).homes = s.homes := rfl
@[simp] theorem State.setRtr_net (c : Clu) (r : Router) : (s.setRtr c r).net = s.net := rfl
@[simp] theorem State.setRtr_ucResv (c : Clu) (r : Router) : (s.setRtr c r).ucResv = s.ucResv := rfl
@[simp] theorem State.setRtr_descs (c : Clu) (r : Router) : (s.setRtr c r).descs = s.descs := rfl
@[simp] theorem State.setRtr_descEp (c : Clu) (r : Router) : (s.setRtr c r).descEp = s.descEp := rfl
@[simp] theorem State.setRtr_fnet (c : Clu) (r : Router) : (s.setRtr c r).fnet = s.fnet := rfl
@[simp] theorem State.setRtr_dnet (c : Clu) (r : Router) : (s.setRtr c r).dnet = s.dnet := rfl
@[simp] theorem State.setRtr_upAsm (c : Clu) (r : Router) : (s.setRtr c r).upAsm = s.upAsm := rfl
@[simp] theorem State.setRtr_dnAsm (c : Clu) (r : Router) : (s.setRtr c r).dnAsm = s.dnAsm := rfl
@[simp] theorem State.setRtr_ports (c : Clu) (r : Router) : (s.setRtr c r).ports = s.ports := rfl
@[simp] theorem State.setRtr_am (c : Clu) (r : Router) : (s.setRtr c r).am = s.am := rfl
@[simp] theorem State.setRtr_live (c : Clu) (r : Router) : (s.setRtr c r).live = s.live := rfl
@[simp] theorem State.setRtr_ilvSel (c : Clu) (r : Router) : (s.setRtr c r).ilvSel = s.ilvSel := rfl
@[simp] theorem State.setRtr_queues (c : Clu) (r : Router) : (s.setRtr c r).queues = s.queues := rfl
@[simp] theorem State.setRtr_spaces (c : Clu) (r : Router) : (s.setRtr c r).spaces = s.spaces := rfl
@[simp] theorem State.setRtr_fe (c : Clu) (r : Router) : (s.setRtr c r).fe = s.fe := rfl
@[simp] theorem State.setRtr_launches (c : Clu) (r : Router) : (s.setRtr c r).launches = s.launches := rfl
@[simp] theorem State.setRtr_launchSerial (c : Clu) (r : Router) : (s.setRtr c r).launchSerial = s.launchSerial := rfl
@[simp] theorem State.setRtr_eng (c : Clu) (r : Router) : (s.setRtr c r).eng = s.eng := rfl
@[simp] theorem State.setRtr_tb (c : Clu) (r : Router) : (s.setRtr c r).tb = s.tb := rfl
@[simp] theorem State.setRtr_dg (c : Clu) (r : Router) : (s.setRtr c r).dg = s.dg := rfl
@[simp] theorem State.setRtr_west (c : Clu) (r : Router) : (s.setRtr c r).west = s.west := rfl
@[simp] theorem State.setRtr_east (c : Clu) (r : Router) : (s.setRtr c r).east = s.east := rfl
@[simp] theorem State.setRtr_failedClu (c : Clu) (r : Router) : (s.setRtr c r).failedClu = s.failedClu := rfl
@[simp] theorem State.setRtr_mapped (c : Clu) (r : Router) : (s.setRtr c r).mapped = s.mapped := rfl
@[simp] theorem State.setRtr_mgmt (c : Clu) (r : Router) : (s.setRtr c r).mgmt = s.mgmt := rfl
@[simp] theorem State.setRtr_eeprom (c : Clu) (r : Router) : (s.setRtr c r).eeprom = s.eeprom := rfl
@[simp] theorem State.setRtr_host (c : Clu) (r : Router) : (s.setRtr c r).host = s.host := rfl
@[simp] theorem State.setRtr_pw (c : Clu) (r : Router) : (s.setRtr c r).pw = s.pw := rfl
@[simp] theorem State.rtr_setRtr (c : Clu) (r : Router) : (s.setRtr c r).rtr c = r := Tab.get_put_same _ _ _ _
theorem State.rtr_setRtr_ne {i c : Clu} (r : Router) (ne : i ≠ c) : (s.setRtr c r).rtr i = s.rtr i :=
  Tab.get_put_ne _ _ _ fun e => ne (BitVec.eq_of_toNat_eq e)

/-! ### setHome -/

@[simp] theorem State.setHome_pending (f : Floe) (h : Home) : (s.setHome f h).pending = s.pending := rfl
@[simp] theorem State.setHome_fresh (f : Floe) (h : Home) : (s.setHome f h).fresh = s.fresh := rfl
@[simp] theorem State.setHome_mem (f : Floe) (h : Home) : (s.setHome f h).mem = s.mem := rfl
@[simp] theorem State.setHome_poison (f : Floe) (h : Home) : (s.setHome f h).poison = s.poison := rfl
@[simp] theorem State.setHome_ws (f : Floe) (h : Home) : (s.setHome f h).ws = s.ws := rfl
@[simp] theorem State.setHome_cores (f : Floe) (h : Home) : (s.setHome f h).cores = s.cores := rfl
@[simp] theorem State.setHome_clus (f : Floe) (h : Home) : (s.setHome f h).clus = s.clus := rfl
@[simp] theorem State.setHome_rtrs (f : Floe) (h : Home) : (s.setHome f h).rtrs = s.rtrs := rfl
@[simp] theorem State.setHome_homes (f : Floe) (h : Home) : (s.setHome f h).homes = s.homes.put f.toNat h := rfl
@[simp] theorem State.setHome_net (f : Floe) (h : Home) : (s.setHome f h).net = s.net := rfl
@[simp] theorem State.setHome_ucResv (f : Floe) (h : Home) : (s.setHome f h).ucResv = s.ucResv := rfl
@[simp] theorem State.setHome_descs (f : Floe) (h : Home) : (s.setHome f h).descs = s.descs := rfl
@[simp] theorem State.setHome_descEp (f : Floe) (h : Home) : (s.setHome f h).descEp = s.descEp := rfl
@[simp] theorem State.setHome_fnet (f : Floe) (h : Home) : (s.setHome f h).fnet = s.fnet := rfl
@[simp] theorem State.setHome_dnet (f : Floe) (h : Home) : (s.setHome f h).dnet = s.dnet := rfl
@[simp] theorem State.setHome_upAsm (f : Floe) (h : Home) : (s.setHome f h).upAsm = s.upAsm := rfl
@[simp] theorem State.setHome_dnAsm (f : Floe) (h : Home) : (s.setHome f h).dnAsm = s.dnAsm := rfl
@[simp] theorem State.setHome_ports (f : Floe) (h : Home) : (s.setHome f h).ports = s.ports := rfl
@[simp] theorem State.setHome_am (f : Floe) (h : Home) : (s.setHome f h).am = s.am := rfl
@[simp] theorem State.setHome_live (f : Floe) (h : Home) : (s.setHome f h).live = s.live := rfl
@[simp] theorem State.setHome_ilvSel (f : Floe) (h : Home) : (s.setHome f h).ilvSel = s.ilvSel := rfl
@[simp] theorem State.setHome_queues (f : Floe) (h : Home) : (s.setHome f h).queues = s.queues := rfl
@[simp] theorem State.setHome_spaces (f : Floe) (h : Home) : (s.setHome f h).spaces = s.spaces := rfl
@[simp] theorem State.setHome_fe (f : Floe) (h : Home) : (s.setHome f h).fe = s.fe := rfl
@[simp] theorem State.setHome_launches (f : Floe) (h : Home) : (s.setHome f h).launches = s.launches := rfl
@[simp] theorem State.setHome_launchSerial (f : Floe) (h : Home) : (s.setHome f h).launchSerial = s.launchSerial := rfl
@[simp] theorem State.setHome_eng (f : Floe) (h : Home) : (s.setHome f h).eng = s.eng := rfl
@[simp] theorem State.setHome_tb (f : Floe) (h : Home) : (s.setHome f h).tb = s.tb := rfl
@[simp] theorem State.setHome_dg (f : Floe) (h : Home) : (s.setHome f h).dg = s.dg := rfl
@[simp] theorem State.setHome_west (f : Floe) (h : Home) : (s.setHome f h).west = s.west := rfl
@[simp] theorem State.setHome_east (f : Floe) (h : Home) : (s.setHome f h).east = s.east := rfl
@[simp] theorem State.setHome_failedClu (f : Floe) (h : Home) : (s.setHome f h).failedClu = s.failedClu := rfl
@[simp] theorem State.setHome_mapped (f : Floe) (h : Home) : (s.setHome f h).mapped = s.mapped := rfl
@[simp] theorem State.setHome_mgmt (f : Floe) (h : Home) : (s.setHome f h).mgmt = s.mgmt := rfl
@[simp] theorem State.setHome_eeprom (f : Floe) (h : Home) : (s.setHome f h).eeprom = s.eeprom := rfl
@[simp] theorem State.setHome_host (f : Floe) (h : Home) : (s.setHome f h).host = s.host := rfl
@[simp] theorem State.setHome_pw (f : Floe) (h : Home) : (s.setHome f h).pw = s.pw := rfl
@[simp] theorem State.home_setHome (f : Floe) (h : Home) : (s.setHome f h).home f = h := Tab.get_put_same _ _ _ _
theorem State.home_setHome_ne {i f : Floe} (h : Home) (ne : i ≠ f) : (s.setHome f h).home i = s.home i :=
  Tab.get_put_ne _ _ _ fun e => ne (BitVec.eq_of_toNat_eq e)

/-! ### setPort -/

@[simp] theorem State.setPort_pending (p : PortId) (x : Port) : (s.setPort p x).pending = s.pending := rfl
@[simp] theorem State.setPort_fresh (p : PortId) (x : Port) : (s.setPort p x).fresh = s.fresh := rfl
@[simp] theorem State.setPort_mem (p : PortId) (x : Port) : (s.setPort p x).mem = s.mem := rfl
@[simp] theorem State.setPort_poison (p : PortId) (x : Port) : (s.setPort p x).poison = s.poison := rfl
@[simp] theorem State.setPort_ws (p : PortId) (x : Port) : (s.setPort p x).ws = s.ws := rfl
@[simp] theorem State.setPort_cores (p : PortId) (x : Port) : (s.setPort p x).cores = s.cores := rfl
@[simp] theorem State.setPort_clus (p : PortId) (x : Port) : (s.setPort p x).clus = s.clus := rfl
@[simp] theorem State.setPort_rtrs (p : PortId) (x : Port) : (s.setPort p x).rtrs = s.rtrs := rfl
@[simp] theorem State.setPort_homes (p : PortId) (x : Port) : (s.setPort p x).homes = s.homes := rfl
@[simp] theorem State.setPort_net (p : PortId) (x : Port) : (s.setPort p x).net = s.net := rfl
@[simp] theorem State.setPort_ucResv (p : PortId) (x : Port) : (s.setPort p x).ucResv = s.ucResv := rfl
@[simp] theorem State.setPort_descs (p : PortId) (x : Port) : (s.setPort p x).descs = s.descs := rfl
@[simp] theorem State.setPort_descEp (p : PortId) (x : Port) : (s.setPort p x).descEp = s.descEp := rfl
@[simp] theorem State.setPort_fnet (p : PortId) (x : Port) : (s.setPort p x).fnet = s.fnet := rfl
@[simp] theorem State.setPort_dnet (p : PortId) (x : Port) : (s.setPort p x).dnet = s.dnet := rfl
@[simp] theorem State.setPort_upAsm (p : PortId) (x : Port) : (s.setPort p x).upAsm = s.upAsm := rfl
@[simp] theorem State.setPort_dnAsm (p : PortId) (x : Port) : (s.setPort p x).dnAsm = s.dnAsm := rfl
@[simp] theorem State.setPort_ports (p : PortId) (x : Port) : (s.setPort p x).ports = s.ports.put p.toNat x := rfl
@[simp] theorem State.setPort_am (p : PortId) (x : Port) : (s.setPort p x).am = s.am := rfl
@[simp] theorem State.setPort_live (p : PortId) (x : Port) : (s.setPort p x).live = s.live := rfl
@[simp] theorem State.setPort_ilvSel (p : PortId) (x : Port) : (s.setPort p x).ilvSel = s.ilvSel := rfl
@[simp] theorem State.setPort_queues (p : PortId) (x : Port) : (s.setPort p x).queues = s.queues := rfl
@[simp] theorem State.setPort_spaces (p : PortId) (x : Port) : (s.setPort p x).spaces = s.spaces := rfl
@[simp] theorem State.setPort_fe (p : PortId) (x : Port) : (s.setPort p x).fe = s.fe := rfl
@[simp] theorem State.setPort_launches (p : PortId) (x : Port) : (s.setPort p x).launches = s.launches := rfl
@[simp] theorem State.setPort_launchSerial (p : PortId) (x : Port) : (s.setPort p x).launchSerial = s.launchSerial := rfl
@[simp] theorem State.setPort_eng (p : PortId) (x : Port) : (s.setPort p x).eng = s.eng := rfl
@[simp] theorem State.setPort_tb (p : PortId) (x : Port) : (s.setPort p x).tb = s.tb := rfl
@[simp] theorem State.setPort_dg (p : PortId) (x : Port) : (s.setPort p x).dg = s.dg := rfl
@[simp] theorem State.setPort_west (p : PortId) (x : Port) : (s.setPort p x).west = s.west := rfl
@[simp] theorem State.setPort_east (p : PortId) (x : Port) : (s.setPort p x).east = s.east := rfl
@[simp] theorem State.setPort_failedClu (p : PortId) (x : Port) : (s.setPort p x).failedClu = s.failedClu := rfl
@[simp] theorem State.setPort_mapped (p : PortId) (x : Port) : (s.setPort p x).mapped = s.mapped := rfl
@[simp] theorem State.setPort_mgmt (p : PortId) (x : Port) : (s.setPort p x).mgmt = s.mgmt := rfl
@[simp] theorem State.setPort_eeprom (p : PortId) (x : Port) : (s.setPort p x).eeprom = s.eeprom := rfl
@[simp] theorem State.setPort_host (p : PortId) (x : Port) : (s.setPort p x).host = s.host := rfl
@[simp] theorem State.setPort_pw (p : PortId) (x : Port) : (s.setPort p x).pw = s.pw := rfl
@[simp] theorem State.port_setPort (p : PortId) (x : Port) : (s.setPort p x).port p = x := Tab.get_put_same _ _ _ _
theorem State.port_setPort_ne {i p : PortId} (x : Port) (ne : i ≠ p) : (s.setPort p x).port i = s.port i :=
  Tab.get_put_ne _ _ _ fun e => ne (BitVec.eq_of_toNat_eq e)

/-! ### setQueue -/

@[simp] theorem State.setQueue_pending (q : QId) (x : Queue) : (s.setQueue q x).pending = s.pending := rfl
@[simp] theorem State.setQueue_fresh (q : QId) (x : Queue) : (s.setQueue q x).fresh = s.fresh := rfl
@[simp] theorem State.setQueue_mem (q : QId) (x : Queue) : (s.setQueue q x).mem = s.mem := rfl
@[simp] theorem State.setQueue_poison (q : QId) (x : Queue) : (s.setQueue q x).poison = s.poison := rfl
@[simp] theorem State.setQueue_ws (q : QId) (x : Queue) : (s.setQueue q x).ws = s.ws := rfl
@[simp] theorem State.setQueue_cores (q : QId) (x : Queue) : (s.setQueue q x).cores = s.cores := rfl
@[simp] theorem State.setQueue_clus (q : QId) (x : Queue) : (s.setQueue q x).clus = s.clus := rfl
@[simp] theorem State.setQueue_rtrs (q : QId) (x : Queue) : (s.setQueue q x).rtrs = s.rtrs := rfl
@[simp] theorem State.setQueue_homes (q : QId) (x : Queue) : (s.setQueue q x).homes = s.homes := rfl
@[simp] theorem State.setQueue_net (q : QId) (x : Queue) : (s.setQueue q x).net = s.net := rfl
@[simp] theorem State.setQueue_ucResv (q : QId) (x : Queue) : (s.setQueue q x).ucResv = s.ucResv := rfl
@[simp] theorem State.setQueue_descs (q : QId) (x : Queue) : (s.setQueue q x).descs = s.descs := rfl
@[simp] theorem State.setQueue_descEp (q : QId) (x : Queue) : (s.setQueue q x).descEp = s.descEp := rfl
@[simp] theorem State.setQueue_fnet (q : QId) (x : Queue) : (s.setQueue q x).fnet = s.fnet := rfl
@[simp] theorem State.setQueue_dnet (q : QId) (x : Queue) : (s.setQueue q x).dnet = s.dnet := rfl
@[simp] theorem State.setQueue_upAsm (q : QId) (x : Queue) : (s.setQueue q x).upAsm = s.upAsm := rfl
@[simp] theorem State.setQueue_dnAsm (q : QId) (x : Queue) : (s.setQueue q x).dnAsm = s.dnAsm := rfl
@[simp] theorem State.setQueue_ports (q : QId) (x : Queue) : (s.setQueue q x).ports = s.ports := rfl
@[simp] theorem State.setQueue_am (q : QId) (x : Queue) : (s.setQueue q x).am = s.am := rfl
@[simp] theorem State.setQueue_live (q : QId) (x : Queue) : (s.setQueue q x).live = s.live := rfl
@[simp] theorem State.setQueue_ilvSel (q : QId) (x : Queue) : (s.setQueue q x).ilvSel = s.ilvSel := rfl
@[simp] theorem State.setQueue_queues (q : QId) (x : Queue) : (s.setQueue q x).queues = s.queues.put q.toNat x := rfl
@[simp] theorem State.setQueue_spaces (q : QId) (x : Queue) : (s.setQueue q x).spaces = s.spaces := rfl
@[simp] theorem State.setQueue_fe (q : QId) (x : Queue) : (s.setQueue q x).fe = s.fe := rfl
@[simp] theorem State.setQueue_launches (q : QId) (x : Queue) : (s.setQueue q x).launches = s.launches := rfl
@[simp] theorem State.setQueue_launchSerial (q : QId) (x : Queue) : (s.setQueue q x).launchSerial = s.launchSerial := rfl
@[simp] theorem State.setQueue_eng (q : QId) (x : Queue) : (s.setQueue q x).eng = s.eng := rfl
@[simp] theorem State.setQueue_tb (q : QId) (x : Queue) : (s.setQueue q x).tb = s.tb := rfl
@[simp] theorem State.setQueue_dg (q : QId) (x : Queue) : (s.setQueue q x).dg = s.dg := rfl
@[simp] theorem State.setQueue_west (q : QId) (x : Queue) : (s.setQueue q x).west = s.west := rfl
@[simp] theorem State.setQueue_east (q : QId) (x : Queue) : (s.setQueue q x).east = s.east := rfl
@[simp] theorem State.setQueue_failedClu (q : QId) (x : Queue) : (s.setQueue q x).failedClu = s.failedClu := rfl
@[simp] theorem State.setQueue_mapped (q : QId) (x : Queue) : (s.setQueue q x).mapped = s.mapped := rfl
@[simp] theorem State.setQueue_mgmt (q : QId) (x : Queue) : (s.setQueue q x).mgmt = s.mgmt := rfl
@[simp] theorem State.setQueue_eeprom (q : QId) (x : Queue) : (s.setQueue q x).eeprom = s.eeprom := rfl
@[simp] theorem State.setQueue_host (q : QId) (x : Queue) : (s.setQueue q x).host = s.host := rfl
@[simp] theorem State.setQueue_pw (q : QId) (x : Queue) : (s.setQueue q x).pw = s.pw := rfl
@[simp] theorem State.queue_setQueue (q : QId) (x : Queue) : (s.setQueue q x).queue q = x := Tab.get_put_same _ _ _ _
theorem State.queue_setQueue_ne {i q : QId} (x : Queue) (ne : i ≠ q) : (s.setQueue q x).queue i = s.queue i :=
  Tab.get_put_ne _ _ _ fun e => ne (BitVec.eq_of_toNat_eq e)

/-! ### setLaunch -/

@[simp] theorem State.setLaunch_pending (l : Nat) (x : Launch) : (s.setLaunch l x).pending = s.pending := rfl
@[simp] theorem State.setLaunch_fresh (l : Nat) (x : Launch) : (s.setLaunch l x).fresh = s.fresh := rfl
@[simp] theorem State.setLaunch_mem (l : Nat) (x : Launch) : (s.setLaunch l x).mem = s.mem := rfl
@[simp] theorem State.setLaunch_poison (l : Nat) (x : Launch) : (s.setLaunch l x).poison = s.poison := rfl
@[simp] theorem State.setLaunch_ws (l : Nat) (x : Launch) : (s.setLaunch l x).ws = s.ws := rfl
@[simp] theorem State.setLaunch_cores (l : Nat) (x : Launch) : (s.setLaunch l x).cores = s.cores := rfl
@[simp] theorem State.setLaunch_clus (l : Nat) (x : Launch) : (s.setLaunch l x).clus = s.clus := rfl
@[simp] theorem State.setLaunch_rtrs (l : Nat) (x : Launch) : (s.setLaunch l x).rtrs = s.rtrs := rfl
@[simp] theorem State.setLaunch_homes (l : Nat) (x : Launch) : (s.setLaunch l x).homes = s.homes := rfl
@[simp] theorem State.setLaunch_net (l : Nat) (x : Launch) : (s.setLaunch l x).net = s.net := rfl
@[simp] theorem State.setLaunch_ucResv (l : Nat) (x : Launch) : (s.setLaunch l x).ucResv = s.ucResv := rfl
@[simp] theorem State.setLaunch_descs (l : Nat) (x : Launch) : (s.setLaunch l x).descs = s.descs := rfl
@[simp] theorem State.setLaunch_descEp (l : Nat) (x : Launch) : (s.setLaunch l x).descEp = s.descEp := rfl
@[simp] theorem State.setLaunch_fnet (l : Nat) (x : Launch) : (s.setLaunch l x).fnet = s.fnet := rfl
@[simp] theorem State.setLaunch_dnet (l : Nat) (x : Launch) : (s.setLaunch l x).dnet = s.dnet := rfl
@[simp] theorem State.setLaunch_upAsm (l : Nat) (x : Launch) : (s.setLaunch l x).upAsm = s.upAsm := rfl
@[simp] theorem State.setLaunch_dnAsm (l : Nat) (x : Launch) : (s.setLaunch l x).dnAsm = s.dnAsm := rfl
@[simp] theorem State.setLaunch_ports (l : Nat) (x : Launch) : (s.setLaunch l x).ports = s.ports := rfl
@[simp] theorem State.setLaunch_am (l : Nat) (x : Launch) : (s.setLaunch l x).am = s.am := rfl
@[simp] theorem State.setLaunch_live (l : Nat) (x : Launch) : (s.setLaunch l x).live = s.live := rfl
@[simp] theorem State.setLaunch_ilvSel (l : Nat) (x : Launch) : (s.setLaunch l x).ilvSel = s.ilvSel := rfl
@[simp] theorem State.setLaunch_queues (l : Nat) (x : Launch) : (s.setLaunch l x).queues = s.queues := rfl
@[simp] theorem State.setLaunch_spaces (l : Nat) (x : Launch) : (s.setLaunch l x).spaces = s.spaces := rfl
@[simp] theorem State.setLaunch_fe (l : Nat) (x : Launch) : (s.setLaunch l x).fe = s.fe := rfl
@[simp] theorem State.setLaunch_launches (l : Nat) (x : Launch) : (s.setLaunch l x).launches = s.launches.put l x := rfl
@[simp] theorem State.setLaunch_launchSerial (l : Nat) (x : Launch) : (s.setLaunch l x).launchSerial = s.launchSerial := rfl
@[simp] theorem State.setLaunch_eng (l : Nat) (x : Launch) : (s.setLaunch l x).eng = s.eng := rfl
@[simp] theorem State.setLaunch_tb (l : Nat) (x : Launch) : (s.setLaunch l x).tb = s.tb := rfl
@[simp] theorem State.setLaunch_dg (l : Nat) (x : Launch) : (s.setLaunch l x).dg = s.dg := rfl
@[simp] theorem State.setLaunch_west (l : Nat) (x : Launch) : (s.setLaunch l x).west = s.west := rfl
@[simp] theorem State.setLaunch_east (l : Nat) (x : Launch) : (s.setLaunch l x).east = s.east := rfl
@[simp] theorem State.setLaunch_failedClu (l : Nat) (x : Launch) : (s.setLaunch l x).failedClu = s.failedClu := rfl
@[simp] theorem State.setLaunch_mapped (l : Nat) (x : Launch) : (s.setLaunch l x).mapped = s.mapped := rfl
@[simp] theorem State.setLaunch_mgmt (l : Nat) (x : Launch) : (s.setLaunch l x).mgmt = s.mgmt := rfl
@[simp] theorem State.setLaunch_eeprom (l : Nat) (x : Launch) : (s.setLaunch l x).eeprom = s.eeprom := rfl
@[simp] theorem State.setLaunch_host (l : Nat) (x : Launch) : (s.setLaunch l x).host = s.host := rfl
@[simp] theorem State.setLaunch_pw (l : Nat) (x : Launch) : (s.setLaunch l x).pw = s.pw := rfl

/-! ### setDesc -/

@[simp] theorem State.setDesc_pending (d : DescId) (x : Desc) : (s.setDesc d x).pending = s.pending := rfl
@[simp] theorem State.setDesc_fresh (d : DescId) (x : Desc) : (s.setDesc d x).fresh = s.fresh := rfl
@[simp] theorem State.setDesc_mem (d : DescId) (x : Desc) : (s.setDesc d x).mem = s.mem := rfl
@[simp] theorem State.setDesc_poison (d : DescId) (x : Desc) : (s.setDesc d x).poison = s.poison := rfl
@[simp] theorem State.setDesc_ws (d : DescId) (x : Desc) : (s.setDesc d x).ws = s.ws := rfl
@[simp] theorem State.setDesc_cores (d : DescId) (x : Desc) : (s.setDesc d x).cores = s.cores := rfl
@[simp] theorem State.setDesc_clus (d : DescId) (x : Desc) : (s.setDesc d x).clus = s.clus := rfl
@[simp] theorem State.setDesc_rtrs (d : DescId) (x : Desc) : (s.setDesc d x).rtrs = s.rtrs := rfl
@[simp] theorem State.setDesc_homes (d : DescId) (x : Desc) : (s.setDesc d x).homes = s.homes := rfl
@[simp] theorem State.setDesc_net (d : DescId) (x : Desc) : (s.setDesc d x).net = s.net := rfl
@[simp] theorem State.setDesc_ucResv (d : DescId) (x : Desc) : (s.setDesc d x).ucResv = s.ucResv := rfl
@[simp] theorem State.setDesc_descs (d : DescId) (x : Desc) : (s.setDesc d x).descs = s.descs.put d.toNat x := rfl
@[simp] theorem State.setDesc_descEp (d : DescId) (x : Desc) : (s.setDesc d x).descEp = s.descEp := rfl
@[simp] theorem State.setDesc_fnet (d : DescId) (x : Desc) : (s.setDesc d x).fnet = s.fnet := rfl
@[simp] theorem State.setDesc_dnet (d : DescId) (x : Desc) : (s.setDesc d x).dnet = s.dnet := rfl
@[simp] theorem State.setDesc_upAsm (d : DescId) (x : Desc) : (s.setDesc d x).upAsm = s.upAsm := rfl
@[simp] theorem State.setDesc_dnAsm (d : DescId) (x : Desc) : (s.setDesc d x).dnAsm = s.dnAsm := rfl
@[simp] theorem State.setDesc_ports (d : DescId) (x : Desc) : (s.setDesc d x).ports = s.ports := rfl
@[simp] theorem State.setDesc_am (d : DescId) (x : Desc) : (s.setDesc d x).am = s.am := rfl
@[simp] theorem State.setDesc_live (d : DescId) (x : Desc) : (s.setDesc d x).live = s.live := rfl
@[simp] theorem State.setDesc_ilvSel (d : DescId) (x : Desc) : (s.setDesc d x).ilvSel = s.ilvSel := rfl
@[simp] theorem State.setDesc_queues (d : DescId) (x : Desc) : (s.setDesc d x).queues = s.queues := rfl
@[simp] theorem State.setDesc_spaces (d : DescId) (x : Desc) : (s.setDesc d x).spaces = s.spaces := rfl
@[simp] theorem State.setDesc_fe (d : DescId) (x : Desc) : (s.setDesc d x).fe = s.fe := rfl
@[simp] theorem State.setDesc_launches (d : DescId) (x : Desc) : (s.setDesc d x).launches = s.launches := rfl
@[simp] theorem State.setDesc_launchSerial (d : DescId) (x : Desc) : (s.setDesc d x).launchSerial = s.launchSerial := rfl
@[simp] theorem State.setDesc_eng (d : DescId) (x : Desc) : (s.setDesc d x).eng = s.eng := rfl
@[simp] theorem State.setDesc_tb (d : DescId) (x : Desc) : (s.setDesc d x).tb = s.tb := rfl
@[simp] theorem State.setDesc_dg (d : DescId) (x : Desc) : (s.setDesc d x).dg = s.dg := rfl
@[simp] theorem State.setDesc_west (d : DescId) (x : Desc) : (s.setDesc d x).west = s.west := rfl
@[simp] theorem State.setDesc_east (d : DescId) (x : Desc) : (s.setDesc d x).east = s.east := rfl
@[simp] theorem State.setDesc_failedClu (d : DescId) (x : Desc) : (s.setDesc d x).failedClu = s.failedClu := rfl
@[simp] theorem State.setDesc_mapped (d : DescId) (x : Desc) : (s.setDesc d x).mapped = s.mapped := rfl
@[simp] theorem State.setDesc_mgmt (d : DescId) (x : Desc) : (s.setDesc d x).mgmt = s.mgmt := rfl
@[simp] theorem State.setDesc_eeprom (d : DescId) (x : Desc) : (s.setDesc d x).eeprom = s.eeprom := rfl
@[simp] theorem State.setDesc_host (d : DescId) (x : Desc) : (s.setDesc d x).host = s.host := rfl
@[simp] theorem State.setDesc_pw (d : DescId) (x : Desc) : (s.setDesc d x).pw = s.pw := rfl

/-! ### One unit through the update of another -/

@[simp] theorem State.clu_setCore (c : CoreId) (k : Core) (i : Clu) : (s.setCore c k).clu i = s.clu i := rfl
@[simp] theorem State.rtr_setCore (c : CoreId) (k : Core) (i : Clu) : (s.setCore c k).rtr i = s.rtr i := rfl
@[simp] theorem State.home_setCore (c : CoreId) (k : Core) (i : Floe) : (s.setCore c k).home i = s.home i := rfl
@[simp] theorem State.port_setCore (c : CoreId) (k : Core) (i : PortId) : (s.setCore c k).port i = s.port i := rfl
@[simp] theorem State.queue_setCore (c : CoreId) (k : Core) (i : QId) : (s.setCore c k).queue i = s.queue i := rfl
@[simp] theorem State.core_setClu (c : Clu) (k : Cluster) (i : CoreId) : (s.setClu c k).core i = s.core i := rfl
@[simp] theorem State.rtr_setClu (c : Clu) (k : Cluster) (i : Clu) : (s.setClu c k).rtr i = s.rtr i := rfl
@[simp] theorem State.home_setClu (c : Clu) (k : Cluster) (i : Floe) : (s.setClu c k).home i = s.home i := rfl
@[simp] theorem State.port_setClu (c : Clu) (k : Cluster) (i : PortId) : (s.setClu c k).port i = s.port i := rfl
@[simp] theorem State.queue_setClu (c : Clu) (k : Cluster) (i : QId) : (s.setClu c k).queue i = s.queue i := rfl
@[simp] theorem State.core_setRtr (c : Clu) (r : Router) (i : CoreId) : (s.setRtr c r).core i = s.core i := rfl
@[simp] theorem State.clu_setRtr (c : Clu) (r : Router) (i : Clu) : (s.setRtr c r).clu i = s.clu i := rfl
@[simp] theorem State.home_setRtr (c : Clu) (r : Router) (i : Floe) : (s.setRtr c r).home i = s.home i := rfl
@[simp] theorem State.port_setRtr (c : Clu) (r : Router) (i : PortId) : (s.setRtr c r).port i = s.port i := rfl
@[simp] theorem State.queue_setRtr (c : Clu) (r : Router) (i : QId) : (s.setRtr c r).queue i = s.queue i := rfl
@[simp] theorem State.core_setHome (f : Floe) (h : Home) (i : CoreId) : (s.setHome f h).core i = s.core i := rfl
@[simp] theorem State.clu_setHome (f : Floe) (h : Home) (i : Clu) : (s.setHome f h).clu i = s.clu i := rfl
@[simp] theorem State.rtr_setHome (f : Floe) (h : Home) (i : Clu) : (s.setHome f h).rtr i = s.rtr i := rfl
@[simp] theorem State.port_setHome (f : Floe) (h : Home) (i : PortId) : (s.setHome f h).port i = s.port i := rfl
@[simp] theorem State.queue_setHome (f : Floe) (h : Home) (i : QId) : (s.setHome f h).queue i = s.queue i := rfl
@[simp] theorem State.core_setPort (p : PortId) (x : Port) (i : CoreId) : (s.setPort p x).core i = s.core i := rfl
@[simp] theorem State.clu_setPort (p : PortId) (x : Port) (i : Clu) : (s.setPort p x).clu i = s.clu i := rfl
@[simp] theorem State.rtr_setPort (p : PortId) (x : Port) (i : Clu) : (s.setPort p x).rtr i = s.rtr i := rfl
@[simp] theorem State.home_setPort (p : PortId) (x : Port) (i : Floe) : (s.setPort p x).home i = s.home i := rfl
@[simp] theorem State.queue_setPort (p : PortId) (x : Port) (i : QId) : (s.setPort p x).queue i = s.queue i := rfl
@[simp] theorem State.core_setQueue (q : QId) (x : Queue) (i : CoreId) : (s.setQueue q x).core i = s.core i := rfl
@[simp] theorem State.clu_setQueue (q : QId) (x : Queue) (i : Clu) : (s.setQueue q x).clu i = s.clu i := rfl
@[simp] theorem State.rtr_setQueue (q : QId) (x : Queue) (i : Clu) : (s.setQueue q x).rtr i = s.rtr i := rfl
@[simp] theorem State.home_setQueue (q : QId) (x : Queue) (i : Floe) : (s.setQueue q x).home i = s.home i := rfl
@[simp] theorem State.port_setQueue (q : QId) (x : Queue) (i : PortId) : (s.setQueue q x).port i = s.port i := rfl
@[simp] theorem State.core_setLaunch (l : Nat) (x : Launch) (i : CoreId) : (s.setLaunch l x).core i = s.core i := rfl
@[simp] theorem State.clu_setLaunch (l : Nat) (x : Launch) (i : Clu) : (s.setLaunch l x).clu i = s.clu i := rfl
@[simp] theorem State.rtr_setLaunch (l : Nat) (x : Launch) (i : Clu) : (s.setLaunch l x).rtr i = s.rtr i := rfl
@[simp] theorem State.home_setLaunch (l : Nat) (x : Launch) (i : Floe) : (s.setLaunch l x).home i = s.home i := rfl
@[simp] theorem State.port_setLaunch (l : Nat) (x : Launch) (i : PortId) : (s.setLaunch l x).port i = s.port i := rfl
@[simp] theorem State.queue_setLaunch (l : Nat) (x : Launch) (i : QId) : (s.setLaunch l x).queue i = s.queue i := rfl
@[simp] theorem State.core_setDesc (d : DescId) (x : Desc) (i : CoreId) : (s.setDesc d x).core i = s.core i := rfl
@[simp] theorem State.clu_setDesc (d : DescId) (x : Desc) (i : Clu) : (s.setDesc d x).clu i = s.clu i := rfl
@[simp] theorem State.rtr_setDesc (d : DescId) (x : Desc) (i : Clu) : (s.setDesc d x).rtr i = s.rtr i := rfl
@[simp] theorem State.home_setDesc (d : DescId) (x : Desc) (i : Floe) : (s.setDesc d x).home i = s.home i := rfl
@[simp] theorem State.port_setDesc (d : DescId) (x : Desc) (i : PortId) : (s.setDesc d x).port i = s.port i := rfl
@[simp] theorem State.queue_setDesc (d : DescId) (x : Desc) (i : QId) : (s.setDesc d x).queue i = s.queue i := rfl

/-! ### A group of a core -/

variable (c : Core) (g : BitVec 4) (gr : Group)

@[simp] theorem Core.setGroup_launch : (c.setGroup g gr).launch = c.launch := rfl
@[simp] theorem Core.setGroup_tile : (c.setGroup g gr).tile = c.tile := rfl
@[simp] theorem Core.setGroup_started : (c.setGroup g gr).started = c.started := rfl
@[simp] theorem Core.setGroup_groups : (c.setGroup g gr).groups = c.groups.put g.toNat gr := rfl
@[simp] theorem Core.setGroup_mode : (c.setGroup g gr).mode = c.mode := rfl
@[simp] theorem Core.setGroup_ngrp : (c.setGroup g gr).ngrp = c.ngrp := rfl
@[simp] theorem Core.setGroup_valloc : (c.setGroup g gr).valloc = c.valloc := rfl
@[simp] theorem Core.setGroup_spadUnits : (c.setGroup g gr).spadUnits = c.spadUnits := rfl
@[simp] theorem Core.setGroup_run : (c.setGroup g gr).run = c.run := rfl
@[simp] theorem Core.setGroup_errValid : (c.setGroup g gr).errValid = c.errValid := rfl
@[simp] theorem Core.setGroup_errGrp : (c.setGroup g gr).errGrp = c.errGrp := rfl
@[simp] theorem Core.setGroup_errCode : (c.setGroup g gr).errCode = c.errCode := rfl
@[simp] theorem Core.setGroup_errSeen : (c.setGroup g gr).errSeen = c.errSeen := rfl
@[simp] theorem Core.setGroup_epc : (c.setGroup g gr).epc = c.epc := rfl
@[simp] theorem Core.setGroup_spad : (c.setGroup g gr).spad = c.spad := rfl
@[simp] theorem Core.setGroup_spadWr : (c.setGroup g gr).spadWr = c.spadWr := rfl
@[simp] theorem Core.setGroup_spadPois : (c.setGroup g gr).spadPois = c.spadPois := rfl
@[simp] theorem Core.setGroup_sb : (c.setGroup g gr).sb = c.sb := rfl
@[simp] theorem Core.setGroup_sbSerial : (c.setGroup g gr).sbSerial = c.sbSerial := rfl
@[simp] theorem Core.setGroup_instSerial : (c.setGroup g gr).instSerial = c.instSerial := rfl
@[simp] theorem Core.setGroup_l1 : (c.setGroup g gr).l1 = c.l1 := rfl
@[simp] theorem Core.setGroup_arr : (c.setGroup g gr).arr = c.arr := rfl
@[simp] theorem Core.setGroup_ucRes : (c.setGroup g gr).ucRes = c.ucRes := rfl
@[simp] theorem Core.setGroup_ucOut : (c.setGroup g gr).ucOut = c.ucOut := rfl
@[simp] theorem Core.setGroup_lastV : (c.setGroup g gr).lastV = c.lastV := rfl
@[simp] theorem Core.setGroup_lastS : (c.setGroup g gr).lastS = c.lastS := rfl
@[simp] theorem Core.setGroup_puts : (c.setGroup g gr).puts = c.puts := rfl
@[simp] theorem Core.setGroup_putSerial : (c.setGroup g gr).putSerial = c.putSerial := rfl
@[simp] theorem Core.setGroup_timer : (c.setGroup g gr).timer = c.timer := rfl
@[simp] theorem Core.setGroup_held : (c.setGroup g gr).held = c.held := rfl
@[simp] theorem Core.setGroup_l1of : (c.setGroup g gr).l1of = c.l1of := rfl

/-! ### A fresh free value -/

@[simp] theorem State.take_pending : s.take.2.pending = s.pending := rfl
@[simp] theorem State.take_fresh : s.take.2.fresh = s.fresh + 1 := rfl
@[simp] theorem State.take_mem : s.take.2.mem = s.mem := rfl
@[simp] theorem State.take_poison : s.take.2.poison = s.poison := rfl
@[simp] theorem State.take_ws : s.take.2.ws = s.ws := rfl
@[simp] theorem State.take_cores : s.take.2.cores = s.cores := rfl
@[simp] theorem State.take_clus : s.take.2.clus = s.clus := rfl
@[simp] theorem State.take_rtrs : s.take.2.rtrs = s.rtrs := rfl
@[simp] theorem State.take_homes : s.take.2.homes = s.homes := rfl
@[simp] theorem State.take_net : s.take.2.net = s.net := rfl
@[simp] theorem State.take_ucResv : s.take.2.ucResv = s.ucResv := rfl
@[simp] theorem State.take_descs : s.take.2.descs = s.descs := rfl
@[simp] theorem State.take_descEp : s.take.2.descEp = s.descEp := rfl
@[simp] theorem State.take_fnet : s.take.2.fnet = s.fnet := rfl
@[simp] theorem State.take_dnet : s.take.2.dnet = s.dnet := rfl
@[simp] theorem State.take_upAsm : s.take.2.upAsm = s.upAsm := rfl
@[simp] theorem State.take_dnAsm : s.take.2.dnAsm = s.dnAsm := rfl
@[simp] theorem State.take_ports : s.take.2.ports = s.ports := rfl
@[simp] theorem State.take_am : s.take.2.am = s.am := rfl
@[simp] theorem State.take_live : s.take.2.live = s.live := rfl
@[simp] theorem State.take_ilvSel : s.take.2.ilvSel = s.ilvSel := rfl
@[simp] theorem State.take_queues : s.take.2.queues = s.queues := rfl
@[simp] theorem State.take_spaces : s.take.2.spaces = s.spaces := rfl
@[simp] theorem State.take_fe : s.take.2.fe = s.fe := rfl
@[simp] theorem State.take_launches : s.take.2.launches = s.launches := rfl
@[simp] theorem State.take_launchSerial : s.take.2.launchSerial = s.launchSerial := rfl
@[simp] theorem State.take_eng : s.take.2.eng = s.eng := rfl
@[simp] theorem State.take_tb : s.take.2.tb = s.tb := rfl
@[simp] theorem State.take_dg : s.take.2.dg = s.dg := rfl
@[simp] theorem State.take_west : s.take.2.west = s.west := rfl
@[simp] theorem State.take_east : s.take.2.east = s.east := rfl
@[simp] theorem State.take_failedClu : s.take.2.failedClu = s.failedClu := rfl
@[simp] theorem State.take_mapped : s.take.2.mapped = s.mapped := rfl
@[simp] theorem State.take_mgmt : s.take.2.mgmt = s.mgmt := rfl
@[simp] theorem State.take_eeprom : s.take.2.eeprom = s.eeprom := rfl
@[simp] theorem State.take_host : s.take.2.host = s.host := rfl
@[simp] theorem State.take_pw : s.take.2.pw = s.pw := rfl
@[simp] theorem State.take_fst : s.take.1 = s.fresh := rfl

end Sys2Proof.Machine
end

