-- ==== Sys2Proof/Laws/Ops.lean ====
section
/-! SUPPORT. What the shared operations do: the issue of a word, the retirement of an instruction, and writes of a group's registers. -/
namespace Sys2Proof.Machine

/-! ### Issue -/

/-- A group at a word of its image issues it. -/
theorem issuer_of_issues {s : State} {g : GroupAt} {w : BitVec 64} {x : Ctx} (h : Issues s g w x) : s.issuer g w = some x := by
  obtain ⟨id, grp, core, launch, la, gr, started, going, live, free, island, power, noHold, word⟩ := h
  obtain ⟨i, n, k, r, l, a⟩ := x
  simp only at id grp core launch la gr started going live free word
  subst id grp core
  simp [State.issuer, State.runner, launch, la, gr, started, going, live, free, island, power, noHold, word]

/-- A word issues only for a group at that word. -/
theorem issues_of_issuer {s : State} {g : GroupAt} {w : BitVec 64} {x : Ctx} (h : s.issuer g w = some x) : Issues s g w x := by
  unfold State.issuer State.runner at h
  split at h
  · cases h
  · rename_i y hy
    dsimp only at hy
    split at hy
    · cases hy
    · rename_i l hl
      split at hy
      · rename_i la gr hla hgr
        split at hy
        · rename_i hc
          split at h
          · rename_i hw
            cases h
            cases hy
            simp only [Bool.and_eq_true, Bool.not_eq_true', beq_iff_eq] at hc
            obtain ⟨⟨⟨⟨⟨⟨h1, h2⟩, h3⟩, h4⟩, h5⟩, h6⟩, h7⟩ := hc
            exact ⟨rfl, rfl, rfl, hl, hla, hgr, h1, h2, h3, h4, h5, h6, h7, hw⟩
          · cases h
        · cases hy
      · cases hy

/-! ### Retirement -/

theorem Cluster.sameButCounts_count (c : Cluster) (ev k : Nat) : c.sameButCounts (c.count ev k) := by
  unfold Cluster.count
  split <;> rfl

@[simp] theorem Core.lastOn_groups (c : Core) (w : BitVec 64) (g : BitVec 4) : (c.lastOn w g).groups = c.groups := by
  unfold Core.lastOn
  split <;> rfl

/-- `lastOn` changes nothing but the group that last issued on a path. -/
theorem Core.lastOn_rest (c : Core) (w : BitVec 64) (g : BitVec 4) : { c.lastOn w g with lastV := c.lastV, lastS := c.lastS } = c := by
  unfold Core.lastOn
  split <;> rfl

theorem State.core_retire (s : State) (x : Ctx) (w : BitVec 64) (pc : BitVec 48) (core : Core) (gr : Group) :
    (s.retire x w pc core gr).core x.id = (core.setGroup x.g
      { gr with pc := pc, lastPc := x.gr.pc, stall := 0, part := [], fenceMark := none,
                prot := if qualifies w then gr.prot else none }).lastOn w x.g :=
  State.core_setCore _ _ _

theorem State.clu_retire (s : State) (x : Ctx) (w : BitVec 64) (pc : BitVec 48) (core : Core) (gr : Group) :
    (s.retire x w pc core gr).clu (cluOf x.id) = (s.clu (cluOf x.id)).count (if vectorPath w then 2 else 3) 1 :=
  State.clu_setClu _ _ _

/-- The group after it retires an instruction. -/
theorem State.groupAt_retire (s : State) (x : Ctx) (w : BitVec 64) (pc : BitVec 48) (core : Core) (gr : Group) :
    (s.retire x w pc core gr).groupAt ⟨x.id, x.g⟩ =
      { gr with pc := pc, lastPc := x.gr.pc, stall := 0, part := [], fenceMark := none, prot := if qualifies w then gr.prot else none } := by
  rw [State.groupAt, State.core_retire, Core.lastOn_groups, Core.setGroup_groups]
  exact Tab.get_put_same _ _ _ _

/-- Retirement with the core as it stood changes only the group and the counts of issued instructions. -/
theorem State.retire_onlyGroup {s : State} {x : Ctx} (hc : x.core = s.core x.id) (w : BitVec 64) (pc : BitVec 48) (gr : Group) :
    OnlyGroup s (s.retire x w pc x.core gr) ⟨x.id, x.g⟩ := by
  refine ⟨rfl, rfl, fun c ne => State.core_setCore_ne _ _ ne, ⟨?_, fun i ne => ?_⟩, fun c ne => State.clu_setClu_ne _ _ ne, ?_⟩
  · rw [State.core_retire, ← hc]
    unfold Core.lastOn
    split <;> rfl
  · rw [State.core_retire, ← hc, Core.lastOn_groups]
    exact Tab.get?_put_ne _ _ ne
  · rw [State.clu_retire]
    exact Cluster.sameButCounts_count _ _ _

/-- The names that an issue gives are those of the group. -/
theorem Issues.at_eq {s : State} {g : GroupAt} {w : BitVec 64} {x : Ctx} (h : Issues s g w x) : (⟨x.id, x.g⟩ : GroupAt) = g := by
  rw [h.id, h.grp]

theorem Issues.core_eq {s : State} {g : GroupAt} {w : BitVec 64} {x : Ctx} (h : Issues s g w x) : x.core = s.core x.id := by
  rw [h.id, h.core]

/-- An instruction that retires with new registers changes its group alone, and the group stands at `pc`. -/
theorem Issues.retire_steps {s : State} {g : GroupAt} {w : BitVec 64} {x : Ctx} (h : Issues s g w x) (w' : BitVec 64) (pc : BitVec 48)
    {gr : Group} (hgr : { gr with vregs := x.gr.vregs, vpois := x.gr.vpois, sregs := x.gr.sregs, spois := x.gr.spois } = x.gr) :
    Steps s (s.retire x w' pc x.core gr) g x pc := by
  have e := State.groupAt_retire s x w' pc x.core gr
  rw [h.at_eq] at e
  refine ⟨h.at_eq ▸ State.retire_onlyGroup h.core_eq w' pc gr, ?_⟩
  have h1 := congrArg Group.exec hgr
  have h2 := congrArg Group.lmask hgr
  have h3 := congrArg Group.fin hgr
  have h4 := congrArg Group.wait hgr
  have h5 := congrArg Group.resv hgr
  rw [e]
  exact ⟨rfl, rfl, h1, h2, h3, h4, h5, rfl⟩

theorem Issues.groupAt_retire {s : State} {g : GroupAt} {w : BitVec 64} {x : Ctx} (h : Issues s g w x) (w' : BitVec 64) (pc : BitVec 48)
    (core : Core) (gr : Group) :
    (s.retire x w' pc core gr).groupAt g =
      { gr with pc := pc, lastPc := x.gr.pc, stall := 0, part := [], fenceMark := none, prot := if qualifies w' then gr.prot else none } :=
  h.at_eq ▸ State.groupAt_retire s x w' pc core gr

/-! ### Registers of a group -/

@[simp] theorem Group.sreg_setV (gr : Group) (n l : Nat) (v : Word) (i : Nat) : (gr.setV n l v).sreg i = gr.sreg i := rfl

@[simp] theorem Group.vreg_setS (gr : Group) (n : Nat) (v : Word) (i l : Nat) : (gr.setS n v).vreg i l = gr.vreg i l := rfl

@[simp] theorem Group.sreg_setS_same (gr : Group) (n : Nat) (v : Word) : (gr.setS n v).sreg n = v := Tab.get_put_same _ _ _ _

theorem Group.sreg_setS_ne (gr : Group) {n i : Nat} (v : Word) (h : i ≠ n) : (gr.setS n v).sreg i = gr.sreg i := Tab.get_put_ne _ _ _ h

@[simp] theorem Group.vreg_setV_same (gr : Group) (n l : Nat) (v : Word) : (gr.setV n l v).vreg n l = v := Tab.get_put_same _ _ _ _

theorem Group.vreg_setV_ne (gr : Group) {n l i j : Nat} (v : Word) (hl : l < 32) (hj : j < 32) (h : i ≠ n ∨ j ≠ l) :
    (gr.setV n l v).vreg i j = gr.vreg i j :=
  Tab.get_put_ne _ _ _ (by omega)

/-- One lane of a vector destination. -/
theorem Group.vreg_wrLane (gr : Group) (n : Nat) (w : Bool) {l j : Nat} (v : BitVec 64) (i : Nat) (hl : l < 32) (hj : j < 32) :
    (gr.wrLane n w l v).vreg i j =
      if j = l ∧ i = n then v.setWidth 32 else if j = l ∧ w = true ∧ i = n + 1 then (v >>> 32).setWidth 32 else gr.vreg i j := by
  cases w
  · simp only [Group.wrLane, Bool.false_eq_true, if_false, false_and, and_false]
    by_cases h : j = l ∧ i = n
    · obtain ⟨rfl, rfl⟩ := h
      simp
    · rw [if_neg h, Group.vreg_setV_ne _ _ hl hj (by omega)]
  · simp only [Group.wrLane, if_true, true_and]
    by_cases h1 : j = l ∧ i = n + 1
    · obtain ⟨rfl, rfl⟩ := h1
      simp
    · rw [Group.vreg_setV_ne _ _ hl hj (by omega)]
      by_cases h : j = l ∧ i = n
      · obtain ⟨rfl, rfl⟩ := h
        simp
      · rw [if_neg h, if_neg h1, Group.vreg_setV_ne _ _ hl hj (by omega)]

@[simp] theorem Group.sreg_wrLane (gr : Group) (n : Nat) (w : Bool) (l : Nat) (v : BitVec 64) (i : Nat) :
    (gr.wrLane n w l v).sreg i = gr.sreg i := by
  cases w <;> rfl

theorem mem_lanesOf {m : BitVec 32} {l : Nat} : l ∈ lanesOf m ↔ l < 32 ∧ m.getLsbD l = true := by
  simp [lanesOf, setBits]

/-- A vector destination after a write: the active lanes hold the value, a pair when `w`; every other register is as before. -/
theorem Group.vreg_wrLanes (gr : Group) (n : Nat) (w : Bool) (m : BitVec 32) (f : Nat → BitVec 64) (i j : Nat) (hj : j < 32) :
    (gr.wrLanes n w m f).vreg i j =
      if m.getLsbD j = true ∧ i = n then (f j).setWidth 32
      else if m.getLsbD j = true ∧ w = true ∧ i = n + 1 then (f j >>> 32).setWidth 32 else gr.vreg i j := by
  have key : ∀ (ls : List Nat) (gr : Group), (∀ l ∈ ls, l < 32) →
      (ls.foldl (fun g l => g.wrLane n w l (f l)) gr).vreg i j =
        if j ∈ ls ∧ i = n then (f j).setWidth 32
        else if j ∈ ls ∧ w = true ∧ i = n + 1 then (f j >>> 32).setWidth 32 else gr.vreg i j := by
    intro ls
    induction ls with
    | nil => intro gr _; simp
    | cons a t ih =>
      intro gr h
      rw [List.foldl_cons, ih _ fun l hl => h l (List.mem_cons_of_mem _ hl), Group.vreg_wrLane _ _ _ _ _ (h a (List.mem_cons_self ..)) hj]
      by_cases ha : j = a
      · subst ha
        by_cases hi : i = n
        · subst hi
          simp
        · by_cases hn : w = true ∧ i = n + 1
          · obtain ⟨rfl, rfl⟩ := hn
            simp
          · simp [hi, hn]
      · simp [ha]
  have hm : j ∈ lanesOf m ↔ m.getLsbD j = true := by simp [mem_lanesOf, hj]
  rw [Group.wrLanes, key _ _ fun l hl => (mem_lanesOf.1 hl).1]
  simp only [hm]

/-- A write of lanes changes vector registers and their poison alone. -/
theorem Group.wrLanes_rest (gr : Group) (n : Nat) (w : Bool) (m : BitVec 32) (f : Nat → BitVec 64) :
    { gr.wrLanes n w m f with vregs := gr.vregs, vpois := gr.vpois } = gr := by
  have key : ∀ (ls : List Nat) (a : Group), { a with vregs := gr.vregs, vpois := gr.vpois } = gr →
      { ls.foldl (fun g l => g.wrLane n w l (f l)) a with vregs := gr.vregs, vpois := gr.vpois } = gr := by
    intro ls
    induction ls with
    | nil => intro a h; exact h
    | cons b t ih =>
      intro a h
      refine ih _ ?_
      cases w <;> exact h
  exact key _ _ rfl

theorem Group.vpois_wrLanes (gr : Group) (n : Nat) (w : Bool) (m : BitVec 32) (f : Nat → BitVec 64) :
    ∀ k ∈ (gr.wrLanes n w m f).vpois, k ∈ gr.vpois := by
  have key : ∀ (ls : List Nat) (a : Group), ∀ k ∈ (ls.foldl (fun g l => g.wrLane n w l (f l)) a).vpois, k ∈ a.vpois := by
    intro ls
    induction ls with
    | nil => intro a k h; exact h
    | cons b t ih =>
      intro a k h
      have h1 := ih _ k h
      cases w
      · exact (List.mem_filter.1 h1).1
      · exact (List.mem_filter.1 (List.mem_filter.1 h1).1).1
  exact key _ _

/-- The write of a vector destination, in the terms of statements. -/
theorem Group.wroteV_wrLanes (gr : Group) (d : BitVec 8) (w : Bool) (f : Nat → BitVec 64) :
    WroteV gr (gr.wrLanes d.toNat w gr.exec f) d w f :=
  have r := Group.wrLanes_rest gr d.toNat w gr.exec f
  have sr := congrArg Group.sregs r
  have sp := congrArg Group.spois r
  ⟨fun _ _ hl => Group.vreg_wrLanes _ _ _ _ _ _ _ hl, sr, sp, Group.vpois_wrLanes _ _ _ _ _⟩

/-- The write of a scalar destination, in the terms of statements. -/
theorem Group.wroteS_setS64 (gr : Group) (w : Bool) (d : Nat) (v : BitVec 64) : WroteS gr (gr.setS64 w d v) d w v := by
  cases w
  · refine ⟨fun n => ?_, rfl, rfl, fun k h => (List.mem_filter.1 h).1⟩
    simp only [Group.setS64, Bool.false_eq_true, if_false, false_and]
    by_cases h : n = d
    · subst h; simp
    · rw [Group.sreg_setS_ne _ _ h, if_neg h]
  · refine ⟨fun n => ?_, rfl, rfl, fun k h => (List.mem_filter.1 (List.mem_filter.1 h).1).1⟩
    simp only [Group.setS64, if_true, true_and]
    by_cases h1 : n = d + 1
    · subst h1; simp
    · rw [Group.sreg_setS_ne _ _ h1, if_neg h1]
      by_cases h : n = d
      · subst h; simp
      · rw [Group.sreg_setS_ne _ _ h, if_neg h]

/-! ### Counters and readings -/

@[simp] theorem State.poisoned_zero (s : State) : s.poisoned 0 = s := rfl

/-- `poisoned` changes DG_AO_POISON alone. -/
theorem State.poisoned_rest (s : State) (n : Nat) : { s.poisoned n with dg := { (s.poisoned n).dg with aoPoison := s.dg.aoPoison } } = s := by
  unfold State.poisoned
  split <;> rfl

theorem inputLimit_le (mv : Nat) : inputLimit mv ≤ 20700 := by
  unfold inputLimit
  split <;> omega

theorem inputLimit_mul_le {mv : Nat} (h : 0 < mv) : inputLimit mv * mv ≤ 950000000 := by
  unfold inputLimit
  rw [if_neg (by omega)]
  exact Nat.le_trans (Nat.mul_le_mul_right _ (Nat.min_le_right _ _)) (Nat.div_mul_le_self _ _)

/-- A measurement changes the readings of current and power alone, and keeps them within their limits. -/
theorem State.measured_cases (s : State) (h : s.pw.on = true) :
    ∃ i p, s.measured = { s with fresh := s.fresh + 1, pw := { s.pw with iin := i, pin := p } } ∧
      i.toNat ≤ inputLimit s.pw.vin.toNat ∧ p.toNat ≤ 95000 := by
  have hl := inputLimit_le s.pw.vin.toNat
  refine ⟨_, _, if_pos h, ?_, ?_⟩
  · simp only [BitVec.toNat_ofNat]
    rw [Nat.mod_eq_of_lt (by omega)]
    omega
  · simp only [BitVec.toNat_ofNat]
    rw [Nat.mod_eq_of_lt (by omega)]
    omega

end Sys2Proof.Machine
end

