-- ==== Sys2Proof/Laws/Vector.lean ====
section
/-! SUPPORT. What a vector and a scalar instruction do once they issue: one lemma for each shared operation. -/
namespace Sys2Proof.Machine

variable {s : State} {g : GroupAt} {x : Ctx}

/-- Only the bits that the destination takes matter. -/
theorem WroteV.congr {a b : Group} {d : BitVec 8} {pair : Bool} {v v' : Nat → BitVec 64} (h : WroteV a b d pair v)
    (e : ∀ l, l < 32 → a.exec.getLsbD l = true → (v l).setWidth 32 = (v' l).setWidth 32 ∧
      (pair = true → (v l >>> 32).setWidth 32 = (v' l >>> 32).setWidth 32)) : WroteV a b d pair v' := by
  refine ⟨fun n l hl => ?_, h.sregs, h.spois, h.vpois⟩
  rw [h.vregs n l hl]
  by_cases hx : a.exec.getLsbD l = true
  · obtain ⟨e1, e2⟩ := e l hl hx
    by_cases hp : pair = true
    · simp [e1, e2 hp]
    · simp [e1, hp]
  · simp [hx]

/-- Clean sources read no poisoned register. -/
theorem CleanV.vecPois {gr : Group} {f : VF} {w wb : Bool} (h : CleanV gr f w wb) (word : BitVec 64) :
    gr.vecPois word f w wb w = false := by
  simp only [Group.vecPois, List.any_eq_false]
  intro l hl
  obtain ⟨h1, h2, h3⟩ := h l (mem_lanesOf.1 hl).1 (mem_lanesOf.1 hl).2
  simp [h1, h2, h3]

/-- The registers that a retiring instruction wrote are those of the group that it leaves. -/
theorem WroteV.retired {a gr : Group} {d : BitVec 8} {pair : Bool} {v : Nat → BitVec 64} (h : WroteV a gr d pair v)
    (b : Group) (e : { gr with pc := b.pc, lastPc := b.lastPc, stall := b.stall, part := b.part, fenceMark := b.fenceMark, prot := b.prot } = b) :
    WroteV a b d pair v := by
  rw [← e]
  exact ⟨h.vregs, h.sregs, h.spois, h.vpois⟩

theorem WroteS.retired {a gr : Group} {d : Nat} {pair : Bool} {v : BitVec 64} (h : WroteS a gr d pair v)
    (b : Group) (e : { gr with pc := b.pc, lastPc := b.lastPc, stall := b.stall, part := b.part, fenceMark := b.fenceMark, prot := b.prot } = b) :
    WroteS a b d pair v := by
  rw [← e]
  exact ⟨h.sregs, h.vregs, h.vpois, h.spois⟩

/-- An instruction that issues and writes a vector destination. -/
theorem Issues.doneV {w : BitVec 64} (h : Issues s g w x) (w' : BitVec 64) (d : BitVec 8) (pair : Bool) (v : Nat → BitVec 64) :
    Steps s (s.done x w' x.core (x.gr.wrDst (.v d) pair v)) g x (x.gr.pc + 8) ∧
      WroteV x.gr ((s.done x w' x.core (x.gr.wrDst (.v d) pair v)).groupAt g) d pair v := by
  have r := Group.wrLanes_rest x.gr d.toNat pair x.gr.exec v
  have wv := Group.wroteV_wrLanes x.gr d pair v
  refine ⟨h.retire_steps w' _ ?_, ?_⟩
  · have e1 := wv.sregs
    have e2 := wv.spois
    show { x.gr.wrLanes d.toNat pair x.gr.exec v with
      vregs := x.gr.vregs, vpois := x.gr.vpois, sregs := x.gr.sregs, spois := x.gr.spois } = x.gr
    rw [← e1, ← e2]
    exact r
  · rw [State.done, h.groupAt_retire]
    exact wv.retired _ rfl

/-- An instruction that issues and writes a scalar destination, or none. -/
theorem Issues.doneS {w : BitVec 64} (h : Issues s g w x) (w' : BitVec 64) (pc : BitVec 48) (d : Nat) (pair : Bool) (v : BitVec 64) :
    Steps s (s.retire x w' pc x.core (x.gr.setS64 pair d v)) g x pc ∧
      WroteS x.gr ((s.retire x w' pc x.core (x.gr.setS64 pair d v)).groupAt g) d pair v := by
  have ws := Group.wroteS_setS64 x.gr pair d v
  refine ⟨h.retire_steps w' _ ?_, ?_⟩
  · cases pair <;> rfl
  · rw [h.groupAt_retire]
    exact ws.retired _ rfl

theorem Issues.doneNone {w : BitVec 64} (h : Issues s g w x) (w' : BitVec 64) (pc : BitVec 48) :
    Steps s (s.retire x w' pc x.core x.gr) g x pc ∧ WroteNone x.gr ((s.retire x w' pc x.core x.gr).groupAt g) := by
  refine ⟨h.retire_steps w' _ rfl, ?_⟩
  rw [h.groupAt_retire]
  exact ⟨rfl, rfl, rfl, rfl⟩

/-- Everything that the shared vector operation does when its word issues with clean sources. -/
theorem vecOp_spec {w : BitVec 64} (h : Issues s g w x) {f : VF} {wa wb : Bool} (c : CleanV x.gr f wa wb) {d : BitVec 8}
    (hd : f.dst = .v d) (dw : Bool) (lane : Srcs → BitVec 64) :
    Steps s (vecOp g w f wa wb dw lane s) g x (x.gr.pc + 8) ∧
      WroteV x.gr ((vecOp g w f wa wb dw lane s).groupAt g) d dw fun l => lane (x.gr.srcs f wa wb wa l) := by
  simp only [vecOp, issuer_of_issues h, c.vecPois w, hd, Bool.false_eq_true, if_false]
  exact h.doneV w d dw _

/-- A poisoned source stops the kernel with E_POISON at the instruction (R372). -/
theorem vecOp_poison {w : BitVec 64} (h : Issues s g w x) {f : VF} {wa wb : Bool} (c : x.gr.vecPois w f wa wb wa = true) (dw : Bool)
    (lane : Srcs → BitVec 64) : vecOp g w f wa wb dw lane s = s.kerr x 0x0301 := by
  simp [vecOp, issuer_of_issues h, c]

theorem CleanS.sclPois {gr : Group} {f : SF} (h : CleanS gr f) (op : BitVec 8) : gr.sclPois op f = false := by
  unfold Group.sclPois
  rw [h.1]
  cases hi : f.immf
  · simp [h.2 hi]
  · simp

/-- Everything that the shared scalar operation does when its word issues with clean sources. -/
theorem sclOp_spec {op : BitVec 8} {f : SF} (h : Issues s g (encS 5 op f) x) (c : CleanS x.gr f)
    (res : BitVec 64 → BitVec 64 → BitVec 64) :
    Steps s (sclOp g op f res s) g x (x.gr.pc + 8) ∧
      WroteS x.gr ((sclOp g op f res s).groupAt g) f.dst.toNat f.w64 (res (x.gr.sSrc0 f) (x.gr.sOpnd f)) := by
  simp only [sclOp, issuer_of_issues h, c.sclPois op, Bool.false_eq_true, if_false]
  exact h.doneS _ _ _ _ _

/-- Everything that a relative branch does when its word issues. -/
theorem branchOp_spec {op : BitVec 8} {f : SF} (h : Issues s g (encS 6 op f) x) {src : Bool}
    (c : src = true → x.gr.sPois false f.src0.toNat = false) (taken : Group → Bool) :
    Steps s (branchOp g op f src taken s) g x (if taken x.gr then relPc x.gr.pc f else x.gr.pc + 8) ∧
      WroteNone x.gr ((branchOp g op f src taken s).groupAt g) := by
  have hp : (src && x.gr.sPois false f.src0.toNat) = false := by
    cases src
    · rfl
    · simpa using c
  simp only [branchOp, issuer_of_issues h, hp, Bool.false_eq_true, if_false]
  exact h.doneNone _ _

end Sys2Proof.Machine
end

