-- ==== Sys2Proof/Tests/Slice0.lean ====
section
/-! SUPPORT. The model's own tests: a term that each well-formedness check refuses, words of the spec's encodings, single steps on small
states, and for every statement of the certificate states and operands that meet its hypotheses. -/
set_option Elab.async false

namespace Sys2Proof.Tests
open Sys2Proof.Machine

/-! ### Small states -/

/-- A nunatak whose boot has ended. -/
def bootedNt : Nunatak := { Nunatak.init with stage := 7, result := 1, fwOn := true, latchSet := true, idst := 1, portUp := true }

/-- The module in stage READY with one live channel, floe 0's channel 0, and that controller cool. -/
def up : State :=
  { State.reset with
    west := bootedNt, east := bootedNt, live := [0], host := { HostIf.init with answers := true }, mapped := true,
    homes := Tab.empty.put 0 { Home.init with tvalid := true, tstate := 0 } }

/-- A launch of one group whose image at 0x1000 is one word. -/
def launchOf (w : BitVec 64) : Launch :=
  { Launch.init with queue := 0x4000, entry := 0x1000, image := [w], ngrp := 1, nthr := 32, valloc := 256, spad := 16, ntile := 1, next := 1, live := 1 }

/-- Core 0 with a started tile of launch 1 and one group. -/
def coreOf (gr : Group) : Core :=
  { Core.init with
    launch := some 1, started := true, ngrp := 1, valloc := 256, spadUnits := 16, run := 1, groups := Tab.empty.put 0 gr }

/-- The module with one core at a word. -/
def at_ (w : BitVec 64) (c : Core) : State :=
  { up with launches := Tab.empty.put 1 (launchOf w), launchSerial := 2, cores := Tab.empty.put 0 c }

/-- Group 0 of core 0. -/
def g0 : GroupAt := ⟨0, 0⟩

/-- A group at the image's word with lane 0 active. -/
def gr0 : Group := { Group.init with pc := 0x1000, exec := 1, lmask := 1 }

/-- What the issue of the word finds. -/
def ctx (w : BitVec 64) (c : Core) (gr : Group) : Ctx := ⟨0, 0, c, gr, 1, launchOf w⟩

/-- A core whose group 0 stands at the image's word issues it, whatever the word. -/
theorem issues (w : BitVec 64) (c : Core) (gr : Group) (hl : c.launch = some 1) (hs : c.started = true) (hg : c.groups.get? 0 = some gr)
    (hp : gr.pc = 0x1000) (hf : gr.fin = false) (hw : gr.wait = .run) : Issues (at_ w c) g0 w (ctx w c gr) where
  id := rfl
  grp := rfl
  core := rfl
  launch := hl
  la := rfl
  gr := hg
  started := hs
  going := rfl
  live := hf
  free := hw
  island := rfl
  power := rfl
  noHold := rfl
  word := by simp [Launch.wordAt, ctx, launchOf, hp]

theorem issues0 (w : BitVec 64) (gr : Group) (hp : gr.pc = 0x1000) (hf : gr.fin = false) (hw : gr.wait = .run) :
    Issues (at_ w (coreOf gr)) g0 w (ctx w (coreOf gr) gr) :=
  issues w (coreOf gr) gr rfl rfl rfl hp hf hw

/-- In a group with lane 0 alone active, an active lane is lane 0. -/
theorem active_zero {x : Ctx} (h : x.gr.exec = 1) {l : Nat} (a : x.active l) : l = 0 := by
  obtain ⟨h1, h2⟩ := a
  rw [h] at h2
  revert h2
  have : ∀ l, l < 32 → (1#32).getLsbD l = true → l = 0 := by decide
  exact this l h1

/-- A group with no poisoned register has clean sources. -/
theorem clean {gr : Group} (hv : gr.vpois = []) (hs : gr.spois = []) (f : VF) (w wb : Bool) : CleanV gr f w wb := by
  have h : ∀ (o : Opnd) (w : Bool) (l : Nat), gr.opPois o w l = false := by
    intro o w l
    cases o <;> simp [Group.opPois, hv, hs]
  intro l _ _
  refine ⟨h _ _ _, ?_, h _ _ _⟩
  unfold Group.srcPois
  split
  · exact h _ _ _
  · rfl

/-! ### Witnesses: vector, scalar and control instructions -/

/-- Fields of a vector instruction on v1, v2, v3. -/
def vf (ty : Ty) (dst : Opnd) (md : BitVec 11) : VF := ⟨ty, .rn, .v 1, .op (.v 2), .v 0, dst, md⟩

/-- VectorIntegerInstructions, VectorFloatArithmetic and CompareConditions: any vector word issues with clean sources, in any type. -/
theorem witness_vector (op : BitVec 8) (ty : Ty) (md : BitVec 11) : ∃ s f x, f.ty = ty ∧ f.md = md ∧ f.dst = .v 255 ∧
    Issues s g0 (encV op f) x ∧ CleanV x.gr f (wide ty) (wide ty) ∧ CleanV x.gr f false false :=
  ⟨_, vf ty (.v 255) md, _, rfl, rfl, rfl, issues0 _ gr0 rfl rfl rfl, clean rfl rfl _ _ _, clean rfl rfl _ _ _⟩

/-- VectorCompareConvertReduce: a scalar destination, the conversion word, and no lane active. -/
theorem witness_vcmp_vred (op : BitVec 8) (ty : Ty) (md : BitVec 11) (e : BitVec 32) : ∃ s f x, f.ty = ty ∧ f.md = md ∧ f.dst = .s 63 ∧
    x.gr.exec = e ∧ Issues s g0 (encV op f) x ∧ CleanV x.gr f (wide ty) (wide ty) :=
  ⟨_, vf ty (.s 63) md, _, rfl, rfl, rfl, rfl, issues0 _ { gr0 with exec := e } rfl rfl rfl, clean rfl rfl _ _ _⟩

theorem witness_vcvt (a b : Ty) : ∃ s f x, f.dst = .v 0 ∧ Issues s g0 (encCvt a b f) x ∧ CleanV x.gr f (wide a) false :=
  ⟨_, vf a (.v 0) 0, _, rfl, issues0 _ gr0 rfl rfl rfl, clean rfl rfl _ _ _⟩

/-- The shuffle and SRDLANE read every lane's source. -/
theorem witness_vshfl (op : BitVec 8) (dst : Opnd) (md : BitVec 11) : ∃ s f x, f.dst = dst ∧ f.md = md ∧ Issues s g0 (encV op f) x ∧
    ∀ l, l < 32 → x.gr.opPois f.src0 (wide f.ty) l = false ∧ x.gr.srcPois f.src1 false l = false :=
  ⟨_, vf .i32 dst md, _, rfl, rfl, issues0 _ gr0 rfl rfl rfl, fun _ _ => ⟨rfl, rfl⟩⟩

/-- CompareConditions: words that the image check accepts, an ordered condition and, on an f-type, condition 6. -/
theorem witness_compare_words : wordOk (encV 0x40 (vf .i32 (.s 5) 5)) = true ∧ wordOk (encV 0x40 (vf .f32 (.s 5) 6)) = true ∧
    wordOk (encV 0x41 (vf .i32 (.v 5) 0)) = true ∧ wordOk (encV 0x41 (vf .f64 (.v 6) 6)) = false := by decide +kernel

/-- Fields of a scalar instruction on s2 and s4. -/
def sf (w64 : Bool) (imm : BitVec 32) : SF := ⟨false, 6, 2, 4, w64, imm⟩

/-- ScalarInstructions: any scalar word issues with clean sources, in both widths. -/
theorem witness_scalar (op : BitVec 8) (w64 : Bool) (imm : BitVec 32) : ∃ s f x, f.w64 = w64 ∧ f.imm = imm ∧
    Issues s g0 (encS 5 op f) x ∧ CleanS x.gr f ∧ x.gr.sPois false f.src0.toNat = false :=
  ⟨_, sf w64 imm, _, rfl, rfl, issues0 _ gr0 rfl rfl rfl, by cases w64 <;> exact ⟨rfl, fun _ => rfl⟩, rfl⟩

/-- ControlFlow: any branch word issues; a register target at the image's only word, and one just beyond it. -/
theorem witness_branch (op : BitVec 8) : ∃ s f x, Issues s g0 (encS 6 op f) x ∧ x.gr.sPois true f.src0.toNat = false ∧
    x.gr.sreg64 f.src0.toNat = 0x1000 ∧ x.la.entry = 0x1000 ∧ x.la.image.length = 1 :=
  have h : ({ gr0 with sregs := Tab.empty.put 2 0x1000 } : Group).sreg64 2 = 0x1000 := by decide +kernel
  ⟨_, sf false 0xFFFFFFFF, _, issues0 _ { gr0 with sregs := Tab.empty.put 2 0x1000 } rfl rfl rfl, rfl, h, rfl, rfl⟩

theorem witness_branch_out (op : BitVec 8) : ∃ s f x, Issues s g0 (encS 6 op f) x ∧ x.gr.sPois true f.src0.toNat = false ∧
    x.gr.sreg64 f.src0.toNat = 0x1008 ∧ x.la.entry = 0x1000 ∧ x.la.image.length = 1 :=
  have h : ({ gr0 with sregs := Tab.empty.put 2 0x1008 } : Group).sreg64 2 = 0x1008 := by decide +kernel
  ⟨_, sf false 0, _, issues0 _ { gr0 with sregs := Tab.empty.put 2 0x1008 } rfl rfl rfl, rfl, h, rfl, rfl⟩

/-- ControlFlow: the last group of a core exits while its store buffer holds an entry. -/
theorem witness_exit : ∃ s f x, Issues s g0 (encS 6 0x0F f) x ∧
    (∀ e ∈ (x.core.groups.put g0.grp.toNat { x.gr with fin := true }).entries, e.2.fin = true) ∧ x.core.sb ≠ [] :=
  ⟨_, sf false 0, _, issues _ { coreOf gr0 with sb := [.init] } gr0 rfl rfl rfl rfl rfl rfl, by decide, by decide⟩

/-- InstructionErrors: a poisoned source of every vector and every scalar command. -/
theorem witness_poisoned_vector : ∀ p ∈ vecTable g0 (vf .u32 (.v 9) 0), ∃ s x, Issues s g0 p.2 x ∧
    x.gr.vecPois p.2 (vf .u32 (.v 9) 0) false false false = true := by
  have h : ∀ p ∈ vecTable g0 (vf .u32 (.v 9) 0), ({ gr0 with vpois := [32] } : Group).vecPois p.2 (vf .u32 (.v 9) 0) false false false = true := by
    decide +kernel
  exact fun p hp => ⟨_, _, issues0 _ { gr0 with vpois := [32] } rfl rfl rfl, h p hp⟩

theorem witness_poisoned_scalar : ∀ p ∈ sclTable g0 (sf false 0), ∃ s x, Issues s g0 (encS 5 p.2 (sf false 0)) x ∧
    x.gr.sclPois p.2 (sf false 0) = true := by
  have h : ∀ p ∈ sclTable g0 (sf false 0), ({ gr0 with spois := [2, 4] } : Group).sclPois p.2 (sf false 0) = true := by decide +kernel
  exact fun p hp => ⟨_, _, issues0 _ { gr0 with spois := [2, 4] } rfl rfl rfl, h p hp⟩

/-! ### Witnesses: memory instructions -/

/-- A memory access of one value of `sz` through s2 and s3, data in v4. -/
def mf (sz : MSize) (kind : Kind) (spad : Bool) : MF := ⟨sz, kind, spad, false, .v 4, 2, .none, 0, false, 0⟩

/-- Group 0 with address `a` in s2 and s3. -/
def grA (a : BitVec 64) : Group := { gr0 with sregs := (Tab.empty.put 2 (a.setWidth 32)).put 3 ((a >>> 32).setWidth 32) }

theorem active0 {x : Ctx} (h : x.gr.exec = 1) : x.active 0 := ⟨by decide, by rw [h]; decide⟩

/-- With no poisoned register a memory instruction has clean sources. -/
theorem memClean {w : BitVec 64} {c : Core} {gr : Group} (hv : gr.vpois = []) (hs : gr.spois = []) (f : MF) (b : Bool) :
    (ctx w c gr).memPois f b = false := by
  have h : ∀ (o : Opnd) (w : Bool) (l : Nat), gr.opPois o w l = false := by
    intro o w l
    cases o <;> simp [Group.opPois, hv, hs]
  have d : ∀ l, gr.dataPois f.data f.size l = false := by
    intro l
    unfold Group.dataPois
    split <;> first | exact h _ _ _ | simp [hv]
  have a : ∀ l, gr.addrPois f l = false := by
    intro l
    simp only [Group.addrPois, h, Group.sPois, hs]
    simp
  simp [Ctx.memPois, ctx, d, a]

theorem issuesA (w : BitVec 64) (a : BitVec 64) : Issues (at_ w (coreOf (grA a))) g0 w (ctx w (coreOf (grA a)) (grA a)) :=
  issues0 _ _ rfl rfl rfl

/-- InstructionErrors: for every memory command an address that its check refuses: of no module. -/
theorem witness_address_check : ∀ p ∈ memTable g0 (mf .b4 .ca false), ∃ s x, Issues s g0 (encM p.2.1 (mf .b4 .ca false)) x ∧
    x.memPois (mf .b4 .ca false) true = false ∧ x.active 0 ∧ x.gr.swapPois p.2.1 (mf .b4 .ca false) 0 = false ∧
    s.checkAddr 1024 (mf .b4 .ca false) p.2.2 (x.gr.laneAddr (mf .b4 .ca false) p.2.2.reserved 0) = 0x0302 := by
  have h : ∀ p ∈ memTable g0 (mf .b4 .ca false), ∀ w : BitVec 64, (grA 0x2000000000000).swapPois p.2.1 (mf .b4 .ca false) 0 = false ∧
      (at_ w (coreOf (grA 0x2000000000000))).checkAddr 1024 (mf .b4 .ca false) p.2.2
        ((grA 0x2000000000000).laneAddr (mf .b4 .ca false) p.2.2.reserved 0) = 0x0302 := by
    intro p hp w
    simp only [memTable, List.cons_append, List.nil_append, List.map_cons, List.map_nil, List.mem_cons, List.not_mem_nil, or_false] at hp
    rcases hp with h | h | h | h | h | h | h | h | h | h | h | h | h | h | h | h <;> subst h <;> exact ⟨rfl, rfl⟩
  exact fun p hp => ⟨_, _, issuesA _ 0x2000000000000, memClean rfl rfl _ _, active0 rfl, (h p hp 0).1, (h p hp 0).2⟩

/-- InstructionErrors and MisalignedReservedAccess: a misaligned atomic and reserved access. -/
theorem witness_misaligned : ∀ op ∈ [(0x03 : BitVec 8), 0x04, 0x10, 0x1A], ∃ s x, Issues s g0 (encM op (mf .b8 .cg false)) x ∧
    x.memPois (mf .b8 .cg false) true = false ∧ (∃ l, x.active l ∧ (x.gr.laneAddr (mf .b8 .cg false) true l).toNat % 8 ≠ 0) ∧
    ∀ l, x.active l → (x.gr.laneAddr (mf .b8 .cg false) true l).toNat % 8 = 0 → False := by
  intro op _
  refine ⟨_, _, issuesA _ 4, memClean rfl rfl _ _, ⟨0, active0 rfl, ?_⟩, ?_⟩
  · show ((grA 4).laneAddr (mf .b8 .cg false) true 0).toNat % 8 ≠ 0
    decide +kernel
  · intro l h
    obtain rfl := active_zero rfl h
    show ((grA 4).laneAddr (mf .b8 .cg false) true 0).toNat % 8 = 0 → False
    decide +kernel

/-- InstructionErrors: an access one byte beyond the launch's 1,024 bytes of scratchpad, and addresses of another module, of the window and
of control space. -/
theorem witness_places : 64 * (coreOf gr0).spadUnits.toNat < ((grA 1021).laneAddr (mf .b4 .ca true) false 0).toNat + 4 ∧
    bits ((grA (2 ^ 49 : BitVec 64)).laneAddr (mf .b4 .ca false) false 0) 49 15 ≠ up.mid ∧
    placeOf up.mid ((grA 0x103FFFFFFFFC).laneAddr (mf .b4 .ca false) false 0) = .window 0x3FFFFFFFFC ∧
    placeOf up.mid ((grA 0x1FFF00000000).laneAddr (mf .b4 .uc false) false 0) = .control 0 := by decide +kernel

/-- No scratchpad access of a core waits with no array instruction queued and no FNPUT to read. -/
theorem storeFree {c : Core} (hq : c.arr.queue = []) (hp : c.puts = []) (n : Nat) (acc : List (Nat × BitVec 64)) : c.storeHeld n acc = false := by
  simp [Core.storeHeld, Core.interlocked, Core.putsHold, hq, hp]

/-- ScratchpadLoads and ScratchpadStores: a value that ends at the last byte of the launch's scratchpad, none of it poisoned and no array instruction queued. -/
theorem witness_scratchpad (op : BitVec 8) (sz : MSize) : ∃ s x, Issues s g0 (encM op (mf sz .ca true)) x ∧
    x.memPois (mf sz .ca true) true = false ∧ x.memPois (mf sz .ca true) false = false ∧
    (∀ l, x.active l → (x.gr.laneAddr (mf sz .ca true) false l).toNat + sizeBytes sz ≤ 64 * x.core.spadUnits.toNat) ∧
    x.core.interlocked (sizeBytes sz) (x.lanes (mf sz .ca true) false) = false ∧
    x.core.storeHeld (sizeBytes sz) (x.lanes (mf sz .ca true) false) = false ∧
    ∀ l, x.active l → x.core.spadPoisAt (x.gr.laneAddr (mf sz .ca true) false l).toNat (sizeBytes sz) = false := by
  have k : ∀ sz : MSize, ((grA (BitVec.ofNat 64 (1024 - sizeBytes sz))).laneAddr (mf sz .ca true) false 0).toNat = 1024 - sizeBytes sz := by
    intro sz
    cases sz <;> decide +kernel
  refine ⟨_, _, issuesA _ (BitVec.ofNat 64 (1024 - sizeBytes sz)), memClean rfl rfl _ _, memClean rfl rfl _ _, ?_, ?_, storeFree rfl rfl _ _, ?_⟩
  · intro l a
    obtain rfl := active_zero rfl a
    show ((grA _).laneAddr _ _ _).toNat + _ ≤ 1024
    rw [k]
    cases sz <;> decide
  · rfl
  · intro l a
    simp [Core.spadPoisAt, ctx, coreOf, Core.init]

/-- ScratchpadAtomics: an aligned value at the scratchpad's last bytes. -/
theorem witness_scratchpad_atomic : ∀ p ∈ atomTable g0 (mf .b8 .ca true), ∃ s x, Issues s g0 (encM p.2.1 (mf .b8 .ca true)) x ∧
    x.memPois (mf .b8 .ca true) true = false ∧ (∀ l, x.active l → x.gr.swapPois p.2.1 (mf .b8 .ca true) l = false) ∧
    (∀ l, x.active l → (x.gr.laneAddr (mf .b8 .ca true) false l).toNat + 8 ≤ 64 * x.core.spadUnits.toNat ∧
      (x.gr.laneAddr (mf .b8 .ca true) false l).toNat % 8 = 0 ∧
      x.core.spadPoisAt (x.gr.laneAddr (mf .b8 .ca true) false l).toNat 8 = false) ∧
    x.core.storeHeld 8 (x.lanes (mf .b8 .ca true) false) = false := by
  have h : ∀ p ∈ atomTable g0 (mf .b8 .ca true), (grA 1016).swapPois p.2.1 (mf .b8 .ca true) 0 = false := by
    intro p hp
    simp only [atomTable, List.mem_cons, List.not_mem_nil, or_false] at hp
    rcases hp with h | h | h | h | h | h | h | h | h | h <;> subst h <;> rfl
  intro p hp
  refine ⟨_, _, issuesA _ 1016, memClean rfl rfl _ _, ?_, ?_, storeFree rfl rfl _ _⟩
  · intro l a
    obtain rfl := active_zero rfl a
    exact h p hp
  · intro l a
    obtain rfl := active_zero rfl a
    exact (by decide +kernel : ((grA 1016).laneAddr (mf .b8 .ca true) false 0).toNat + 8 ≤ 64 * (coreOf (grA 1016)).spadUnits.toNat ∧
      ((grA 1016).laneAddr (mf .b8 .ca true) false 0).toNat % 8 = 0 ∧
      (coreOf (grA 1016)).spadPoisAt ((grA 1016).laneAddr (mf .b8 .ca true) false 0).toNat 8 = false)

theorem anySome {α : Type} {o : Option α} {p : α → Bool} (h : o.any p = true) : ∃ u, o = some u ∧ p u = true := by
  cases o with
  | none => cases h
  | some u => exact ⟨u, rfl, h⟩

/-- An issue found by evaluation. -/
theorem issued {s : State} {g : GroupAt} {w : BitVec 64} {P : Ctx → Prop} [DecidablePred P]
    (h : (s.issuer g w).any (fun x => decide (P x)) = true) : ∃ x, Issues s g w x ∧ P x := by
  obtain ⟨x, hx, hp⟩ := anySome h
  exact ⟨x, issues_of_issuer hx, of_decide_eq_true hp⟩

/-- The same for each of a list. -/
theorem issuedAll {α : Type} {l : List α} {S : α → State} {g : GroupAt} {W : α → BitVec 64} {P : α → Ctx → Prop} [∀ a x, Decidable (P a x)]
    (h : l.all (fun a => ((S a).issuer g (W a)).any fun x => decide (P a x)) = true) : ∀ a ∈ l, ∃ x, Issues (S a) g (W a) x ∧ P a x :=
  fun a ha => issued (List.all_eq_true.mp h a ha)

/-- MemoryLoads: a load at the last word of the channel's 8 GiB whose sector has come. -/
def loadCore : Core := { coreOf (grA 0x1FFFFFFFC) with ucRes := [{ UcRes.init with addr := 0x1FFFFFFE0, data := 0x55 }] }

theorem witness_load_retires : ∃ s x, Issues s g0 (encM 0x00 (mf .b4 .ca false)) x ∧ x.memPois (mf .b4 .ca false) false = false ∧
    s.checkLanes x (mf .b4 .ca false) ⟨false, false, false⟩ = 0 ∧ s.controlBusy x (x.lanes (mf .b4 .ca false) false) = false ∧
    ∀ l, x.active l → ∀ i, i < 4 → ∃ u, x.core.resOf x.g (BitVec.ofNat 64 (32 * (((x.gr.laneAddr (mf .b4 .ca false) false l).toNat + i) / 32))) = some u ∧ u.pois = 0 ∧ u.err = 0 := by
  refine ⟨_, _, issues _ loadCore (grA 0x1FFFFFFFC) rfl rfl rfl rfl rfl rfl, memClean rfl rfl _ _, by decide +kernel, by decide +kernel, ?_⟩
  intro l a i hi
  obtain rfl := active_zero rfl a
  have h : ∀ i, i < 4 → (loadCore.resOf 0 (BitVec.ofNat 64 (32 * ((((grA 0x1FFFFFFFC).laneAddr (mf .b4 .ca false) false 0).toNat + i) / 32)))).any
        (fun u => u.pois == 0 && u.err == 0) = true := by decide +kernel
  obtain ⟨u, hu, h2⟩ := anySome (h i hi)
  simp only [Bool.and_eq_true, beq_iff_eq] at h2
  exact ⟨u, hu, h2.1, h2.2⟩

/-- LoadsRetire: a load of bytes that the group itself has just stored, of which the memory has given nothing. -/
def ownCore : Core := { coreOf (grA 0) with sb := [{ SbEntry.init with mask := 0xF, data := 0x11223344 }] }

theorem witness_load_own : ∃ s x, Issues s g0 (encM 0x00 (mf .b4 .ca false)) x ∧ x.memPois (mf .b4 .ca false) false = false ∧
    s.checkLanes x (mf .b4 .ca false) ⟨false, false, false⟩ = 0 ∧ s.controlBusy x (x.lanes (mf .b4 .ca false) false) = false ∧
    ∀ l, x.active l → ∀ i, i < 4 → let q := ((x.gr.laneAddr (mf .b4 .ca false) false l).toNat + i) / 32
      let sec : BitVec 64 := BitVec.ofNat 64 (32 * q)
      let need := needOf 4 (x.lanes (mf .b4 .ca false) false) q
      x.core.resOf x.g sec = none ∧ x.core.foreign x.g sec need = false ∧ need &&& ~~~(x.core.own x.g sec).mask = 0 ∧
        (x.core.own x.g sec).pois = 0 := by
  refine ⟨_, _, issues _ ownCore (grA 0) rfl rfl rfl rfl rfl rfl, memClean rfl rfl _ _, by decide +kernel, by decide +kernel, ?_⟩
  intro l a i hi
  obtain rfl := active_zero rfl a
  revert i
  decide +kernel

/-- LoadsAsk: one lane, nothing of its line nearby, in each kind. -/
theorem witness_load_asks : ∀ k ∈ [Kind.ca, .cg, .uc, .nw], ∃ x,
    Issues (at_ (encM 0x00 (mf .b4 k false)) (coreOf (grA 0xFC))) g0 (encM 0x00 (mf .b4 k false)) x ∧
    let f := mf .b4 k false
    let s := at_ (encM 0x00 f) (coreOf (grA 0xFC))
    x.gr.exec = 1#32 <<< 0 ∧ x.memPois f false = false ∧ s.checkLanes x f ⟨false, false, false⟩ = 0 ∧
      placeOf s.mid (BitVec.ofNat 64 (32 * ((x.gr.laneAddr f false 0).toNat / 32))) = .hbm 0xE0 ∧ (x.gr.laneAddr f false 0).toNat % 32 + 4 = 32 ∧
      x.core.sb = [] ∧ x.core.ucRes = [] ∧ x.core.ucOut = [] ∧ x.core.l1 = .empty ∧ (s.clu 0).stq = [] ∧ (s.clu 0).line? 1 = none ∧
      (s.clu 0).missOf 1 = none ∧ (s.clu 0).wb? 1 = none ∧ (s.clu 0).freeTag = some 0 ∧
      ((s.homeOfLine 1).gq.filter fun r => (s.locOf (r.sector / 4)).pc == (s.locOf 1).pc).length < 64 :=
  issuedAll (by decide +kernel)

/-- MemoryLoads: the window's last word. -/
theorem witness_window : ∃ s x, Issues s g0 (encM 0x00 (mf .b4 .ca false)) x ∧ x.memPois (mf .b4 .ca false) false = false ∧
    s.checkLanes x (mf .b4 .ca false) ⟨false, false, false⟩ = 0 ∧ x.core.sb = [] ∧ x.core.ucRes = [] ∧ x.core.ucOut = [] ∧
    (∀ p ∈ x.core.l1.entries, 128 * p.2.line < hbmTop) ∧ ∀ l, x.active l → ∃ o, placeOf s.mid (x.gr.laneAddr (mf .b4 .ca false) false l) = .window o := by
  refine ⟨_, _, issuesA _ 0x103FFFFFFFFC, memClean rfl rfl _ _, by decide +kernel, rfl, rfl, rfl, by decide, ?_⟩
  intro l a
  obtain rfl := active_zero rfl a
  exact ⟨0x3FFFFFFFFC, by decide +kernel⟩

/-- MemoryStores: a store that takes the buffer's last free entry. -/
theorem witness_store : ∃ s x, Issues s g0 (encM 0x02 (mf .b4 .ca false)) x ∧ x.memPois (mf .b4 .ca false) true = false ∧
    s.checkLanes x (mf .b4 .ca false) ⟨true, false, false⟩ = 0 ∧
    (∀ l, x.active l → ∀ o, placeOf s.mid (x.gr.laneAddr (mf .b4 .ca false) false l) ≠ .control o) ∧
    x.core.sb.length + (sectorsOf 4 (x.lanes (mf .b4 .ca false) false)).length = 32 := by
  refine ⟨_, _, issues _ { coreOf (grA 0) with sb := List.replicate 31 { SbEntry.init with grp := 1 } } (grA 0) rfl rfl rfl rfl rfl rfl,
    memClean rfl rfl _ _, by decide +kernel, ?_, by decide +kernel⟩
  intro l a
  obtain rfl := active_zero rfl a
  have h : placeOf 0 ((grA 0).laneAddr (mf .b4 .ca false) false 0) = .hbm 0 := by decide +kernel
  intro o ho
  cases h.symm.trans ho

/-- An SCM core whose only store-buffer entry stores to line 0. -/
def sbCore (k : Kind) : Core := { coreOf gr0 with sb := [{ SbEntry.init with kind := k, mask := 0xF, data := 0x11223344 }] }

/-- Cluster 0 holding line 0 in state `st`. -/
def cluWith (st : Moesi) : Cluster := { Cluster.init with l2 := Tab.empty.put 0 { L2Line.init with st := st } }

/-- MemoryStores: the three ways an entry leaves. -/
theorem witness_drain_uc : ∃ s : State, ∃ e, (s.core 0).sb.find? (·.grp == g0.grp) = some e ∧ (s.clu 0).runs = true ∧
    placeOf s.mid e.addr = .hbm 0 ∧ s.protectedBy (some (0, 0)) (· == 0) = false ∧ (s.core 0).storeOut e.addr = false ∧ e.kind = .uc ∧
    (s.core 0).l1Find 0 = none ∧ (s.clu 0).storing 0 0 = false ∧ (s.clu 0).freeTag = some 0 := ⟨at_ 0 (sbCore .uc), _, rfl, by decide +kernel⟩

theorem witness_drain_cg : ∃ s : State, ∃ e, (s.core 0).sb.find? (·.grp == g0.grp) = some e ∧ (s.clu 0).runs = true ∧
    placeOf s.mid e.addr = .hbm 0 ∧ s.protectedBy (some (0, 0)) (· == 0) = false ∧ (s.core 0).storeOut e.addr = false ∧ e.kind = .cg ∧ (s.core 0).l1Find 0 = none ∧
    holdsOwned (s.clu 0) 0 = true ∧ (s.clu 0).stq = [] :=
  ⟨{ at_ 0 (sbCore .cg) with clus := Tab.empty.put 0 (cluWith .e) }, _, rfl, by decide +kernel⟩

theorem witness_drain_bim : ∃ s : State, ∃ e l, (s.core 0).sb.find? (·.grp == g0.grp) = some e ∧ (s.clu 0).runs = true ∧
    placeOf s.mid e.addr = .hbm 0 ∧ s.protectedBy (some (0, 0)) (· == 0) = false ∧ (s.core 0).storeOut e.addr = false ∧ e.kind = .ca ∧ (s.core 0).mode = true ∧
    (s.core 0).l1Find 0 = some 47 ∧ (s.core 0).l1.get? 47 = some l :=
  ⟨at_ 0 { sbCore .ca with mode := true, l1 := Tab.empty.put 47 .init }, _, _, rfl, by decide +kernel, by decide +kernel, by decide +kernel, rfl,
    rfl, rfl, by decide +kernel, rfl⟩

/-- A core at a word whose slice owns line 0. -/
def owning (w : BitVec 64) (c : Core) : State := { at_ w c with clus := Tab.empty.put 0 (cluWith .e) }

/-- The conditions of SliceAtomics on a core alone at its slice. -/
def quietCore (s : State) (x : Ctx) : Prop :=
  x.core.sb = [] ∧ x.core.ucOut = [] ∧ x.core.ucRes = [] ∧ x.core.l1 = .empty ∧ (s.clu 0).stq = [] ∧ x.gr.part = []

/-- SliceAtomics: an atomic of each opcode on the last word of a line that the slice owns. -/
theorem witness_slice_atomic : ∀ op ∈ [(0x10 : BitVec 8), 0x11, 0x12, 0x13, 0x14, 0x15, 0x16, 0x17, 0x18, 0x19, 0x1A], ∃ x,
    Issues (owning (encM op (mf .b4 .ca false)) (coreOf (grA 124))) g0 (encM op (mf .b4 .ca false)) x ∧
    let f := mf .b4 .ca false
    let s := owning (encM op f) (coreOf (grA 124))
    x.memPois f true = false ∧ x.gr.swapPois op f 0 = false ∧ s.checkLanes x f ⟨true, true, false⟩ = 0 ∧
    (∀ l, l < 32 → x.gr.exec.getLsbD l = true → x.gr.laneAddr f false l = 124) ∧ x.gr.exec ≠ 0 ∧ x.gr.part = [] ∧
    placeOf s.mid 124 = .hbm 124 ∧ x.core.sb = [] ∧ x.core.ucOut = [] ∧ x.core.ucRes = [] ∧ x.core.l1 = .empty ∧ (s.clu 0).stq = [] ∧
    s.protectedBy (some (0, 0)) (· == 3) = false ∧ (s.clu 0).line? 0 = some { L2Line.init with st := .e } ∧
    LineVal.poisAt ⟨0, 0⟩ 124 4 = false :=
  issuedAll (by decide +kernel)

/-- Reservations: an LDR.cg and, with its reservation held, an STC.cg. -/
theorem witness_reserved : ∀ p ∈ [((0x03 : BitVec 8), false), (0x04, true)], ∃ x,
    Issues (owning (encM p.1 (mf .b8 .cg false)) (coreOf { grA 0 with resv := Tab.empty.put 0 ⟨0, .cg, .b8⟩ })) g0 (encM p.1 (mf .b8 .cg false)) x ∧
    let f := mf .b8 .cg false
    let s := owning (encM p.1 f) (coreOf { grA 0 with resv := Tab.empty.put 0 ⟨0, .cg, .b8⟩ })
    x.memPois f true = false ∧ s.checkLanes x f ⟨p.2, false, true⟩ = 0 ∧ x.core.sb = [] ∧ x.core.ucOut = [] ∧ x.core.ucRes = [] ∧
    x.core.l1 = .empty ∧ x.gr.part = [] ∧ (s.clu 0).stq = [] ∧ holdsOwned (s.clu 0) 0 = true ∧
    (s.clu 0).line? 0 = some { L2Line.init with st := .e } ∧ LineVal.poisAt ⟨0, 0⟩ 0 8 = false ∧
    (∀ l, l < 32 → x.gr.exec.getLsbD l = true → placeOf s.mid (x.gr.laneAddr f true l) = .hbm 0) ∧
    x.gr.resv.get? 0 = some { sector := fieldN (x.gr.laneAddr f true 0) 0 49 / 32, kind := f.kind, size := f.size } :=
  issuedAll (by decide +kernel)

theorem witness_no_protection (w : BitVec 64) (a : BitVec 64) (m : Nat → Bool) : (owning w (coreOf (grA a))).protectedBy (some (g0.core, g0.grp)) m = false := rfl

theorem witness_protection : ((at_ 0 (coreOf { gr0 with prot := some ⟨0, 5, true⟩ })).core g0.core).groups.get? g0.grp.toNat =
    some { gr0 with prot := some ⟨0, 5, true⟩ } := rfl

/-- ConditionalStores and ProtectionEnds: nothing has waited for the protection of a group. -/
theorem witness_quiet (gr : Group) (f : Floe) : ((at_ 0 (coreOf gr)).clu (cluOf g0.core)).held = [] ∧ HomeQuiet (at_ 0 (coreOf gr)) f := by
  have h : ∀ f : Floe, (at_ 0 (coreOf gr)).home f = up.home f := fun _ => rfl
  have k : ∀ f : Floe, (up.home f).slots = .empty ∧ (up.home f).parked = [] ∧ (up.home f).ingress = [] := by decide +kernel
  refine ⟨rfl, ⟨?_, ?_, ?_⟩⟩ <;> rw [h]
  · rw [(k f).1]
    simp [Tab.empty]
  · exact (k f).2.1
  · exact (k f).2.2

/-! ### Witnesses: the array, fences and barriers -/

/-- Fields of a matrix instruction on s2, s4 and s6. -/
def xf (d : DFmt) : XF := ⟨.mma, .int8, .int8, true, 0, 2, 4, 6, .p16, d, true⟩

/-- MatrixInstructions: a full queue, a group whose EXEC is not LMASK, and an idle array. -/
theorem witness_matrix_full : ∀ op ∈ [(0x01 : BitVec 8), 0x02, 0x03, 0x04, 0x05], ∃ x,
    Issues (at_ (encX op (xf .fp32)) { coreOf gr0 with arr := { Arr.init with queue := List.replicate 8 .init } }) g0 (encX op (xf .fp32)) x ∧
    8 ≤ x.core.arr.queue.length := issuedAll (by decide +kernel)

theorem witness_matrix_mask : ∀ op ∈ [(0x01 : BitVec 8), 0x02, 0x03, 0x04, 0x05], ∃ x,
    Issues (at_ (encX op (xf .fp32)) { coreOf { gr0 with lmask := 3 } with arr := { Arr.init with queue := List.replicate 7 .init } }) g0
      (encX op (xf .fp32)) x ∧ x.core.arr.queue.length < 8 ∧ x.gr.exec ≠ x.gr.lmask := issuedAll (by decide +kernel)

/-- A group whose matrix operands are at 0 and 32 with one block. -/
def grM : Group := { gr0 with sregs := (Tab.empty.put 4 32).put 6 1 }

/-- MatrixInstructions: an idle array in packing P16 with one block of 8 x 32 INT8 operands each, and drains that end at the scratchpad's end. -/
theorem witness_matrix_idle : ∀ op ∈ [(0x01 : BitVec 8), 0x02, 0x03, 0x04, 0x05], ∃ x,
    Issues (at_ (encX op (xf .int32)) { coreOf grM with arr := { Arr.init with pack := 2 } }) g0 (encX op (xf .int32)) x ∧
    let f := xf .int32
    (x.gr.exec = x.gr.lmask ∧ (∀ r ∈ [f.sa.toNat, f.sb.toNat, f.sn.toNat], x.gr.spois.contains r = false) ∧ x.core.arr.queue = [] ∧
      x.core.arr.folds = [] ∧ x.core.puts = []) ∧
    0 < (x.gr.sreg f.sn.toNat).toNat ∧ (x.gr.sreg f.sa.toNat).toNat % 32 = 0 ∧ (x.gr.sreg f.sb.toNat).toNat % 32 = 0 ∧
    (x.gr.sreg f.sa.toNat).toNat + 1 * blockBytes f.mode f.afmt (subDim x.core.arr.pack) ≤ 64 * x.core.spadUnits.toNat ∧
    (x.gr.sreg f.sb.toNat).toNat + 1 * blockBytes f.mode f.bfmt (subDim x.core.arr.pack) ≤ 64 * x.core.spadUnits.toNat ∧
    (x.gr.sreg f.sb.toNat).toNat + subDim x.core.arr.pack * subDim x.core.arr.pack * 4 ≤ 64 * x.core.spadUnits.toNat :=
  issuedAll (by decide +kernel)

/-- ArraySteps: the last sub-array of P16 with two INT8 blocks left, and a fold with a special state. -/
def kEntry : MxEntry := ⟨0, 0x1000, 15, .op .mma .int8 .int8 true 0 512 2, 0, 0⟩

theorem witness_k_block : ∃ s : State, (s.clu (cluOf 0)).runs = true ∧ (s.core 0).arr.folds = [] ∧ (s.core 0).arr.queue = [kEntry] ∧
    kEntry.sub = (15 : BitVec 4).toNat ∧ kEntry.work = .op .mma .int8 .int8 true 0 512 2 ∧ (s.core 0).spadPoisAt 0 256 = false ∧
    (s.core 0).spadPoisAt 512 256 = false ∧ (15 : BitVec 4).toNat < (32 / subDim (s.core 0).arr.pack) ^ 2 :=
  ⟨at_ 0 { coreOf gr0 with arr := { Arr.init with pack := 2, queue := [kEntry] } }, by decide +kernel⟩

theorem witness_fold : ∃ s : State, (s.clu (cluOf 0)).runs = true ∧ (s.core 0).arr.folds = [⟨0, 15, -10, [255], [0]⟩] ∧ (s.core 0).arr.queue = [] ∧
    (s.core 0).puts = [] ∧
    15 < (32 / subDim (s.core 0).arr.pack) ^ 2 ∧ ((s.core 0).arr.cells.get 1023 .init).sp = .nan :=
  ⟨at_ 0 { coreOf gr0 with
    arr := { Arr.init with pack := 2, folds := [⟨0, 15, -10, [255], [0]⟩], cells := Tab.empty.put 1023 ⟨0, 0, 0, .nan⟩ } }, by decide +kernel⟩

/-- Fences: a fence that waits for the buffer, one that meets a lost store, and one that retires, in the widest scope. -/
def yf : YF := ⟨.sys, .ar, 7⟩

theorem witness_fence_waits : ∃ s x, Issues s g0 (encY 0x01 yf) x ∧ yf.ord ≠ .acq ∧ ∃ e ∈ x.core.sb, e.serial < x.gr.fenceMark.getD x.core.sbSerial :=
  ⟨at_ (encY 0x01 yf) { sbCore .ca with sbSerial := 1 }, issued (by decide +kernel)⟩

theorem witness_fence_lost : ∃ s x, Issues s g0 (encY 0x01 yf) x ∧ yf.scope = .sys ∧ x.gr.lostStore = true ∧ x.gr.lostCode = 0x0402 ∧ x.core.sb = [] ∧
    x.core.ucOut = [] ∧ (s.clu 0).stq = [] := ⟨at_ (encY 0x01 yf) (coreOf { gr0 with lostStore := true, lostCode := 0x0402 }), issued (by decide +kernel)⟩

/-- Fences and Barriers: a group whose stores are performed. -/
theorem witness_fence_retires : ∀ w ∈ [encY 0x01 yf, encBar 0x02 yf false, encBar 0x03 yf false], ∃ x, Issues (at_ w (coreOf gr0)) g0 w x ∧
    x.gr.lostStore = false ∧ x.core.sb = [] ∧ x.core.ucOut = [] ∧ ((at_ w (coreOf gr0)).clu 0).stq = [] := issuedAll (by decide +kernel)

/-- A LIST descriptor of `op` over FP32 with one row and one column, its root and both contributors cores 0 and 1; core 0 also reads. -/
def listDesc : Desc :=
  { Desc.init with
    words := [0, 0x10020, 0, 0, 0, 0, 0, 2, 0, 0, 0, 0, 0, 0, 0, 0],
    entries := [{ DEntry.init with c := true, r := true }, { DEntry.init with c := true, core := 1 }] }

/-- A BARRIER descriptor over the same cores. -/
def barDesc : Desc := { listDesc with words := [0x26000000, 0, 0, 0, 0, 0, 0, 2, 0, 0, 0, 0, 0, 0, 0, 0] }

/-- Barriers: BAR.sys on a set descriptor that core 0 contributes to. -/
theorem witness_bar_sys : ∃ s x, Issues s g0 (encBar 0x04 yf true) x ∧ s.descs.get? yf.desc.toNat = some barDesc ∧ barDesc.owner = 0 ∧
    barDesc.isBarrier = true ∧ (contributor (s.members barDesc 0 barDesc.layer) g0.core s.mid).isSome = true ∧ x.core.sb = [] :=
  ⟨{ at_ (encBar 0x04 yf true) (coreOf gr0) with descs := Tab.empty.put 7 barDesc }, issued (by decide +kernel)⟩

/-- Barriers: a core with one group running and one arrived, and a core whose groups have finished or arrived. -/
theorem witness_bar_holds : ∃ s : State, (s.core 0).launch = some 1 ∧ (s.core 0).started = true ∧
    ∃ e ∈ (s.core 0).groups.entries, e.2.fin = false ∧ e.2.wait ≠ .barCore :=
  ⟨at_ 0 { coreOf gr0 with groups := (Tab.empty.put 0 gr0).put 15 { gr0 with wait := .barCore } }, by decide +kernel⟩

theorem witness_bar_releases : ∃ s : State, (s.core 0).launch = some 1 ∧ (s.core 0).started = true ∧
    (∀ e ∈ (s.core 0).groups.entries, e.2.fin = true ∨ e.2.wait = .barCore) ∧ (s.core 0).groups.keys.Nodup ∧ ∀ k ∈ (s.core 0).groups.keys, k < 16 :=
  ⟨at_ 0 { coreOf gr0 with groups := (Tab.empty.put 0 { gr0 with fin := true }).put 15 { gr0 with wait := .barCore } }, by decide +kernel⟩

/-! ### Witnesses: the firn -/

/-- Fields of a firn instruction: descriptor 7, address in s4. -/
def ff : FF := ⟨4, 7⟩

/-- Core 0 at a firn word with the descriptor set. -/
def firnState (w : BitVec 64) (d : Desc) : State := { at_ w (coreOf grM) with descs := Tab.empty.put 7 d }

/-- Contributions: the first round of a LIST descriptor, from an aligned address. -/
theorem witness_fnput : ∃ s x, Issues s g0 (encF 0x01 ff) x ∧ let d := listDesc
    x.gr.spois.contains ff.sreg.toNat = false ∧ s.descs.get? ff.desc.toNat = some d ∧ d.owner = 0 ∧ d.isBarrier = false ∧
    s.rowgOf d g0.core x.la.layer = some 0 ∧ contributor (s.members d 0 x.la.layer) g0.core s.mid = some (0, false) ∧
    s.combineAt d 0 x.la.layer (s.members d 0 x.la.layer) 0 0 = ⟨s.mid, cluOf g0.core⟩ ∧ (x.gr.sreg ff.sreg.toNat).toNat % 32 = 0 ∧
    (x.gr.sreg ff.sreg.toNat).toNat + d.inBytes ≤ 64 * x.core.spadUnits.toNat ∧ d.pend = false ∧ x.core.arr.queue = [] ∧
    x.core.puts = [] ∧ d.put_.get g0.core.toNat 0 = 0 ∧
    s.stageFull ff.desc d 0 x.la.layer 0 (s.members d 0 x.la.layer) 0 0 (List.replicate d.inBytes 0#8) = false := ⟨firnState (encF 0x01 ff) listDesc, issued (by decide +kernel)⟩

/-- Contributions: a later round, the one before it complete at the core's router. -/
theorem witness_fnput_later : ∃ s x, Issues s g0 (encF 0x01 ff) x ∧ ∃ d ∈ s.descs.get? ff.desc.toNat, d.put_.get 0 0 = 1 ∧
    s.completedAt ff.desc d 0 (1 - 1) (cluOf 0) = true :=
  ⟨firnState (encF 0x01 ff) { listDesc with
    put_ := Tab.empty.put 0 1, round := Tab.empty.put 0 1,
    results := [{ Result.init with data := List.replicate 4 0, at_ := [.router 0] }] }, issued (by decide +kernel)⟩

/-- The descriptor with its first result held at router 0. -/
def heldDesc : Desc := { listDesc with round := Tab.empty.put 0 1, results := [{ Result.init with data := List.replicate 4 7, at_ := [.router 0] }] }

/-- The descriptor with its second contributor on module 1, to which no link of this module is ACTIVE. -/
def cutDesc : Desc := { listDesc with entries := [{ DEntry.init with c := true, r := true }, { DEntry.init with c := true, core := 1, mod_ := 1 }] }

/-- A word of a firn instruction on a module of a ring of two in X. -/
def ringState (w : BitVec 64) (d : Desc) : State :=
  { at_ w (coreOf grM) with descs := Tab.empty.put 7 d, am := { Amdon.init with topo := 0x400 } }

/-- Results: FNGET and FNTEST before and after the round has come, and once what it needs can no longer come. -/
theorem witness_fnget : ∀ p ∈ [(encF 0x02 ff, listDesc), (encF 0x02 ff, heldDesc), (encF 0x02 ff, cutDesc), (encF 0x03 ff, heldDesc)], ∃ x,
    Issues (ringState p.1 p.2) g0 p.1 x ∧ let s := ringState p.1 p.2
    s.descs.get? ff.desc.toNat = some p.2 ∧ p.2.owner = 0 ∧ p.2.isBarrier = false ∧ p.2.deliv ≠ 1 ∧ p.2.deliv ≠ 2 ∧ p.2.pend = false ∧ p.2.lost = [] ∧
    s.rowgOf p.2 g0.core x.la.layer = some 0 ∧ (s.readers p.2 0 x.la.layer).contains g0.core = true ∧
    x.gr.spois.contains ff.sreg.toNat = false ∧ (x.gr.sreg ff.sreg.toNat).toNat % 32 = 0 ∧
    (x.gr.sreg ff.sreg.toNat).toNat + p.2.outBytes ≤ 64 * x.core.spadUnits.toNat ∧ x.core.arr.queue = [] ∧ x.core.puts = [] :=
  issuedAll (by decide +kernel)

theorem witness_fnget_results : listDesc.resultAt 0 0 (cluOf 0) = none ∧ (heldDesc.resultAt 0 0 (cluOf 0)).any
    (fun r => r.poisAt (.router (cluOf 0)) == false && r.data.length == heldDesc.outBytes) = true ∧ cutDesc.resultAt 0 0 (cluOf 0) = none := by
  decide +kernel

theorem witness_fnget_cut : (ringState (encF 0x02 ff) listDesc).cutOff listDesc 0 0 = false ∧
    (ringState (encF 0x02 ff) cutDesc).cutOff cutDesc 0 0 = true := by decide +kernel

/-- Reductions: a flit of a round neither open nor next, and the second contribution of an FP32 ADD. -/
def upHdr (round : BitVec 8) : UpHdr := { desc := 7, rowg := 0, epoch := 0, round := round, level := 0, pos := 1, bk := false }

def upMsg (round : BitVec 8) : UpMsg := { UpMsg.init with h := upHdr round, data := List.replicate 4 1 }

theorem witness_up_stale : ∃ s : State, s.fnet.find? (fun y => y.h == upHdr 2) = some (upMsg 2) ∧ s.descs.get? 7 = some listDesc ∧
    listDesc.pend = false ∧ (upHdr 2).round ≠ BitVec.ofNat 8 (listDesc.round.get 0 0) ∧
    (upHdr 2).round ≠ BitVec.ofNat 8 (listDesc.round.get 0 0 + 1) ∧ listDesc.keptPart (upMsg 2) = none :=
  ⟨{ firnState 0 listDesc with fnet := [upMsg 2] }, by decide +kernel⟩

/-- The open round with contributor 0's operand. -/
def openRound : Round := { Round.init with parts := [{ Part.init with data := List.replicate 4 2 }] }

/-- Its root at the router of the combine, and at another. -/
def secondDesc (root : Nat) : Desc := { listDesc with words := listDesc.words.set 8 (BitVec.ofNat 32 root), rounds := [openRound] }

def secondState (root : Nat) : State := { firnState 0 (secondDesc root) with fnet := [upMsg 0] }

theorem witness_up_second : ∀ w ∈ [0, 64], let s := secondState w
    let d := secondDesc w
    s.fnet.find? (fun y => y.h == upHdr 0) = some (upMsg 0) ∧ s.descs.get? 7 = some d ∧
    d.pend = false ∧ (upHdr 0).epoch = s.descEp.get 7 0 ∧ (upHdr 0).round = BitVec.ofNat 8 (d.round.get 0 0) ∧ (upHdr 0).level = 0 ∧
    (upHdr 0).pos < 2 ∧ d.ao = false ∧ d.op = 0 ∧ d.infmt = 0 ∧ d.rootx = 0 ∧ d.outfmt = 0 ∧ s.rootHere d = true ∧
    (s.members d 0 (upMsg 0).layer).length = 2 ∧ (∀ i, i < 2 → modAt (s.members d 0 (upMsg 0).layer) i = s.mid) ∧
    d.rounds.find? (fun y => y.rowg == 0 && y.num == 0) = some openRound ∧ openRound.layer = (upMsg 0).layer ∧
    (openRound.partAt 0 0).isSome = true ∧ openRound.partAt 0 1 = none ∧ openRound.usedAt 0 1 = none ∧ openRound.partAt 1 0 = none ∧
    (w = 0 ↔ s.rootClu d 0 (upMsg 0).layer = cluAt (s.members d 0 (upMsg 0).layer) 0) ∧
    (s.readers d 0 (upMsg 0).layer).all (fun k => 0 < d.taken.get k.toNat 0 + 2) = true ∧ s.dnet = [] ∧ (s.readerClus d 0 (upMsg 0).layer).length = 1 := by
  decide +kernel

/-- Reductions: the second contribution of round 2, which a reader that has taken no round holds open. -/
def aheadDesc : Desc := { secondDesc 0 with round := Tab.empty.put 0 2, rounds := [{ openRound with num := 2 }] }

def aheadState : State := { firnState 0 aheadDesc with fnet := [upMsg 2] }

theorem witness_up_held : aheadState.fnet.find? (fun y => y.h == upHdr 2) = some (upMsg 2) ∧ aheadState.descs.get? 7 = some aheadDesc ∧
    aheadDesc.pend = false ∧ (upHdr 2).epoch = aheadState.descEp.get 7 0 ∧ (upHdr 2).round = BitVec.ofNat 8 (aheadDesc.round.get 0 0) ∧
    aheadState.rootHere aheadDesc = true ∧ (aheadState.members aheadDesc 0 (upMsg 2).layer).length = 2 ∧
    aheadDesc.rounds.find? (fun y => y.rowg == 0 && y.num == 2) = some { openRound with num := 2 } ∧
    aheadState.rootClu aheadDesc 0 (upMsg 2).layer = cluAt (aheadState.members aheadDesc 0 (upMsg 2).layer) 0 ∧ aheadDesc.isBarrier = false ∧
    ((aheadState.readers aheadDesc 0 (upMsg 2).layer).any fun k => aheadState.canTake aheadDesc k && decide (aheadDesc.taken.get k.toNat 0 + 2 ≤ 2)) = true := by
  decide +kernel

/-- FixedOrderTree: three contributions that come in the order 2, 0, 1. -/
def v3 : List FnVal := [⟨[1], false⟩, ⟨[2], false⟩, ⟨[3], false⟩]

theorem witness_tree : ∃ (d : Desc) (vals : List FnVal) (order : List Nat), d.ao = false ∧ vals ≠ [] ∧ vals.length ≤ 2 ^ 24 ∧
    order.Perm (List.range vals.length) ∧ order ≠ List.range vals.length := ⟨listDesc, v3, [2, 0, 1], by decide +kernel⟩

/-- Deliveries: one of a stale epoch, and ones that their results expect, of this module's descriptor and of another's. -/
def dnMsg (ep : BitVec 8) (num : Nat) : DnMsg :=
  { DnMsg.init with h := ⟨7, 0, ep, BitVec.ofNat 8 num, .router 0⟩, num := num, data := List.replicate 4 7 }

def dnDesc (num : Nat) (root : Word) : Desc :=
  { heldDesc with words := heldDesc.words.set 9 root, results := [{ Result.init with num := num, data := List.replicate 4 7 }] }

def dnState (ep : BitVec 8) (num : Nat) (root : Word) : State := { firnState 0 (dnDesc num root) with dnet := [dnMsg ep num] }

theorem witness_dn : ∀ e ∈ [((0 : BitVec 8), 0, (0 : Word)), (255, 0, 0), (0, 1, 9), (0, 2, 9)], let s := dnState e.1 e.2.1 e.2.2
    let m := dnMsg e.1 e.2.1
    let d := dnDesc e.2.1 e.2.2
    s.dnet.find? (fun y => y.h == m.h) = some m ∧ s.descs.get? 7 = some d ∧
    (e.1 = 255 ↔ m.h.epoch ≠ s.descEp.get 7 0) ∧ d.isBarrier = false ∧ (e.2.2 = 0 ↔ s.rootHere d = true) ∧
    (∃ r ∈ d.results, r.rowg = 0 ∧ r.num = m.num ∧ (s.readers d r.rowg r.layer).any (fun k => d.taken.get k.toNat 0 ≤ r.num) = true) := by decide +kernel

/-! ### Witnesses: coherence -/

/-- A message in flight alone. -/
theorem inFlight {s : State} {p : Msg → Bool} {m : Msg} (h : s.net = [m]) (hp : p m = true) : InFlight s p m [] :=
  ⟨⟨[], [], h, rfl, by simp⟩, hp⟩

/-- With one live channel every line's home is floe 0's. -/
theorem floe_one {s : State} (h : s.live = [0]) (line : Nat) : (s.locOf line).floe = 0 := by
  simp [State.locOf, State.nch, State.liveAt, h, Nat.mod_one]

/-- A message of REQ alone, with nothing in the ingress of its home. -/
theorem arrives {s : State} {p : Msg → Bool} {m : Msg} {line : Nat} (h : s.net = [m]) (hp : p m = true) (hl : s.live = [0])
    (hi : (s.home 0).ingress = []) : Arrives s p m line [] :=
  ⟨⟨[], [], h, rfl, by simp⟩, hp, by unfold State.homeOfLine; rw [floe_one hl]; exact hi⟩

theorem rests {s : State} {line : Nat} (h : s.fe.rstBusy = false ∧ s.homeActs line = true ∧ (s.homeOfLine line).txn? line = none ∧
    (s.homeOfLine line).waiting line = [] ∧ (s.homeOfLine line).txns.length < 256 ∧ s.protectsUc line = false ∧ (s.dirOf line).bad = false ∧
    (s.chanOf line).stopped = false) : LineRests s line :=
  ⟨h.1, h.2.1, h.2.2.1, h.2.2.2.1, h.2.2.2.2.1, h.2.2.2.2.2.1, h.2.2.2.2.2.2.1, h.2.2.2.2.2.2.2⟩

/-- Nothing waits at the home of a floe. -/
theorem quiet {s : State} {f : Floe} (h : (s.home f).slots.entries.all (fun p => !p.2.arrived) = true ∧ (s.home f).parked = [] ∧
    (s.home f).ingress = []) : HomeQuiet s f :=
  ⟨fun p hp => by simpa using List.all_eq_true.1 h.1 p hp, h.2.1, h.2.2⟩

theorem quietAt {s : State} (hl : s.live = [0]) (line : Nat) (h : (s.home 0).slots.entries.all (fun p => !p.2.arrived) = true ∧
    (s.home 0).parked = [] ∧ (s.home 0).ingress = []) : HomeQuiet s (s.locOf line).floe := by
  rw [floe_one hl]
  exact quiet h

/-- The last line of the channel's 8 GiB. -/
def top : Nat := 67108863

/-- The home of line `top` in a directory state, with the entry in the directory cache and the line in the eviction buffer or not. -/
def homeWith (e : DirEntry) (cached ev : Bool) : Home :=
  { Home.init with
    tvalid := true, tstate := 0, dir := Tab.empty.put top e.words, dcache := if cached then [⟨top, e⟩] else [],
    evb := if ev then [{ EvEntry.init with line := top, data := 9, dirty := 15 }] else [] }

/-- The module with that home and messages in flight. -/
def dirState (e : DirEntry) (cached ev : Bool) (net : List Msg) : State :=
  { up with homes := Tab.empty.put 0 (homeWith e cached ev), net := net }

/-- A request of cluster 3 for line `top`. -/
def req : Req := ⟨top, .clu 3 31 255⟩

/-- Directory entries: of no copy, an owner, two and three sharers, two floe columns, an owner with cluster 3 as its sharer, and cluster 3 alone. -/
def own0 : DirEntry := { DirEntry.init with dst := .own, p0 := 0 }

def own3 : DirEntry := { DirEntry.init with dst := .own, p0 := 3 }

def shr2 : DirEntry := { DirEntry.init with dst := .shr, p0 := 0, p1 := 1, nsh := 2 }

def shr3 : DirEntry := { DirEntry.init with dst := .shr, p0 := 0, p1 := 1, p2 := 2, nsh := 3 }

def shc2 : DirEntry := { DirEntry.init with dst := .shc, coarse := 0x8001 }

def ows3 : DirEntry := { DirEntry.init with dst := .ows, p0 := 0, p1 := 3, nsh := 1 }

def shrMe : DirEntry := { DirEntry.init with dst := .shr, p0 := 3, nsh := 1 }

def entries : List DirEntry := [.init, own0, own3, shr2, shr3, shc2, ows3, shrMe]

/-- RequestsAtTheHome: the four requests arrive at a home in each of these states, -/
theorem witness_requests (e : DirEntry) (c v : Bool) : ∀ kd ∈ [ReqKind.rds, .rdx, .upg, .rdz],
    Arrives (dirState e c v [.req kd req .init]) (isReq (· == kd) req) (.req kd req .init) top [] := by
  intro kd hk
  have h : ∀ kd ∈ [ReqKind.rds, .rdx, .upg, .rdz], isReq (· == kd) req (.req kd req .init) = true := by decide
  exact arrives rfl (h kd hk) rfl rfl

/-- where the line rests and the directory reads as written. -/
theorem witness_directory : ∀ e ∈ entries, ∀ c ∈ [true, false], ∀ v ∈ [true, false], LineRests (dirState e c v []) top ∧
    (dirState e c v []).dirOf top = e ∧ (((dirState e c v []).homeOfLine top).cached top = if c then some e else none) ∧
    (((dirState e c v []).homeOfLine top).evFind top).isSome = v := by
  have h : ∀ e ∈ entries, ∀ c ∈ [true, false], ∀ v ∈ [true, false], let s := dirState e c v []
      (s.fe.rstBusy = false ∧ s.homeActs top = true ∧ (s.homeOfLine top).txn? top = none ∧ (s.homeOfLine top).waiting top = [] ∧
        (s.homeOfLine top).txns.length < 256 ∧ s.protectsUc top = false ∧ (s.dirOf top).bad = false ∧ (s.chanOf top).stopped = false) ∧
      s.dirOf top = e ∧ ((s.homeOfLine top).cached top = if c then some e else none) ∧ ((s.homeOfLine top).evFind top).isSome = v := by
    decide +kernel
  exact fun e he c hc v hv => ⟨rests (h e he c hc v hv).1, (h e he c hc v hv).2⟩

theorem witness_directory_states : own0.p0 ≠ 3 ∧ 3 ∉ shr2.sharers ∧ shr2.sharers.length < 3 ∧ 3 ∉ shr3.sharers ∧ shr3.sharers.length = 3 ∧
    shr3.sharers.filter (· != 3) ≠ [] ∧ shc2.coarse ≠ 0 ∧ ows3.p0 ≠ 3 ∧ ows3.sharers.filter (fun c => c != 3 && c != ows3.p0) = [] ∧
    shrMe.sharers = [3] := by decide +kernel

/-- RequestsAtTheHome: UPG of a cluster that holds the line. -/
def upgState (e : DirEntry) : State :=
  { dirState e true false [.req .upg req .init] with
    clus := Tab.empty.put 3 { Cluster.init with l2 := Tab.empty.put (16 * setOf top) { L2Line.init with line := top, st := .s } } }

theorem witness_upg : ∀ e ∈ [shrMe, ows3], Arrives (upgState e) (isReq (· == .upg) req) (.req .upg req .init) top [] ∧ LineRests (upgState e) top ∧
    (upgState e).hasCopy req.who top = true ∧ (upgState e).dirOf top = e := by
  have h : ∀ e ∈ [shrMe, ows3], let s := upgState e
      (s.fe.rstBusy = false ∧ s.homeActs top = true ∧ (s.homeOfLine top).txn? top = none ∧ (s.homeOfLine top).waiting top = [] ∧
        (s.homeOfLine top).txns.length < 256 ∧ s.protectsUc top = false ∧ (s.dirOf top).bad = false ∧ (s.chanOf top).stopped = false) ∧
      s.hasCopy req.who top = true ∧ s.dirOf top = e := by decide +kernel
  exact fun e he => ⟨arrives rfl rfl rfl rfl, rests (h e he).1, (h e he).2⟩

/-- UncachedAtTheHome: the three requests on a line without a copy, in its last sector. -/
def pay : Pay := { Pay.init with sector := 4 * top + 3, mask := 1, data := 1, addr := 128 * top + 124 }

theorem witness_uncached : ∀ v ∈ [true, false], let s := dirState .init true v
    Arrives (s [.req (.ucr false) req pay]) (isReq isUcr req) (.req (.ucr false) req pay) top [] ∧
    Arrives (s [.req .ucw req pay]) (isReq (· == .ucw) req) (.req .ucw req pay) top [] ∧
    Arrives (s [.req (.uca 0x1A .b4) req pay]) (isReq isUca req) (.req (.uca 0x1A .b4) req pay) top [] :=
  fun _ _ => ⟨arrives rfl rfl rfl rfl, arrives rfl rfl rfl rfl, arrives rfl rfl rfl rfl⟩

theorem witness_uncached_line : ∀ v ∈ [true, false], let s := dirState .init true v []
    s.protectedBy pay.owner (· == pay.sector) = false ∧
    (s.homeOfLine top).refusedBefore req (s.homeOfLine top).nackSerial = false ∧
    LineVal.poisAt ⟨9, 0⟩ (pay.addr % 128) 4 = false := by decide +kernel

/-- Refusals: a busy line, a NACK at its slice, and RTYs with a stale credit, with a good one while busy, and with a good one at rest. -/
def txn0 : Txn := { Txn.init with line := top, who := .clu 9 0 0 }

def slotHome (x : List Txn) : Home :=
  { homeWith .init true true with txns := x, slots := Tab.empty.put 1023 { SlotRec.init with used := true, req := req } }

def busy (net : List Msg) : State := { up with net := net, homes := Tab.empty.put 0 (slotHome [txn0]) }

theorem witness_refuse : ∀ k ∈ [ReqKind.rds, .rdx, .upg, .rdz],
    Arrives (busy [.req k req .init]) (isReq (· == k) req) (.req k req .init) top [] ∧ (busy [.req k req .init]).lineOk top = true ∧ (busy [.req k req .init]).fe.rstBusy = false ∧
    ((busy [.req k req .init]).homeOfLine top).txn? top = some txn0 ∧ (busy [.req k req .init]).protectsUc top = false ∧
    ((busy [.req k req .init]).homeOfLine top).freeSlot = some 0 := by
  have h : ∀ k ∈ [ReqKind.rds, .rdx, .upg, .rdz], isReq (· == k) req (.req k req .init) = true := by decide
  have g : ∀ k ∈ [ReqKind.rds, .rdx, .upg, .rdz], (busy [.req k req .init]).lineOk top = true ∧ (busy [.req k req .init]).fe.rstBusy = false ∧
      ((busy [.req k req .init]).homeOfLine top).txn? top = some txn0 ∧ (busy [.req k req .init]).protectsUc top = false ∧
      ((busy [.req k req .init]).homeOfLine top).freeSlot = some 0 := by decide +kernel
  exact fun k hk => ⟨arrives rfl (h k hk) rfl rfl, g k hk⟩

/-- The entry of a victim line. -/
def wb : WbEntry := { WbEntry.init with line := top, data := 1, dirty := 8 }

def nackState (w : Bool) : State :=
  { up with
    net := [.nack req 0 1023 7 w],
    clus := Tab.empty.put 3 { Cluster.init with
      miss := Tab.empty.put 31 { Miss.init with line := top }, missEp := Tab.empty.put 31 255, wbuf := if w then [wb] else [] } }

theorem witness_nack (w : Bool) : InFlight (nackState w) (fun y => match y with | .nack q _ _ _ _ => q == req | _ => false) (.nack req 0 1023 7 w) [] ∧
    ((nackState w).locOf top).floe = 0 ∧ ((nackState w).clu 3).missAt 31 255 = some { Miss.init with line := top } ∧
    ((nackState w).clu 3).missAt 31 254 = none ∧ ((nackState true).clu 3).wb? top = some wb := by
  refine ⟨inFlight rfl (by simp), ?_⟩
  cases w <;> decide +kernel

theorem witness_rty (ep : BitVec 8) (x : List Txn) : InFlight { busy [.rty 0 1023 ep .rds req] with homes := Tab.empty.put 0 (slotHome x) }
    (fun y => match y with | .rty a b c _ _ => a == 0 && b == 1023 && c == ep | _ => false) (.rty 0 1023 ep .rds req) [] :=
  inFlight rfl (by simp)

/-- The slot waits for its RTY with the line idle. -/
def idleSlot : State := { up with net := [.rty 0 1023 0 .rds req], homes := Tab.empty.put 0 (slotHome []) }

theorem witness_rty_slot : let r := (slotHome []).slots.get 1023 .init
    r.used = true ∧ r.ep = 0 ∧ r.ep ≠ 255 ∧ r.isWbd = false ∧ r.req = req ∧ r.kind = .rds ∧ (((busy []).homeOfLine top).txn? top).isSome = true ∧
    ((busy []).home 0).parked = [] ∧ ((busy []).home 0).ingress = [] ∧ ((busy []).home 0).slots.keys = [1023] ∧ (idleSlot.home 0).parked = [] ∧
    (idleSlot.home 0).ingress = [] ∧ (idleSlot.home 0).slots.keys = [1023] := by decide +kernel

theorem witness_rty_served : LineRests idleSlot top ∧ idleSlot.dirOf top = .init ∧ ((idleSlot.homeOfLine top).cached top).isSome = true ∧
    ((idleSlot.homeOfLine top).evFind top).isSome = true := ⟨rests (by decide +kernel), by decide +kernel⟩

/-- Writebacks: from the owner, from another cluster, and the answer. -/
theorem witness_wbd (e : DirEntry) : Arrives (dirState e true false [.wbd req wb]) (isWbd req) (.wbd req wb) top [] := arrives rfl rfl rfl rfl

theorem witness_evc (e : DirEntry) : Arrives (dirState e true false [.evc req]) (isEvc req) (.evc req) top [] := arrives rfl rfl rfl rfl

theorem witness_owner : ((dirState own3 true false []).homeOfLine top).fwdPending top 3 = false ∧ (dirState own3 true false []).dirOf top = own3 ∧
    own3.bad = false ∧ ((dirState own3 true false []).homeOfLine top).cached top = some own3 ∧ ((dirState own3 true false []).homeOfLine top).evb.length < 256 ∧ own0.owner ≠ some 3 := by decide +kernel

/-- Writebacks: a WBD and an EVC whose entry the directory cache does not hold. -/
theorem witness_wbd_asks : Arrives (dirState own3 false false [.wbd req wb]) (isWbd req) (.wbd req wb) top [] ∧
    Arrives (dirState own3 false false [.evc req]) (isEvc req) (.evc req) top [] ∧ let h := (dirState own3 false false []).homeOfLine top
    h.cached top = none ∧ h.txn? top = none ∧ h.rq = [] ∧ h.fwdPending top 3 = false :=
  ⟨arrives rfl rfl rfl rfl, arrives rfl rfl rfl rfl, by decide +kernel⟩

theorem witness_wback : InFlight { up with net := [.wback top 3] } (fun y => match y with | .wback l c => l == top && c == 3 | _ => false)
    (.wback top 3) [] ∧ (({ up with net := [.wback top 3] } : State).clu 3).miss.entries = [] ∧
    (({ up with net := [.wback top 3] } : State).clu 3).fillq = [] := ⟨inFlight rfl (by decide), by decide +kernel⟩

/-- ForwardsAtASlice: line `top` at way 0 of its set in cluster 3, modified, exclusive or shared. -/
def sliceState (st : Moesi) (m : Msg) : State :=
  { up with net := [m], clus := Tab.empty.put 3 { Cluster.init with
      l2 := Tab.empty.put (16 * setOf top) { L2Line.init with line := top, st := st, data := 5 } } }

def sliceMsgs : List (Msg × (Msg → Bool)) :=
  [(.fwd .fwdS top 3 req 0, isFwd .fwdS top 3), (.fwd .fwdX top 3 req 0, isFwd .fwdX top 3), (.fwd .rclS top 3 req 0, isFwd .rclS top 3),
   (.fwd .rclI top 3 req 0, isRclI top 3), (.inv top 3 0, isInv top 3), (.invCol top (colOf 3) [9] 0, isInv top 3)]

theorem witness_forward : ∀ p ∈ sliceMsgs, ∀ st ∈ [Moesi.m, .e, .s], let s := sliceState st p.1
    InFlight s p.2 p.1 [] ∧ (s.clu 3).find top = some (16 * setOf top) ∧ (s.clu 3).wb? top = none ∧ s.protectsLine 3 top = false ∧
    (s.clu 3).filling top = false ∧ s.unused 3 top = false ∧ st ≠ .i := by
  have h : ∀ p ∈ sliceMsgs, ∀ st ∈ [Moesi.m, .e, .s], let s := sliceState st p.1
      p.2 p.1 = true ∧ (s.clu 3).find top = some (16 * setOf top) ∧ (s.clu 3).wb? top = none ∧ s.protectsLine 3 top = false ∧
      (s.clu 3).filling top = false ∧ s.unused 3 top = false ∧ st ≠ .i := by decide +kernel
  exact fun p hp st hs => ⟨inFlight rfl (h p hp st hs).1, (h p hp st hs).2⟩

/-- No slice of the column defers its answer. -/
theorem witness_column (st : Moesi) (m : Msg) (j : Clu) : (sliceState st m).defers j top = false := by
  have u : (sliceState st m).unused j top = false := rfl
  have p : (sliceState st m).protectsLine j top = false := rfl
  have f : ((sliceState st m).clu j).filling top = false := by
    show (lookL [(3, _)] j.toNat Cluster.init).filling top = false
    unfold lookL
    split <;> rfl
  simp [State.defers, u, p, f]

/-- ResponsesAtASlice: each response for a miss entry of epoch 255, and a stale one. -/
def missState (m : Msg) (k : ReqKind) (ep : BitVec 8) : State :=
  { up with net := [m], clus := Tab.empty.put 3 { Cluster.init with
      miss := Tab.empty.put 31 { Miss.init with line := top, kind := k, stream := true }, missEp := Tab.empty.put 31 ep } }

theorem witness_response (k : ReqKind) (ep : BitVec 8) :
    InFlight (missState (.data req .e 5 0) k ep) (fun y => match y with | .data q _ _ _ => q == req | _ => false) (.data req .e 5 0) [] ∧
    InFlight (missState (.dataF req 5 true 8 0 true) k ep) (fun y => match y with | .dataF q _ _ _ _ _ => q == req | _ => false)
      (.dataF req 5 true 8 0 true) [] ∧
    InFlight (missState (.grant req) k ep) (fun y => match y with | .grant q => q == req | _ => false) (.grant req) [] :=
  ⟨inFlight rfl (by simp), inFlight rfl (by simp), inFlight rfl (by simp)⟩

theorem witness_response_entry : let c := (missState (.grant req) .rdz 255).clu 3
    c.missAt 31 255 = some { Miss.init with line := top, kind := .rdz, stream := true } ∧ c.stq = [] ∧ c.held = [] ∧ c.find top = none ∧
    (waysOf top).find? (fun w => (c.l2.get w .init).st == .i) = some (16 * setOf top) ∧ ((missState (.grant req) .rds 0).clu 3).missAt 31 255 = none := by
  decide +kernel

def upgMiss : State :=
  { missState (.grant req) .upg 255 with clus := Tab.empty.put 3 { Cluster.init with
      miss := Tab.empty.put 31 { Miss.init with line := top, kind := .upg }, missEp := Tab.empty.put 31 255,
      l2 := Tab.empty.put (16 * setOf top + 15) { L2Line.init with line := top, st := .s } } }

theorem witness_upg_grant : InFlight upgMiss (fun y => match y with | .grant q => q == req | _ => false) (.grant req) [] ∧
    (upgMiss.clu 3).missAt 31 255 = some { Miss.init with line := top, kind := .upg } ∧ (upgMiss.clu 3).stq = [] ∧ (upgMiss.clu 3).held = [] ∧
    (upgMiss.clu 3).find top = some (16 * setOf top + 15) := ⟨inFlight rfl (by decide), by decide +kernel⟩

def ucMiss : Miss := { Miss.init with line := top, kind := .ucr false, pay := { Pay.init with sector := 4 * top + 3 } }

def ucState : State :=
  { up with
    net := [.ucdone req 7 0 true 2 0], clus := Tab.empty.put 3 { Cluster.init with miss := Tab.empty.put 31 ucMiss, missEp := Tab.empty.put 31 255 },
    cores := Tab.empty.put 0 { Core.init with ucOut := [{ UcOut.init with addr := 0x1FFFFFFE0, uc := true, mask := 1, data := 5 }] } }

theorem witness_ucdone : InFlight ucState (fun y => match y with | .ucdone q _ _ _ _ _ => q == req | _ => false) (.ucdone req 7 0 true 2 0) [] ∧
    (ucState.clu 3).missAt 31 255 = some ucMiss ∧ ucMiss.kind = .ucr false ∧
    ((ucState.core 0).ucOut.find? fun o => o.grp == ucMiss.pay.grp && o.addr == ucState.here (32 * ucMiss.pay.sector) && o.lane == ucMiss.pay.lane &&
      !o.store) = some { UcOut.init with addr := 0x1FFFFFFE0, uc := true, mask := 1, data := 5 } :=
  ⟨inFlight rfl (by decide), by decide +kernel⟩

/-- TransactionsEnd: an acknowledgement that is not the last, the last of an RDZ, and the completion of an RDS and of an RDX. -/
def txnState (x : Txn) (e : DirEntry) (m : Msg) : State :=
  { up with net := [m], homes := Tab.empty.put 0 { homeWith e true false with txns := [x] } }

theorem txn_quiet (x : Txn) (e : DirEntry) (m : Msg) : HomeQuiet (txnState x e m) ((txnState x e m).locOf top).floe := quietAt rfl top ⟨rfl, rfl, rfl⟩

theorem witness_ack_more : let x : Txn := { txn0 with acks := 2, wait := .recall, kind := .ucw }
    let s := txnState x own0 (.ack top 0 1 (some 5) 0 0)
    InFlight s (fun y => match y with | .ack l k _ _ _ _ => l == top && k == 0 | _ => false) (.ack top 0 1 (some 5) 0 0) [] ∧
    (s.homeOfLine top).txn? top = some x ∧ x.line = top ∧ (s.dirOf top).bad = false ∧ 1 < x.acks ∧
    (s.homeOfLine top).evb.length < 256 := ⟨inFlight rfl (by decide), by decide +kernel⟩

theorem witness_ack_last : let x : Txn := { txn0 with acks := 1, wait := .acks, kind := .rdz }
    let s := txnState x shr2 (.ack top 0 1 none 0 0)
    InFlight s (fun y => match y with | .ack l k _ _ _ _ => l == top && k == 0 | _ => false) (.ack top 0 1 none 0 0) [] ∧
    (s.homeOfLine top).txn? top = some x ∧ x.line = top ∧ (s.dirOf top).bad = false ∧ x.acks = 1 :=
  ⟨inFlight rfl (by decide), by decide +kernel⟩

theorem witness_cmp : ∀ k ∈ [ReqKind.rds, .rdx], ∀ d ∈ [true, false], let x : Txn := { txn0 with kind := k }
    let s := txnState x own0 (.cmp ⟨top, x.who⟩ d)
    InFlight s (fun y => match y with | .cmp q _ => q == ⟨top, x.who⟩ | _ => false) (.cmp ⟨top, x.who⟩ d) [] ∧
    (s.homeOfLine top).txn? top = some x ∧ x.wait = .cmp ∧ x.who = .clu 9 0 0 ∧ x.slot = none ∧ (s.dirOf top).dst = .own ∧ (s.dirOf top).p0 ≠ 9 := by
  have h : ∀ k ∈ [ReqKind.rds, .rdx], ∀ d ∈ [true, false], let x : Txn := { txn0 with kind := k }
      let s := txnState x own0 (.cmp ⟨top, x.who⟩ d)
      (s.homeOfLine top).txn? top = some x ∧ x.wait = .cmp ∧ x.who = .clu 9 0 0 ∧ x.slot = none ∧ (s.dirOf top).dst = .own ∧ (s.dirOf top).p0 ≠ 9 := by
    decide +kernel
  exact fun k hk d hd => ⟨inFlight rfl (by simp), h k hk d hd⟩

/-! ### Witnesses: the moraine, time, islands and power -/

/-- BuffersDrain: a dirty or clean eviction-buffer entry, and a write-combining entry 2 µs old. -/
def bufState (dirty : BitVec 4) : State :=
  { up with
    tb := { TimeBase.init with now := 2000 },
    homes := Tab.empty.put 0 { Home.init with
      tvalid := true, tstate := 0, evb := [{ EvEntry.init with line := 0, data := 1, dirty := dirty }],
      wcb := [{ WcbEntry.init with line := top, mask := 1, data := 1 }] } }

theorem witness_buffers : ∀ k ∈ [0, 15], let s := bufState (BitVec.ofNat 4 k)
    s.hbmRuns top = true ∧ s.hbmRuns 0 = true ∧ (s.chanOf top).stopped = false ∧ (s.chanOf 0).stopped = false ∧
    (s.homeOfLine 0).evFind 0 = some { EvEntry.init with line := 0, data := 1, dirty := BitVec.ofNat 4 k } ∧
    (s.homeOfLine top).wcFind top = some { WcbEntry.init with line := top, mask := 1, data := 1 } ∧ (s.homeOfLine top).evFind top = none ∧
    (s.homeOfLine top).wq = [] := by decide +kernel

theorem witness_buffers_quiet (dirty : BitVec 4) : HomeQuiet (bufState dirty) ((bufState dirty).locOf 0).floe := quietAt rfl 0 ⟨rfl, rfl, rfl⟩

/-- BuffersDrain: a write that has waited 1 µs. -/
def wq1 : StackReq := { StackReq.init with line := top, mask := 1, data := 1 }

def writeState : State :=
  { up with
    tb := { TimeBase.init with now := 1000, running := true }, homes := Tab.empty.put 0 { Home.init with tvalid := true, tstate := 0, wq := [wq1] } }

theorem witness_writes : writeState.hbmRuns top = true ∧ (writeState.chanOf top).stopped = false ∧ (writeState.homeOfLine top).wq = [wq1] ∧
    (writeState.homeOfLine top).rq = [] ∧ (writeState.homeOfLine top).gq = [] ∧
    (∀ p ∈ writeState.homes.entries, p.2.wq = [] ∨ p = ((writeState.locOf top).floe.toNat, writeState.homeOfLine top)) ∧
    writeState.host.waiting = [] ∧ writeState.tb.running = true ∧ wq1.since.toNat + 1000 ≤ writeState.tb.now.toNat ∧
    writeState.clus.entries = [] ∧ writeState.tb.now.toNat + 64 <
      ((writeState.homeOfLine top).refs.get (writeState.locOf top).pc 0).toNat + (writeState.homeOfLine top).refreshNs := by decide +kernel

/-- Gathers and LineReads: a gather and a read of the last line that may be served. -/
def gather1 : GatherReq := { GatherReq.init with sector := 4 * top + 3, mask := 1, data := 7 }

def read1 : StackReq := { StackReq.init with line := top, serial := 1 }

def readState (x : Txn) (cached : Bool) : State :=
  { up with
    homes := Tab.empty.put 0 { homeWith .init cached false with gq := [gather1], rq := [read1], txns := [x] },
    cores := Tab.empty.put 0 { Core.init with ucOut := [{ UcOut.init with addr := 0x1FFFFFFE0 }] } }

def gatherState : State := { readState txn0 true with homes := Tab.empty.put 0 { homeWith .init true false with gq := [gather1] } }

theorem witness_gather : (gatherState.homeOfLine top).gq = [gather1] ∧ gatherState.mayServe gather1.waiter = true ∧
    (gatherState.chanOf top).stopped = false ∧ gatherState.memPois top = 0 ∧ (gatherState.homeOfLine top).reps = [] ∧
    (gatherState.homeOfLine top).wq = [] ∧
    ((gatherState.core 0).ucOut.find? fun y => y.grp == 0 && !y.store && fieldN y.addr 0 49 == 32 * (4 * top + 3)) =
      some { UcOut.init with addr := 0x1FFFFFFE0 } := by decide +kernel

def lineState (w : TxnWait) (cached : Bool) : State :=
  { up with homes := Tab.empty.put 0 { homeWith .init cached false with rq := [read1], txns := [{ txn0 with wait := w }] } }

theorem witness_reads : ∀ e ∈ [(TxnWait.read, true), (TxnWait.dir, false)], let s := lineState e.1 e.2
    s.lineOk top = true ∧ s.hbmRuns top = true ∧ (s.chanOf top).stopped = false ∧ (s.homeOfLine top).rq.find? (·.line == top) = some read1 ∧
    s.mayServe read1.waiter = true ∧ read1.entry = false ∧ read1.mask = 0 ∧ (s.homeOfLine top).wq = [] ∧ (s.homeOfLine top).evFind top = none ∧ (s.homeOfLine top).txn? top = some { txn0 with wait := e.1 } ∧
    txn0.kind = .rds ∧ txn0.who = .clu 9 0 0 ∧ s.dirOf top = .init ∧ (s.homeOfLine top).cached top = (if e.2 then some .init else none) := by
  decide +kernel

theorem witness_reads_quiet (w : TxnWait) (c : Bool) : HomeQuiet (lineState w c) ((lineState w c).locOf top).floe := quietAt rfl top ⟨rfl, rfl, rfl⟩

theorem witness_reports : let fails (r : ReadReport) (i : Nat) : Prop := r.par.getLsbD i = true ∨ (i < 8 ∧ r.sev0 = 2) ∨ (8 ≤ i ∧ i < 16 ∧ r.sev1 = 2) ∨
      (16 ≤ i ∧ i < 24 ∧ r.sev2 = 2) ∨ (24 ≤ i ∧ i < 32 ∧ r.sev3 = 2)
    (∀ i, i < 32 → ¬fails ⟨0, 0, 0, 1, 0⟩ i) ∧ fails ⟨0, 0, 0, 0, 0x80000000⟩ 31 ∧ fails ⟨2, 0, 0, 0, 0⟩ 0 ∧ up.memPois top = 0 := by
  decide +kernel

/-- A word whose parity fails in both reads is poisoned at its origin, and counts in MR_PARERR and DG_AO_POISON (R280, R370, R407). -/
theorem test_second_read_poisons : (match exec (.hbmRead top ⟨0, 0, 0, 0, 1⟩ ⟨0, 0, 0, 0, 1⟩) (lineState .read true) with
    | .next t => (t.homeOfLine top).parerr == 1 && t.dg.aoPoison == 1
    | _ => false) = true := by decide +kernel

/-- TemperatureStates: a controller that is cool, and one in STOP with nothing held back. -/
theorem witness_temperature : (up.home 0).tstate = 0 ∧ (State.reset.home 0).tstate = 3 ∧ (State.reset.home 0).wq = [] ∧ HomeQuiet State.reset 0 :=
  ⟨by decide +kernel, by decide +kernel, by decide +kernel, quiet (by decide +kernel)⟩

/-- ChannelsAndRefresh: a live channel, one with 64 failures in a row, one that is mapped out, and a refresh that has come due at the higher rate. -/
def careState : State :=
  { up with
    tb := { TimeBase.init with now := 1950 },
    homes := Tab.empty.put 0 { Home.init with tvalid := true, tstate := 1, chans := Tab.empty.put 0 { Chan.init with caRun := 64 } } }

theorem witness_care : up.liveChan 0 0 = true ∧ ((up.home 0).chans.get 0 .init).stopped = false ∧ careState.liveChan 0 0 = true ∧
    careState.liveChan 0 15 = false ∧ 64 ≤ ((careState.home 0).chans.get 0 .init).caRun ∧ ((up.home 0).chans.get 0 .init).caRun < 64 ∧
    ((careState.home 0).refs.get 1 0).toNat + (if (careState.home 0).tstate = 0 then 3900 else 1950) ≤ careState.tb.now.toNat := by decide +kernel

/-- TimeBase: a running counter; a series with its last request to send, one 128 µs old, and one whose last response comes. -/
def series (n : Nat) (exch : List Exch) : State :=
  { up with
    tb := { TimeBase.init with now := 128000, running := true, exOn := true, exNext := n, exch := exch, roleSet := true, role := true }
    ports := Tab.empty.put 0 { Port.init with st := .active } }

theorem witness_time_code : CodeOnly (series 0 []) ∧ (series 0 []).pw.on = true ∧ (series 0 []).tb.now.toNat + 64 < 2 ^ 64 :=
  ⟨⟨by decide +kernel, by decide +kernel, by decide +kernel, by decide +kernel⟩, by decide +kernel⟩

theorem witness_series : (series 63 []).tb.exOn = true ∧ (series 63 []).tb.exNext < 64 ∧ ((series 63 []).port 0).st = .active ∧
    (series 63 []).tb.exStart.toNat + 1000 * 63 ≤ 128000 ∧ (series 63 []).tb.exStart.toNat + 128000 ≤ (series 63 []).tb.now.toNat := by decide +kernel

/-- 64 exchanges of which only the last is open. -/
def exchanges : List Exch := (List.range 64).map fun i => { Exch.init with seq := i, done := i != 63 }

theorem witness_response_last : (series 64 exchanges).tb.exch.length = 64 ∧ ({ Exch.init with seq := 63 } : Exch) ∈ exchanges ∧
    (∀ y ∈ exchanges, y.done = false → y = { Exch.init with seq := 63 }) ∧ (exchanges.map (·.seq)).Nodup := by decide +kernel

def locked (h : Bool) : State := { up with tb := { TimeBase.init with running := true, sync := true, lock := !h, hold := h } }

theorem witness_lock : ({ up with tb := { TimeBase.init with running := true } } : State).isChild = false ∧ (series 0 []).tb.lock = false ∧
    (series 0 []).tb.roleSet = true ∧ (series 0 []).tb.role = true ∧ (locked false).tb.sync = true ∧ (locked false).tb.hold = false ∧
    (locked false).isChild = false ∧ (locked true).tb.hold = true := by decide +kernel

/-- Islands: a stopped island, a gated one with a tile dispatched, and one that has been idle for the gating time. -/
def idleIsland : State :=
  { up with tb := { TimeBase.init with now := 100000 }, pw := { Power.init with gateEn := true } }

theorem witness_island_idle : idleIsland.pw.on = true ∧ (idleIsland.clu 16383).runs = true ∧ idleIsland.pw.gateEn = true ∧
    (idleIsland.clu 16383).idleSince.toNat + 1000 * idleIsland.pw.gateIdle.toNat ≤ idleIsland.tb.now.toNat ∧
    (∀ i, i < 64 → (idleIsland.core (BitVec.ofNat 20 (64 * 16383 + i))).launch = none ∧ (idleIsland.core (BitVec.ofNat 20 (64 * 16383 + i))).sb = [] ∧
      (idleIsland.core (BitVec.ofNat 20 (64 * 16383 + i))).l1 = .empty) ∧
    (idleIsland.clu 16383).l2.entries = [] ∧ (idleIsland.clu 16383).wbuf = [] ∧ (idleIsland.clu 16383).miss.entries = [] ∧
    (idleIsland.clu 16383).stq = [] ∧ (idleIsland.clu 16383).held = [] := by decide +kernel

def gatedIsland : State := { at_ 0 (coreOf gr0) with clus := Tab.empty.put 0 { Cluster.init with gated := true, stopped := true, tjHot := true, tj := 120 } }

theorem witness_island_wakes : (gatedIsland.clu 0).gated = true ∧ (gatedIsland.clu 0).stopped = true ∧ (up.clu 0).stopped = false ∧
    up.pw.gateEn = false ∧ (up.clu 0).gated = false ∧ (gatedIsland.core (BitVec.ofNat 20 (64 * 0 + 0))).launch.isSome = true := by decide +kernel

/-- PowerAndCooling: power on, lost, and a second sample at 120 C. -/
theorem witness_power : up.pw.on = true ∧ up.pw.aon = true ∧ ({ up with pw := { Power.init with aon := false } } : State).pw.aon = false ∧
    (gatedIsland.clu 0).tjHot = true ∧ 120 ≤ (gatedIsland.clu 0).tj.toNat ∧ (up.clu 0).tj.toNat < 120 := by decide +kernel

/-! ### Witnesses: observation and the host port -/

/-- Observation: an open debug page, events at the ends of the two ranges, an action that an island has still to apply, and a FIFO entry. -/
def trigger (at' : BitVec 64) (armed : Bool) : State :=
  { up with
    dg := { Debug.init with trigAt := at', armAt := at', armed := armed, acts := if armed then [(at', 2)] else [], trHi := some 0 },
    tb := { TimeBase.init with running := true }, clus := Tab.empty.put 0 .init }

theorem witness_trigger_arms : (trigger 2048 false).dgOpen = true ∧ (trigger 2048 false).tb.now.toNat + 2048 ≤ (trigger 2048 false).dg.trigAt.toNat ∧
    (trigger 2047 false).dg.trigAt.toNat < (trigger 2047 false).tb.now.toNat + 2048 ∧ (trigger 2048 false).dg.armed = false ∧
    bitAt (0x82000000 : Word) 31 = true ∧ (bits (0x82000000 : Word) 24 2 : BitVec 2) ≠ 3 ∧ (bits (0x83000000 : Word) 24 2 : BitVec 2) = 3 := by
  decide +kernel

theorem witness_trigger : CodeOnly (trigger 2048 true) ∧ (trigger 2048 true).pw.on = true ∧ (trigger 2048 true).clus.get? 0 = some .init ∧
    Cluster.init.gated = false ∧ Cluster.init.stopped = false ∧ (trigger 2048 true).dg.acts.drop Cluster.init.trigSeen = [(2048, 2)] ∧
    ((trigger 0 true).clu 0).runs = true ∧ (trigger 0 true).dg.acts[(trigger 0 true).dg.trigMark]? = some (0, 2) ∧
    ((trigger 0 true).island 0).trigSeen = (trigger 0 true).dg.trigMark + 1 ∧ (trigger 0 true).dg.tr.length < 4096 :=
  ⟨⟨rfl, by decide +kernel, rfl, by decide +kernel⟩, by decide +kernel⟩

/-- An island that has stopped runs no trigger action. -/
theorem witness_trigger_stopped : ((gatedIsland).clu 0).runs = false := by decide +kernel

theorem witness_events : ∀ e ∈ [0x0E, 0x10, 0x1B], e ≤ 0x0E ∨ 0x10 ≤ e ∧ e ≤ 0x1B := by decide

theorem witness_events_undefined : ∀ e ∈ [0x0F, 0x1C], ¬(e ≤ 0x0E ∨ 0x10 ≤ e ∧ e ≤ 0x1B) := by decide

def fifoState : State :=
  { at_ 0 (coreOf gr0) with dg := { Debug.init with
      pcsEn := true, pcsAll := true, pcs := [{ FifoEnt.init with words := [1, 2, 3, 4] }], tr := [{ FifoEnt.init with words := [1, 2, 3, 4, 5, 6, 7, 8] }],
      trHi := some 0, waiting := [{ TwRec.init with desc := 7 }] } }

theorem witness_fifos : fifoState.dgOpen = true ∧ fifoState.dg.pcs.length = 1 ∧ fifoState.dg.tr.length = 1 ∧ up.dg.pcs = [] ∧ up.dg.tr = [] ∧
    fifoState.dg.selects 0 = true ∧ (fifoState.clu 0).runs = true ∧ (fifoState.core 0).started = true ∧ (fifoState.core 0).groups.get? 0 = some gr0 ∧
    gr0.fin = false ∧ (fifoState.dg.waiting.find? fun y => y.desc == 7 && y.rowg == 0) = some { TwRec.init with desc := 7 } ∧
    fifoState.dg.trHi = some ({ TwRec.init with desc := 7 } : TwRec).hi := by decide +kernel

/-- The sample's FIFO has room and took no entry at this time. -/
theorem witness_fifo_room : fifoState.dg.pcs.length < 16383 ∧ fifoState.dg.pcsAt ≠ some fifoState.tb.now ∧ fifoState.dg.tr.length < 4095 ∧
    gr0.stall = 0 := by decide +kernel

theorem witness_fifo_core : ∀ j, j < 64 → ((fifoState.core (BitVec.ofNat 20 (64 * (0 : Clu).toNat + j))).launch.isSome = true ↔ j = 0) := by decide +kernel

theorem witness_fifo_group : ∀ m, m < 16 → ∀ h, (fifoState.core 0).groups.get? m = some h → h.fin = false → m = 0 := by
  intro m hm h hh _
  have : ∀ m, m < 16 → (fifoState.core 0).groups.has m = true → m = 0 := by decide +kernel
  have k : ∀ m, m < 16 → m ≠ 0 → (fifoState.core 0).groups.get? m = none := by decide +kernel
  by_cases h0 : m = 0
  · exact h0
  · rw [k m hm h0] at hh
    cases hh

/-- HostPort: the closed window, an open request that ends at the channel's last byte, and one beyond the capacity. -/
theorem witness_host : up.portOpen = true ∧ up.bar4Open = true ∧ 0x1FFFFFFFF + 1 ≤ 2 ^ up.host.barLog ∧
    up.openRange (up.fe.hwin.toNat + 0x1FFFFFFFF) 1 = true ∧ up.rangeRests (up.fe.hwin.toNat + 0x1FFFFFFFF) 1 = true ∧
    (up.dirOf (0x1FFFFFFFF / 128)).dst = .unc ∧ (up.dirOf (0x1FFFFFFFF / 128)).bad = false ∧ (up.chanOf (0x1FFFFFFFF / 128)).stopped = false ∧
    up.openRange (up.fe.hwin.toNat + 0x200000000) 1 = false ∧ up.host.waiting = [] ∧ up.holders (0x1FFFFFFFF / 128) = [] ∧
    (up.homeOfLine (0x1FFFFFFFF / 128)).waitingWrites (0x1FFFFFFFF / 128) = [] ∧ (up.homeOfLine (0x1FFFFFFFF / 128)).reps = [] ∧
    (up.fe.hwin.toNat + 0x1FFFFFFFF) % 128 + 1 ≤ 128 := by decide +kernel

/-- HostPort: a write to a line that has an open transaction waits. -/
theorem witness_host_waits : (busy []).portOpen = true ∧ (busy []).bar4Open = true ∧ (busy []).host.waiting = [] ∧
    (busy []).openRange ((busy []).fe.hwin.toNat + 0x1FFFFFFFF) 1 = true ∧ (busy []).rangeRests ((busy []).fe.hwin.toNat + 0x1FFFFFFFF) 1 = false := by
  decide +kernel

theorem witness_host_closed : let s : State := { up with west := { bootedNt with stage := 6 }, east := { bootedNt with stage := 6 } }
    s.portOpen = true ∧ s.bar4Open = false := by decide +kernel

theorem witness_host_window : up.bar2Open = true ∧ (2 ^ 30 * fieldN (0xFF000000000 : BitVec 64) 30 14) % 2 ^ up.host.barLog = 0 ∧
    2 ^ 30 * fieldN (0xFF000000000 : BitVec 64) 30 14 + 2 ^ up.host.barLog ≤ 2 ^ 44 ∧
    (2 ^ 30 * fieldN (0x40000000 : BitVec 64) 30 14) % 2 ^ up.host.barLog ≠ 0 ∧ up.primary.stage ≠ 1 ∧ up.primary.stage ≠ 2 ∧
    up.host.answers = true ∧ up.eng.mst = 0 ∧
    ({ up with west := { bootedNt with stage := 1 }, east := { bootedNt with stage := 1 } } : State).primary.stage = 1 ∧
    ({ up with host := HostIf.init } : State).host.answers = false := by decide +kernel

/-- ConfigurationSpace: a port in D3hot. -/
theorem witness_config : ({ up with host := { up.host with d3hot := true } } : State).host.d3hot = true ∧ (0x010 : BitVec 12).toNat / 4 * 4 = 0x10 + 4 * 0 := by
  decide +kernel

/-! ### Witnesses: queues and packets -/

/-- A packet of words that stands at one stage of its life. -/
def pktOf (st : PktSt) (ws : List Word) : Pkt := { Pkt.init with words := ws, st := st, serial := 1 }

/-- Kernel queue 0, ACTIVE in space 0, with the packets. -/
def kq (ps : List Pkt) : Queue := { Queue.init with st := .active, ver := 1, rlog := 6, rbase := 0x10000, rply := 0x20000, pkts := ps }

/-- The module with one queue. -/
def withQ (k : Nat) (x : Queue) : State := { up with queues := Tab.empty.put k x }

/-- An accepted packet of kernel queue 0. -/
def accepted (ws : List Word) : State := withQ 0x4000 (kq [pktOf .accepted ws])

/-- Word 0 of a packet of version 1. -/
def w0 (op : Nat) : Word := BitVec.ofNat 32 (0x04000100 + op)

theorem frontEnd {s : State} (h : s.inHold = false) (p : s.pw.on = true) (r : s.fe.rstBusy = false) : FrontEnd s := ⟨h, p, r⟩

theorem frontEndQ (k : Nat) (x : Queue) : FrontEnd (withQ k x) := frontEnd rfl rfl rfl

/-- The read succeeds, with every word clean. -/
def readsClean : Acc Bytes → Bool
  | .ok b _ => !b.anyPois
  | _ => false

theorem clean_read {a : Acc Bytes} (h : readsClean a = true) : ∃ b u, a = .ok b u ∧ b.anyPois = false := by
  cases a with
  | ok b u => exact ⟨b, u, rfl, by simpa [readsClean] using h⟩
  | wait => cases h
  | fail c => cases h

def okAcc {α : Type} : Acc α → Bool
  | .ok _ _ => true
  | _ => false

theorem ok_acc {α : Type} {a : Acc α} (h : okAcc a = true) : ∃ b u, a = .ok b u := by
  cases a with
  | ok b u => exact ⟨b, u, rfl⟩
  | wait => cases h
  | fail c => cases h

def failsWith {α : Type} (c : Code) : Acc α → Bool
  | .fail d _ => d == c
  | _ => false

theorem fails_with {α : Type} {a : Acc α} {c : Code} (h : failsWith c a = true) : ∃ t, a = .fail c t := by
  cases a with
  | ok b u => cases h
  | wait => cases h
  | fail d t => exact ⟨t, by rw [show d = c from by simpa [failsWith] using h]⟩

/-- FailedRingFetch, and a fetch that succeeds: a ring whose slot lies beyond the capacity, and one whose slot lies in it. -/
def badRing : State := withQ 0x4000 { kq [] with rbase := 2 ^ 40, wptr := 1 }

def goodRing : State := withQ 0x4000 { kq [] with wptr := 1 }

theorem witness_ring : badRing.nextQueue = some 0x4000 ∧ (∃ t, badRing.vread 0 (2 ^ 40) 64 = .fail 0x0302 t) ∧ goodRing.nextQueue = some 0x4000 ∧
    ∃ b u, goodRing.vread 0 0x10000 64 = .ok b u ∧ b.anyPois = false :=
  ⟨by decide +kernel, fails_with (by decide +kernel), by decide +kernel, clean_read (by decide +kernel)⟩

/-- Doorbells: the two sides of the ring's size, a queue that is not ACTIVE, the two sides of an idle queue, and a kernel queue with work. -/
theorem witness_doorbells : goodRing.inHold = false ∧ goodRing.host.waiting = [] ∧ up.host.waiting = [] ∧ (goodRing.queue 0x4000).st = .active ∧
    ((64 : Word) - (goodRing.queue 0x4000).rptr).toNat ≤ 2 ^ (goodRing.queue 0x4000).rlog ∧
    2 ^ (goodRing.queue 0x4000).rlog < ((65 : Word) - (goodRing.queue 0x4000).rptr).toNat ∧ (up.queue 0).st ≠ .active ∧
    ((withQ 0x4000 { kq [] with latch := true }).queue 0x4000).latch = true ∧ (goodRing.queue 0x4000).rptr ≠ (goodRing.queue 0x4000).wptr ∧
    0x4000 ∈ goodRing.queues.keys ∧ ∀ e ∈ goodRing.queues.entries, e.1 = 0x4000 → e.2.fetches = true := by decide +kernel

/-- Doorbells: one that comes while a write of the host waits for its line. -/
theorem witness_doorbell_waits : (HostReq.write 0x1FFFFFFFF [1] false).run { busy [] with host := { (busy []).host with waiting := [.write 0x1FFFFFFFF [1] false] } } = none := by
  decide +kernel

/-- PacketChecks: a fetched packet that comes to each row of R310. -/
def fetched (k : Nat) (x : Queue) (p : Pkt) : State := withQ k { x with pkts := [p] }

def checks (k : Nat) (p : Pkt) : Bool :=
  let s := fetched k (kq []) p
  let q : QId := BitVec.ofNat 16 k
  ((s.queue q).pkts.find? fun y => y.st == .fetched && (s.queue q).runs y && !s.heldPkt y) == some p

theorem witness_checks :
    (∀ e ∈ [(0x4000, pktOf .fetched [w0 6]), (0x4000, { pktOf .fetched [w0 6] with pois := true }), (0x4000, pktOf .fetched [w0 6 + 256]),
        (0x4000, pktOf .fetched [w0 0]), (0, pktOf .fetched [w0 3]), (0, pktOf .fetched [w0 0x24]), (0x4000, pktOf .fetched [w0 6, 1]),
        (0x4000, pktOf .fetched [w0 6 + 0x1000000])], checks e.1 e.2 = true) ∧
    bits ((pktOf .fetched [w0 6 + 256]).w 0) 8 4 ≠ (kq []).ver ∧ (pktOf .fetched [w0 0]).opcode = 0 ∧ isKernelQ 0 = false ∧
    (pktOf .fetched [w0 3]).opcode = 3 ∧ (pktOf .fetched [w0 0x24]).opcode = 0x24 ∧ (pktOf .fetched [w0 6, 1]).w 1 ≠ 0 ∧
    (pktOf .fetched [w0 6 + 0x1000000]).f 0 24 8 ≠ 4 ∧ (pktOf .fetched [w0 6]).f 0 24 8 = 4 ∧ (pktOf .fetched [w0 6]).f 0 14 2 = 0 ∧
    (pktOf .fetched [w0 6]).f 0 16 8 = 0 ∧ (∀ i, 3 ≤ i → i < 16 → (pktOf .fetched [w0 6]).w i = 0) := by decide +kernel

theorem witness_check_passes : ∃ u, (fetched 0x4000 (kq []) (pktOf .fetched [w0 6])).checkPkt 0x4000 (pktOf .fetched [w0 6]) = .ok 0 u :=
  ⟨_, rfl⟩

/-- Replies: a finished packet at the head, quiet and not, current and of an old epoch; an empty FIFO and one with an entry. -/
def answered (quiet : Bool) (ep : BitVec 8) : Pkt :=
  { pktOf .done [if quiet then w0 6 + 0x2000 else w0 6] with ep := ep }

def answeredState (quiet : Bool) (ep : BitVec 8) : State := withQ 0x4000 (kq [answered quiet ep])

theorem witness_replies : ∀ e ∈ [(false, (0 : BitVec 8)), (true, 0), (false, 1), (true, 1)],
    (answeredState e.1 e.2).inHold = false ∧ (answeredState e.1 e.2).fe.rstBusy = false ∧
    (((answeredState e.1 e.2).queue 0x4000).pkts.find? fun y => y.st == .done && (((answeredState e.1 e.2).queue 0x4000).before y).isEmpty) =
      some (answered e.1 e.2) ∧ ((answeredState e.1 e.2).queue 0x4000).ep = 0 ∧
    (answered e.1 e.2).quiet = e.1 ∧ (answered e.1 e.2).code = 0 ∧ (answered e.1 e.2).stat = 0 ∧
    ((answeredState e.1 e.2).queue 0x4000).asid = 0 ∧ ((answeredState e.1 e.2).queue 0x4000).fcount < 256 := by decide +kernel

/-- Replies: a full FIFO without and with a gap marker at its end, no packet that has ended, and a read while a device reset runs, in HOLD and
before the module is ready. -/
def fullFifo (top : Bool) : State := withQ 0x4000 { kq [answered false 0] with fcount := 256, gapTop := top, head := some ⟨[1, 2, 3, 4], 0⟩ }

theorem witness_replies_full : (∀ b ∈ [true, false], (((fullFifo b).queue 0x4000).pkts.find? fun y => y.st == .done &&
      (((fullFifo b).queue 0x4000).before y).isEmpty) = some (answered false 0) ∧ 256 ≤ ((fullFifo b).queue 0x4000).fcount ∧
      ((fullFifo b).queue 0x4000).gapTop = b ∧ ((fullFifo b).queue 0x4000).asid = 0) ∧
    (((kq []).pkts.find? fun y => y.st == .done && ((kq []).before y).isEmpty) = none) ∧ (fullFifo true).host.waiting = [] ∧ (fullFifo true).ready = true ∧
    0 < ((fullFifo true).queue 0x4000).fcount ∧ ((fullFifo true).queue 0x4000).head = some ⟨[1, 2, 3, 4], 0⟩ ∧
    ((answeredState true 0).queue 0x4000).fcount = 0 ∧ (answeredState true 0).ready = true ∧ isUserQ 0 = true ∧ State.reset.ready = false ∧
    ({ up with fe := { up.fe with rstBusy := true } } : State).ready = true ∧ ({ up with fe := { up.fe with rstBusy := true } } : State).inHold = false := by
  decide +kernel

/-- Replies: an entry that is not on the chip. -/
theorem witness_reply_fetch : ((withQ 0x4000 { kq [] with fcount := 1 }).queue 0x4000).head = none ∧
    PlainBytes (withQ 0x4000 { kq [] with fcount := 1 }) 0x20000 16 ∧ ((withQ 0x4000 { kq [] with fcount := 1 }).view (0x20000 / 128)).pois = 0 := by
  refine ⟨by decide +kernel, ?_, by decide +kernel⟩
  constructor <;> decide +kernel

theorem witness_reply_bytes : PlainBytes (answeredState false 0) 0x20000 16 ∧ PlainBytes (fullFifo false) 0x20FF0 16 := by
  constructor <;> constructor <;> decide +kernel

/-- KernelQueues: a page that is set up, at each answer of EN, and one that is freed. -/
def kCfg (base : BitVec 48) (en : Bool) : State := withQ 0x4007 { Queue.init with kbase := base, krply := 0x20000, ken := en }

theorem witness_kernel_queue : isKernelQ 0x4007 = true ∧ isKernelQ 0x4008 = false ∧ (kCfg 0 false).ready = true ∧ (kCfg 0 false).inHold = false ∧
    ((kCfg 0 false).queue 0x4007).ken = false ∧ ((kCfg 0 false).queue 0x4007).st = .free ∧ State.reset.ready = false ∧ State.reset.inHold = false ∧
    (State.reset.queue 0x4007).ken = false ∧ (State.reset.queue 0x4007).st = .free ∧ bitAt (0x01060000 : Word) 31 = false ∧ ((kCfg 0 true).queue 0x4007).ken = true ∧ bitAt (0x81060000 : Word) 31 = true ∧
    fieldN (0x81060000 : Word) 16 5 = 6 ∧ fieldN (0x81100000 : Word) 16 5 = 16 ∧ fieldN (0x81050000 : Word) 16 5 = 5 ∧
    bits (0x81060000 : Word) 24 4 = (1 : BitVec 4) ∧ bits (0x82060000 : Word) 24 4 ≠ (1 : BitVec 4) ∧
    (kCfg 0 false).openRange 0 (64 * 2 ^ 6) = true ∧ (kCfg 0 false).openRange 0x20000 4096 = true ∧
    (kCfg (2 ^ 40) false).openRange (2 ^ 40) (64 * 2 ^ 6) = false ∧ ((kCfg (2 ^ 40) false).queue 0x4007).kbase.toNat % 4096 = 0 := by decide +kernel

/-- QueuePackets: each check of QUEUE_CREATE, a destroyed user queue, a kernel queue that is named, and a name of an old epoch. -/
def create (ver asid : Nat) : List Word := [w0 0x10, BitVec.ofNat 32 (2 ^ 28 * ver + 2 ^ 16 * 6 + asid), 0, 0, 0x10000, 0, 0x20000, 0]

def named (op ep id : Nat) : State :=
  let s := accepted [w0 op, 0, 0, 0, BitVec.ofNat 32 (2 ^ 16 * ep + id)]
  s.setQueue 0 { kq [] with rbase := 0x30000 }

theorem witness_create : (∀ e ∈ [(1, 0), (2, 0), (1, 9)], (accepted (create e.1 e.2)).starting 0x4000 0x10 = some (pktOf .accepted (create e.1 e.2))) ∧
    (pktOf .accepted (create 1 0)).f 1 28 4 = 1 ∧ (pktOf .accepted (create 2 0)).f 1 28 4 ≠ 1 ∧ up.spaces.has 0 = true ∧ up.spaces.has 9 = false ∧
    okAcc ((accepted (create 1 0)).ringOk 0 0x10000 0x20000 6) = true := by decide +kernel

theorem witness_named : ∀ op ∈ [0x11, 0x12], ∀ e ∈ [(0, 0), (1, 0), (0, 0x4000)],
    (named op e.1 e.2).starting 0x4000 op = some (pktOf .accepted [w0 op, 0, 0, 0, BitVec.ofNat 32 (2 ^ 16 * e.1 + e.2)]) ∧
    ((named op e.1 e.2).queue 0).st ≠ .free ∧ ((named op e.1 e.2).queue 0x4000).st ≠ .free ∧ ((named op e.1 e.2).queue 0).ep = 0 ∧
    (named op e.1 e.2).eng.psteps = [] := by decide +kernel

/-- SpacePackets: a space that exists, one that does not, and one with a queue; an edit list of one entry that unmaps a page. -/
def spaced (op asid : Nat) (rest : List Word) : State :=
  let s := accepted ([w0 op, BitVec.ofNat 32 asid, 0, 0] ++ rest)
  { s with spaces := (s.spaces.put 1 { Space.init with root := 0x100000 }).put 2 { Space.init with root := 0x200000 },
           queues := s.queues.put 0 { kq [] with asid := 2 } }

theorem witness_spaces : ∀ op ∈ [0x18, 0x1A, 0x1B], ∀ a ∈ [0, 1, 2, 3],
    (spaced op a []).starting 0x4000 op = some (pktOf .accepted [w0 op, BitVec.ofNat 32 a, 0, 0]) ∧ ((spaced op a []).spaces.has a = decide (a ≤ 2)) ∧
    (spaced op a []).queuesOf 1 = 0 ∧ (spaced op a []).queuesOf 2 ≠ 0 ∧ (spaced op a []).seqsOf 1 = 0 ∧ (spaced op a []).quiet 1 = true := by decide +kernel

/-- A packet under way that probes the space. -/
def spaceBusy (op : Nat) (rest : List Word) : State :=
  (spaced op 1 rest).setQueue 0x4001 (kq [pktOf .started [w0 4, 0x20000001, 0, 0, 0x1000, 0, 1, 0]])

theorem witness_space_busy : (∀ e ∈ [(0x1A, ([] : List Word)), (0x19, [0x300000, 0, 1])],
    (spaceBusy e.1 e.2).starting 0x4000 e.1 = some (pktOf .accepted ([w0 e.1, 1, 0, 0] ++ e.2)) ∧ (spaceBusy e.1 e.2).quiet 1 = false ∧
    (spaceBusy e.1 e.2).spaces.has 1 = true ∧ (spaceBusy e.1 e.2).queuesOf 1 = 0 ∧ (spaceBusy e.1 e.2).seqsOf 1 = 0) := by decide +kernel

theorem witness_edit : (spaced 0x19 1 [0x300000, 0, 1]).starting 0x4000 0x19 = some (pktOf .accepted [w0 0x19, 1, 0, 0, 0x300000, 0, 1]) ∧
    readsClean ((spaced 0x19 1 [0x300000, 0, 1]).vread 0 0x300000 16) = true ∧ (spaced 0x19 1 [0x300000, 0, 1]).quiet 1 = true ∧
    (spaced 0x19 1 [0x300000, 0, 1]).queuePages 1 = [] ∧ (spaced 0x19 1 []).quiet 1 = true := by decide +kernel


/-- The list can be applied: its entries, in order, on what the read left. -/
def editRuns : Bool :=
  match (spaced 0x19 1 [0x300000, 0, 1]).vread 0 0x300000 16 with
  | .ok b u => okAcc ((editsOf b.data 1).foldl (fun (r : Acc Unit) e => r.bind fun _ v => v.edit 0x100000 e) (.ok () u)) && u.queuePages 1 == []
  | _ => false

theorem witness_edit_runs : editRuns = true := by decide +kernel

/-- QueuePackets: every user queue id in use. -/
def fullQueues : State :=
  { up with queues := ⟨(List.range 0x4000).map (fun i => (i, kq [])) ++ [(0x4000, kq [pktOf .accepted (create 1 0)])]⟩ }

theorem look_fill {α : Type} (x d : α) (k : Nat) : ∀ (n : Nat) (rest : List (Nat × α)),
    lookL ((List.range n).map (fun i => (i, x)) ++ rest) k d = if k < n then x else lookL rest k d := by
  intro n
  induction n with
  | zero => intro rest; rfl
  | succ n ih =>
    intro rest
    rw [List.range_succ, List.map_append, List.append_assoc, ih]
    simp only [List.map_cons, List.map_nil, List.cons_append, List.nil_append, lookL]
    split <;> split <;> try split
    all_goals first | rfl | omega

theorem full_queue (k : QId) : fullQueues.queue k = if k.toNat < 0x4000 then kq [] else lookL [(0x4000, kq [pktOf .accepted (create 1 0)])] k.toNat .init :=
  look_fill _ _ _ _ _

theorem starts {s : State} {q : QId} {op : Nat} {p : Pkt} {x : Queue} (g : (s.inHold || !s.pw.on || s.fe.rstBusy) = false) (h : s.queue q = x)
    (f : x.pkts = [p]) (a : p.st = .accepted) (o : p.opcode = op) (r : x.runs p = true) (m : x.mayStart p = true)
    (k : s.heldPkt p = false) (c : s.coldTurn p = true) : s.starting q op = some p := by
  unfold State.starting
  simp [h, g, f, a, o, r, m, k, c]

theorem witness_full : fullQueues.starting 0x4000 0x10 = some (pktOf .accepted (create 1 0)) ∧ ∀ j, j < 0x4000 → (fullQueues.queue (BitVec.ofNat 16 j)).st ≠ .free := by
  constructor
  · have c : fullQueues.coldTurn (pktOf .accepted (create 1 0)) = true := by
      unfold State.coldTurn fullQueues Tab.vals
      rw [List.map_append, List.all_append, List.map_map, List.all_map, Bool.and_eq_true]
      exact ⟨List.all_eq_true.2 fun _ _ => rfl, by decide +kernel⟩
    have h : fullQueues.queue 0x4000 = kq [pktOf .accepted (create 1 0)] := full_queue _
    have k : fullQueues.heldPkt (pktOf .accepted (create 1 0)) = false := rfl
    have g : (fullQueues.inHold || !fullQueues.pw.on || fullQueues.fe.rstBusy) = false := rfl
    exact starts g h rfl rfl rfl rfl rfl k c
  · intro j hj
    rw [full_queue, if_pos (by rw [BitVec.toNat_ofNat, Nat.mod_eq_of_lt (by omega)]; exact hj)]
    decide

/-! ### Witnesses: work, fences, programs, descriptors and windows -/

/-- Memory that holds words from an offset upward. -/
def memAt (a : Nat) (ws : List Word) : Memory := (Memory.mk []).writeBytes a ((ws.map (toBytes 4)).flatten)

/-- SpacePackets: space 2, whose queue's pages are mapped by a 2 MiB leaf at VA 0, and an edit of it: one with a reserved bit set, one that
unmaps the leaf. -/
def editState (w : Word) : State :=
  { spaced 0x19 2 [0x300000, 0, 1] with
    mem := (((memAt 0x200000 [0x210001]).writeBytes 0x210000 (toBytes 4 (0x220001 : Word))).writeBytes 0x220000 (toBytes 4 (7 : Word))).writeBytes
      0x300000 (toBytes 4 w) }

def editEnds (w : Word) (p : State → Acc Unit → Bool) : Bool :=
  match (editState w).vread 0 0x300000 16 with
  | .ok b u => !b.anyPois && p u ((editsOf b.data 1).foldl (fun (r : Acc Unit) e => r.bind fun _ v => v.edit 0x200000 e) (.ok () u))
  | _ => false

theorem witness_edit_fails : (editState 4).starting 0x4000 0x19 = some (pktOf .accepted [w0 0x19, 2, 0, 0, 0x300000, 0, 1]) ∧
    editEnds 4 (fun _ r => failsWith 0x0104 r) = true ∧
    editEnds 2 (fun u r => match r with
      | .ok () v => ((u.queuePages 2).any fun z => decide (u.walked 0x200000 z ≠ v.walked 0x200000 z)) &&
          !u.walksWait 0x200000 (u.queuePages 2) && !v.walksWait 0x200000 (u.queuePages 2)
      | _ => false) = true := by decide +kernel

/-- An edit list of no entry while a write of the root table's line waits at its home. -/
def editWaiting : State :=
  let s := { spaced 0x19 2 [0x300000, 0, 0] with mem := memAt 0x200000 [0x210001], tb := { TimeBase.init with now := 5 } }
  s.onHome (0x200000 / 128) fun h => { h with wq := [{ StackReq.init with line := 0x200000 / 128 }] }

theorem witness_edit_waits : editWaiting.starting 0x4000 0x19 = some (pktOf .accepted [w0 0x19, 2, 0, 0, 0x300000, 0, 0]) ∧
    (match editWaiting.vread 0 0x300000 0 with
      | .ok b u => !b.anyPois && u.walksWait 0x200000 (u.queuePages 2)
      | _ => false) = true := by decide +kernel

/-- The engine of a READY model of one shard. -/
def readyEng : Engine := { Engine.init with mst := 2, vocab := 100, prog := some ⟨[], 1, 1, 1, 0, 0⟩ }

/-- An accepted packet on a module with an engine. -/
def withEng (e : Engine) (ws : List Word) : State := { accepted ws with eng := e }

theorem starts_all {l : List (State × Nat × List Word)}
    (h : (l.all fun e => decide (e.1.starting 0x4000 e.2.1 = some (pktOf .accepted e.2.2))) = true) :
    ∀ e ∈ l, e.1.starting 0x4000 e.2.1 = some (pktOf .accepted e.2.2) :=
  fun e he => of_decide_eq_true (List.all_eq_true.mp h e he)

/-- WorkPackets: a NOP; a STEP of each kind under each state of the model; a COPY of no byte, of a whole line and a FILL; a LAUNCH. -/
def nextW : List Word := [w0 1, 0, 0, 0x01000005, 0x1000, 0]

def joinW : List Word := [w0 1, 0x40000000, 0, 0, 0x1000, 0, 0x2000, 0, 2, 7]

def copyW (n mode : Nat) : List Word := [w0 2, BitVec.ofNat 32 (2 ^ 30 * mode), 0, BitVec.ofNat 32 n, 0x1000, 0, 0x2000, 0, 0xAABBCCDD]

/-- One group of one thread, 8 registers, on core 0. -/
def launchW (placed : Bool) : List Word :=
  [w0 3, BitVec.ofNat 32 (if placed then 0x82080000 else 0x02080000), 0, if placed then 0 else 1, 0x8020, 0, 0x9000, 0, 0, if placed then 0 else 1, 0x00010000, 1]

def seqEng : Engine := { readyEng with seqs := Tab.empty.put 0 { Seq.init with id := 5, ep := 1 } }

theorem witness_work : ∀ e ∈ [(accepted [w0 6], 6, [w0 6]), (withEng { readyEng with mst := 3 } nextW, 1, nextW), (withEng readyEng nextW, 1, nextW),
    (withEng { readyEng with prog := none } nextW, 1, nextW), (withEng seqEng nextW, 1, nextW), (accepted nextW, 1, nextW), (withEng readyEng joinW, 1, joinW),
    (accepted (copyW 0 0), 2, copyW 0 0), (accepted (copyW 128 0), 2, copyW 128 0), (accepted (copyW 128 1), 2, copyW 128 1),
    (accepted (launchW true), 3, launchW true), (accepted (launchW false), 3, launchW false)],
    e.1.starting 0x4000 e.2.1 = some (pktOf .accepted e.2.2) := starts_all (by decide +kernel)

theorem witness_work_step : (withEng { readyEng with mst := 3 } nextW).modelState = 3 ∧ (withEng readyEng nextW).modelState = 2 ∧ (accepted nextW).modelState = 0 ∧
    (withEng readyEng nextW).eng.findSeq 0 5 1 = none ∧ (withEng seqEng nextW).eng.findSeq 0 5 1 ≠ none ∧
    bits ((pktOf .accepted nextW).w 3) 0 24 = (5 : BitVec 24) ∧ bits ((pktOf .accepted nextW).w 3) 24 8 = (1 : BitVec 8) ∧
    (pktOf .accepted nextW).f 1 30 2 ≠ 1 ∧ (pktOf .accepted joinW).f 1 30 2 = 1 ∧ ((pktOf .accepted joinW).w 8).toNat = 2 := by decide +kernel

/-- The prompt reads clean and within the vocabulary. -/
def promptReads : Bool :=
  match (withEng readyEng joinW).vread 0 0x2000 8 with
  | .ok b u => !b.anyPois && (wordsOf b.data 2).all fun w => decide (fieldN w 0 24 < u.eng.vocab)
  | _ => false

theorem witness_work_prompt : promptReads = true := by decide +kernel

theorem witness_work_copy : PlainBytes (accepted (copyW 128 0)) 0x1000 128 ∧ PlainBytes (accepted (copyW 128 0)) 0x2000 128 ∧
    ((accepted (copyW 128 0)).view (0x1000 / 128)).pois = 0 ∧ ((accepted (copyW 128 0)).homeOfLine (0x2000 / 128)).rq = [] ∧
    ((accepted (copyW 128 0)).homeOfLine (0x2000 / 128)).gq = [] := by
  refine ⟨?_, ?_, ?_⟩
  · constructor <;> decide +kernel
  · constructor <;> decide +kernel
  · decide +kernel

def sexitWord : BitVec 64 := encS 6 0x0F ⟨0, 0, 0, 0, 0, 0⟩

/-- A code image of one SEXIT at 0x8020, and the same header with another version. -/
def imaged (version : Word) : State :=
  { accepted (launchW false) with mem := memAt 0x8000 [0x54495331, version + 0x10000, 0, 0, 0, 0, 0, 0, sexitWord.setWidth 32, (sexitWord >>> 32).setWidth 32] }

def imageReads : Bool :=
  match (imaged 1).checkImage 0x8020 8 with
  | .ok image u => image == [sexitWord] && u.imageFits { (pktOf .accepted (launchW false)).launch 0x4000 with image := image } none &&
      readsClean ((u.fillCaches { (pktOf .accepted (launchW false)).launch 0x4000 with image := image }).vread 0 0x9000 64)
  | _ => false

def imageBad : Bool :=
  match (imaged 2).checkImage 0x8020 8 with
  | .bad r pc => r == 2 && pc == 0x8000
  | _ => false

theorem witness_work_launch : (imaged 1).starting 0x4000 3 = some (pktOf .accepted (launchW false)) ∧
    (imaged 2).starting 0x4000 3 = some (pktOf .accepted (launchW false)) ∧ imageReads = true ∧ imageBad = true ∧ (imaged 2).fe.lchkV = false ∧
    ((pktOf .accepted (launchW false)).launch 0x4000).placed = false ∧ ((pktOf .accepted (launchW true)).launch 0x4000).placed = true ∧
    (accepted (launchW true)).modelReady = false := by decide +kernel

/-- The image finds no room beside those of other launches. -/
def crowded : State :=
  { imaged 1 with launches := Tab.empty.put 1 { launchOf 0 with image := List.replicate 4096 0 }, launchSerial := 2,
                  cores := Tab.empty.put 0 { coreOf gr0 with launch := some 1 } }

def imageWaits : Bool :=
  match crowded.checkImage 0x8020 8 with
  | .ok image u => !u.imageFits { (pktOf .accepted (launchW false)).launch 0x4000 with image := image } none
  | _ => false

theorem witness_work_waits : imageWaits = true ∧ crowded.starting 0x4000 3 = some (pktOf .accepted (launchW false)) := by decide +kernel

/-- FencePackets: a WAIT that its fence meets, one that waits, the two sides of its limit, and a SIGNAL. -/
def fenceW (op cond value : Nat) : List Word := [w0 op, BitVec.ofNat 32 (2 ^ 30 * cond), 0, 0, 0x1000, 0, BitVec.ofNat 32 value, 0]

theorem witness_fences : (∀ e ∈ [(accepted (fenceW 4 0 0), 4, fenceW 4 0 0), (accepted (fenceW 4 0 1), 4, fenceW 4 0 1), (accepted (fenceW 5 1 3), 5, fenceW 5 1 3)],
      e.1.starting 0x4000 e.2.1 = some (pktOf .accepted e.2.2)) := starts_all (by decide +kernel)

theorem witness_fence_reads : readsClean ((accepted (fenceW 4 0 0)).vread 0 0x1000 8) = true ∧ PlainBytes (accepted (fenceW 5 1 3)) 0x1000 8 ∧
    ((accepted (fenceW 5 1 3)).view (0x1000 / 128)).pois = 0 ∧ (pktOf .accepted (fenceW 5 1 3)).fenceSpace = 0 := by
  refine ⟨by decide +kernel, ?_, by decide +kernel, by decide +kernel⟩
  constructor <;> decide +kernel

theorem no_waiting (k : QId) : ((accepted (fenceW 5 1 3)).queue k).waits = [] := by
  show (lookL [(0x4000, kq [pktOf .accepted (fenceW 5 1 3)])] k.toNat .init).waits = []
  unfold lookL
  split <;> rfl

/-- The WAIT's limit expires, of the queue as it is and of its epoch before; and two WAITs of one queue. -/
def waitPkt (ep : BitVec 8) : Pkt := { pktOf .started (fenceW 4 0 1) with wlim := 10, ep := ep }

def waitEp (ep : BitVec 8) (now : Nat) : State :=
  { withQ 0x4000 (kq [waitPkt ep]) with tb := { TimeBase.init with now := BitVec.ofNat 64 now } }

theorem witness_wait : (∀ e ∈ [(0, 10000), (0, 9999), (1, 10000)], ((waitEp (BitVec.ofNat 8 e.1) e.2).queue 0x4000).waits = [waitPkt (BitVec.ofNat 8 e.1)] ∧
    (waitEp (BitVec.ofNat 8 e.1) e.2).inHold = false ∧ (waitEp (BitVec.ofNat 8 e.1) e.2).fe.rstBusy = false ∧
    (((waitEp (BitVec.ofNat 8 e.1) e.2).queue 0x4000).waits.find? fun y =>
      decide (y.start.toNat + 1000 * y.wlim.toNat ≤ (waitEp (BitVec.ofNat 8 e.1) e.2).tb.now.toNat)) =
        (if e.2 = 10000 then some (waitPkt (BitVec.ofNat 8 e.1)) else none) ∧
    ((waitPkt (BitVec.ofNat 8 e.1)).ep = ((waitEp (BitVec.ofNat 8 e.1) e.2).queue 0x4000).ep ↔ e.1 = 0)) := by decide +kernel

theorem witness_two_waits : ((withQ 0x4000 (kq [waitPkt 0, { waitPkt 0 with serial := 2 }])).queue 0x4000).waits =
    [waitPkt 0, { waitPkt 0 with serial := 2 }] := by decide +kernel

/-- ProgramLoads: a program of a COMMIT and an END, an empty one, and one whose first node follows itself. -/
def progState (ws : List Word) : State := { withEng readyEng [w0 0x21, 0, 0, 0, 0x8000, 0] with mem := memAt 0x8000 ws }

def progW (n : Nat) (pred : Word) : List Word :=
  [BitVec.ofNat 32 (0x10000 + n), 0x00000101] ++ List.replicate 14 0 ++ [0x70FFF000 + pred] ++ List.replicate 7 0 ++ [0xF0FFF000] ++ List.replicate 7 0

def progReads (ws : List Word) (n : Nat) (good : Bool) : Bool :=
  match (progState ws).vread 0 0x8000 64 with
  | .ok h u => !h.anyPois && fieldN (wordAt (wordsOf h.data 16) 0) 0 16 == n &&
    match u.vread 0 0x8040 (32 * n) with
    | .ok b v =>
      let nodes := (List.range n).map fun i => nodeOf (wordsOf (b.data.drop (32 * i)) 8)
      !b.anyPois && decide (v.widest 1 = 1) && decide (good = (List.range n).all fun i => v.nodeOk i (nodes.getD i .init))
    | _ => false
  | _ => false

theorem witness_programs : (∀ e ∈ [(progState (progW 2 0xFFF), 0x21, ([w0 0x21, 0, 0, 0, 0x8000, 0] : List Word)), (progState [], 0x21, [w0 0x21, 0, 0, 0, 0x8000, 0]),
      (accepted [w0 0x21], 0x21, [w0 0x21])], e.1.starting 0x4000 e.2.1 = some (pktOf .accepted e.2.2)) := starts_all (by decide +kernel)

theorem witness_program_reads : (progState (progW 2 0xFFF)).modelReady = true ∧ (accepted [w0 0x21]).modelReady = false ∧ progReads (progW 2 0xFFF) 2 true = true ∧
    progReads (progW 2 0) 2 false = true ∧ readsClean ((progState []).vread 0 0x8000 64) = true := by decide +kernel

/-- Descriptors: a LIST descriptor of one core, an id in use, one on an excluded floe, and releases of an id that is free, used and unused. -/
def descWords : List Word := [0, 0x00010020, 0, 0, 0, 0x9000, 0, 1, 0, 0, 0, 0, 0, 0, 0, 0]

def entryWords : List Word := [0xC0000000, 0, 0, 0]

def descState (ds : Tab Desc) (more : List Word) : State :=
  { accepted [w0 0x22, 7, 0, 0, 0x8000, 0] with
    descs := ds, mem := (memAt 0x8000 descWords).writeBytes 0x9000 (((entryWords ++ more).map (toBytes 4)).flatten) }

def descReads (s : State) (n : Nat) (distinct holds : Bool) : Bool :=
  match s.vread 0 0x8000 64 with
  | .ok b u =>
    let d0 : Desc := { Desc.init with words := wordsOf b.data 16, setQ := 0x4000, setSerial := 1 }
    !b.anyPois && !u.descs.has 7 && !d0.isShard &&
    match u.vread 0 0x9000 (16 * n) with
    | .ok l v =>
      match v.entriesOf l.data n with
      | some es =>
        let d : Desc := { d0 with entries := es }
        !l.anyPois && distinctL (namedCores es) == distinct && (v.otherMods d).isEmpty && !v.descExcluded d && v.compOk d && (v.setDesc 7 d).routersHold d == holds
      | none => false
    | _ => false
  | _ => false

theorem witness_desc_set : (descState .empty []).starting 0x4000 0x22 = some (pktOf .accepted [w0 0x22, 7, 0, 0, 0x8000, 0]) ∧
    ({ Desc.init with words := descWords } : Desc).fieldsOk = true ∧ ({ Desc.init with words := descWords } : Desc).nent = 1 ∧
    ({ Desc.init with words := 1 :: descWords.drop 1 } : Desc).fieldsOk = false ∧
    (descState (Tab.empty.put 7 Desc.init) []).starting 0x4000 0x22 = some (pktOf .accepted [w0 0x22, 7, 0, 0, 0x8000, 0]) := by decide +kernel

theorem witness_desc_reads : descReads (descState .empty []) 1 true true = true := by decide +kernel

theorem witness_desc_repeat : descReads (descState .empty entryWords) 2 false true = true := by decide +kernel

def released (ds : Tab Desc) : State := { accepted [w0 0x23, 7] with descs := ds }

theorem witness_release : ∀ ds ∈ [(Tab.empty : Tab Desc), Tab.empty.put 7 Desc.init, Tab.empty.put 7 { Desc.init with pend := true }],
    (released ds).starting 0x4000 0x23 = some (pktOf .accepted [w0 0x23, 7]) ∧ (released ds).progNames 7 = false ∧
    (∀ x ∈ (released ds).descs.vals, x.rootx ≠ 1 ∧ x.rounds = []) ∧ (released ds).roundOpen 7 Desc.init = false := by decide +kernel

/-- A descriptor with a round in progress: an operand held, or a contribution on its way. -/
theorem witness_release_open : (released Tab.empty).roundOpen 7 { Desc.init with rounds := [Round.init] } = true ∧
    ({ released Tab.empty with upAsm := [{ UpMsg.init with h := { UpMsg.init.h with desc := 7 } }] } : State).roundOpen 7 Desc.init = true := by
  decide +kernel

/-- A pending descriptor that names module 9 besides this one. -/
def pendDesc : Desc := { Desc.init with words := descWords, entries := [⟨true, true, 0, 9, false, 0, 0⟩], pend := true, setQ := 0x4000, setSerial := 1, digest := 5 }

def pending (now : Nat) : State :=
  { withQ 0x4000 { kq [pktOf .started [w0 0x22, 7]] with wlim := 10 } with descs := Tab.empty.put 7 pendDesc, tb := { TimeBase.init with now := BitVec.ofNat 64 now } }

/-- A MGMT for a descriptor that is set here and no longer pending, from a module that it names. -/
theorem witness_settled : (9 : ModId) ∈ (pending 0).otherMods { pendDesc with pend := false } ∧ ({ pendDesc with pend := false } : Desc).pend = false := by
  decide +kernel

theorem witness_pending : ∀ n ∈ [10000, 9999], (pending n).descs.get? 7 = some pendDesc ∧ (pending n).otherMods pendDesc = [9] ∧
    pendDesc.confirmed = [] ∧ (∃ y ∈ ((pending n).queue pendDesc.setQ).pkts, y.serial = pendDesc.setSerial) ∧
    (n = 10000 ↔ pendDesc.setAt.toNat + 1000 * ((pending n).queue pendDesc.setQ).wlim.toNat ≤ (pending n).tb.now.toNat) := by decide +kernel

/-- ForwardWindows: an entry that sets the last core's window, one that clears it, one with a reserved bit, and one on an excluded floe. -/
def fwinState (w1 : Word) (ex : Bool) : State :=
  { accepted [w0 0x24, 15, 0, 0, 0x8000, 0, 1] with
    mem := memAt 0x8000 [0x000FFFFF, w1], failedClu := if ex then [132 * 127, 132 * 127 + 1, 132 * 127 + 2, 132 * 127 + 3, 132 * 127 + 4] else [] }

def fwinReads (w1 : Word) (ex sound : Bool) : Bool :=
  match (fwinState w1 ex).vread 0 0x8000 8 with
  | .ok b u =>
    !b.anyPois && (fwinEntries b.data 1).all fun w => decide ((fieldN (wordAt w 0) 20 12 = 0 ∧ fieldN (wordAt w 1) 24 8 = 0) ↔ sound = true) &&
      u.excluded (floeOf (bits (wordAt w 0) 0 20)) == ex && u.descs.vals.isEmpty
  | _ => false

theorem witness_windows : (∀ e ∈ [((0x00010000 : Word).toNat, false), (0, false), (0x01000000, false), (0x00010000, true)],
    (fwinState (BitVec.ofNat 32 e.1) e.2).starting 0x4000 0x24 = some (pktOf .accepted [w0 0x24, 15, 0, 0, 0x8000, 0, 1])) ∧
    fwinReads 0x00010000 false true = true ∧ fwinReads 0 false true = true ∧ fwinReads 0x01000000 false false = true ∧ fwinReads 0x00010000 true true = true := by
  decide +kernel

/-! ### Witnesses: model load and the step engine -/

/-- One live channel, floe 0's controller at rest and no core: every line below the capacity is at rest. -/
def still (s : State) : Bool :=
  decide (s.live = [0]) && (s.home 0).txns.isEmpty && decide ((s.home 0).slots = .empty) && (s.home 0).tstate != 3 && decide (s.cores = .empty) && decide (s.clus = .empty) &&
    (s.home 0).wq.isEmpty && (s.home 0).rq.isEmpty && (s.home 0).gq.isEmpty && decide ((s.home 0).refs = .empty) && decide (s.tb.now.toNat < (s.home 0).refreshNs)

theorem still_line {s : State} (h : still s = true) {line : Nat} (hl : 128 * line + 128 ≤ s.capacity) : s.lineRests line = true := by
  simp only [still, Bool.and_eq_true, decide_eq_true_eq, List.isEmpty_iff] at h
  obtain ⟨⟨⟨⟨⟨⟨⟨⟨⟨⟨h1, h2⟩, h3⟩, h4⟩, _⟩, h6⟩, h7⟩, h8⟩, h9⟩, h10⟩, h11⟩ := h
  have hh : s.homeOfLine line = s.home 0 := by unfold State.homeOfLine; rw [floe_one h1]
  have hd : ∀ pc, s.refreshDue 0 pc = false := by
    intro pc
    unfold State.refreshDue
    rw [h10]
    simpa [Tab.empty, Tab.get, Tab.get?, lookL] using h11
  unfold State.lineRests State.hasTurn State.waiters State.homeActs State.lineOk State.hbmRuns Home.txn? Home.waiting Tab.vals
  simp only [hh, floe_one h1, hd, h2, h3, h4, h6, h7, h8, h9]
  simp [Tab.empty, hl]

theorem still_range {s : State} (h : still s = true) {off n : Nat} (hl : s.openRange off n = true) : s.rangeRests off n = true := by
  have hc : s.cores = .empty := by simp only [still, Bool.and_eq_true, decide_eq_true_eq] at h; exact h.1.1.1.1.1.1.2
  have he : off + n ≤ s.capacity := by simp [State.openRange] at hl; exact hl.1
  have hm : s.capacity % 128 = 0 := by unfold State.capacity; omega
  unfold State.rangeRests State.protectedBy
  rw [hc]
  simp only [Tab.empty, List.any_nil, Bool.not_false, Bool.and_true, List.all_eq_true]
  intro x hx
  unfold linesOf at hx
  split at hx
  · cases hx
  · obtain ⟨i, hi, rfl⟩ := List.mem_map.1 hx
    rw [List.mem_range] at hi
    exact still_line h (by omega)

/-- ModelLoads: an accepted MODEL_LOAD, and a load at each phase. -/
def loadW : List Word := [w0 0x20, 0, 0, 0, 0x100000, 0]

def ld : Load := { Load.init with queue := 0x4000, serial := 1, image := 0x100000 }

def loading (phase : BitVec 4) (l : Load) (mem : Memory) (e : Engine) : State :=
  { withQ 0x4000 (kq [pktOf .started loadW]) with
    mem := mem, eng := { e with mst := 1, mphase := phase, load := some l }, fe := { up.fe with kvpBase := 0x10000000, kvpNpage := 4096 } }

theorem witness_load : (accepted loadW).starting 0x4000 0x20 = some (pktOf .accepted loadW) ∧ (loading 1 ld ⟨[]⟩ .init).inHold = false ∧
    (loading 1 ld ⟨[]⟩ .init).fe.rstBusy = false ∧ (loading 1 ld ⟨[]⟩ .init).drained? ld = true ∧
    (∃ y ∈ ((loading 1 ld ⟨[]⟩ .init).queue ld.queue).pkts, y.serial = ld.serial) ∧ (loading 1 ld ⟨[]⟩ .init).descs.keys = [] := by decide +kernel

def checked (s : State) (l : Load) (c : Code) : Bool :=
  match s.checkModel l with
  | .ok r _ => r.code == c
  | _ => false

theorem witness_load_bad : checked (loading 1 ld ⟨[]⟩ .init) ld 0x0104 = true := by decide +kernel

/-- GOLDEN of an image of 4,096 B. -/
def ld4 : Load := { ld with len := 4096 }

theorem witness_golden : (loading 3 ld4 ⟨[]⟩ .init).rangeRests ld4.image ld4.len = true ∧ 2 * ((4096 + 2097151) / 2097152 * 2097152) ≤ (loading 3 ld4 ⟨[]⟩ .init).capacity ∧
    ((loading 3 ld4 ⟨[]⟩ .init).readRange ld4.image ld4.len).1.anyPois = false ∧
    ∀ i, i < (loading 3 ld4 ⟨[]⟩ .init).capacity / 128 → (loading 3 ld4 ⟨[]⟩ .init).lineRests i = true := by
  refine ⟨by decide +kernel, by decide +kernel, by decide +kernel, fun i hi => still_line (by decide +kernel) ?_⟩
  have : (loading 3 ld4 ⟨[]⟩ .init).capacity = 8589934592 := by decide +kernel
  rw [this] at hi ⊢
  omega

/-- WRITE of one shard of 32 B at the end of core 0's store, whose two copies read 0, with a CRC that holds and one that does not. -/
def shardOne (crc : Word) : Shard := { Shard.init with len := 1, wsoff := 262112, nlayer := 1, crc := crc }

def goldEng (crc : Word) : Engine :=
  { Engine.init with goldV := true, goldBase := 0x1FFC00000, gold0 := [0x3FF8000], gold1 := [0x3FF8001], shards := [shardOne crc] }

def writing (crc : Word) : State := loading 4 { ld with shards := [shardOne crc] } ⟨[]⟩ (goldEng crc)

def copyReads (crc : Word) (good : Bool) : Bool :=
  let s := writing crc
  let a := s.shardBytes (goldEng crc).gold0 (shardOne crc)
  let b := a.2.shardBytes (goldEng crc).gold1 (shardOne crc)
  !a.1.anyPois && !b.1.anyPois && decide (a.1.data.length = 32) && (crc32c a.1.data == crc) == good && (crc32c b.1.data == crc) == good

theorem witness_write : ((writing 0).eng.gold0 ++ (writing 0).eng.gold1).all (writing 0).lineRests = true ∧ (shardOne 0).wsAt 0 + 32 * 1 ≤ 262144 ∧
    copyReads 0x8A9136AA true = true ∧ copyReads 0 false = true := by decide +kernel

/-- StepNodes: a running step of one generating sequence with one column, at each kind of node. -/
def nodeK (k : BitVec 4) : Node := { Node.init with kind := k, pred0 := 0xFFF, pred1 := 0xFFF, desc := if 3 ≤ k ∧ k ≤ 6 then 7 else 0, code := 0x8020, vregs := 8, arg := 0x9000, ngrp := 1, nthr := 1 }

def col0 : Col := ⟨3, 0, 0, 0, 0, false, 1, 0⟩

def stepEng (ns : List Node) : Engine :=
  { Engine.init with
    mst := 2, vocab := 100, nlayers := 1, prog := some ⟨ns, 1, 1, 1, 0x40000, 0⟩, sst := 2, cols := [col0], batch := [{ Batch.init with gen := true, out := 0x50000 }],
    targets := [9], seqs := Tab.empty.put 0 { Seq.init with id := 5 } }

def result8 : Result := { Result.init with data := List.replicate 8 1, at_ := [.engine] }

def stepping (k : BitVec 4) : State :=
  { up with
    eng := stepEng [nodeK k], mem := (memAt 0x8000 [0x54495331, 0x10001, 0, 0, 0, 0, 0, 0, sexitWord.setWidth 32, (sexitWord >>> 32).setWidth 32]),
    descs := Tab.empty.put 7 { listDesc with words := [0x00010000, 0x00010020, 0, 0, 0, 0x9000, 0, 1], results := (List.range 8).map fun i => { result8 with num := i } } }

theorem witness_nodes : ∀ k ∈ [1, 2, 3, 4, 5, 6, 7, 0xF], (stepping (BitVec.ofNat 4 k)).nodeAt 0 (BitVec.ofNat 4 k) = some (nodeK (BitVec.ofNat 4 k)) ∧
    (stepping (BitVec.ofNat 4 k)).nodeAt 1 (BitVec.ofNat 4 k) = none ∧ (stepping (BitVec.ofNat 4 k)).eng.started = [] := by decide +kernel

/-- EMBED: the argument block reads clean, and every copy of the plan that lies in HBM finds its lines at rest. -/
def stillAfter (a : Acc Bytes) : Bool :=
  match a with
  | .ok b u => !b.anyPois && still u && decide (u.capacity = up.capacity) && u.eng.goldV == false
  | _ => false

theorem witness_embed : ∃ b u, (stepping 1).vread 0 (nodeK 1).arg 64 = .ok b u ∧ b.anyPois = false ∧
    ∀ x ∈ Config.embedPlan (wordsOf b.data 16) ((stepping 1).eng.cols.map (·.token)), (stepping 1).openRange x.1 x.2.2 = true →
      (stepping 1).openRange x.2.1 x.2.2 = true → u.rangeRests x.1 x.2.2 = true ∧ u.rangeRests x.2.1 x.2.2 = true := by
  have h : stillAfter ((stepping 1).vread 0 (nodeK 1).arg 64) = true := by decide +kernel
  revert h
  cases hr : (stepping 1).vread 0 (nodeK 1).arg 64 with
  | wait => intro h; cases h
  | fail c => intro h; cases h
  | ok b u =>
    intro h
    simp only [stillAfter, Bool.and_eq_true, Bool.not_eq_true', decide_eq_true_eq, beq_iff_eq] at h
    obtain ⟨⟨⟨h1, h2⟩, h3⟩, h4⟩ := h
    have o : ∀ off n, (stepping 1).openRange off n = true → u.openRange off n = true := by
      intro off n ho
      have hs : (stepping 1).capacity = up.capacity := rfl
      unfold State.openRange at ho ⊢
      rw [h3, h4]
      rw [hs] at ho
      simp only [Bool.and_eq_true] at ho
      simpa using ho.1
    exact ⟨b, u, rfl, h1, fun x _ p q => ⟨still_range h2 (o _ _ p), still_range h2 (o _ _ q)⟩⟩

/-- PLACED: the node's image passes and its argument block reads clean. -/
def placedReads : Bool :=
  match (stepping 2).checkImage 0x8020 (regAlloc 8) with
  | .ok image u => u.imageFits { (stepping 2).nodeLaunch 0 (nodeK 2) with image := image } none &&
      readsClean ((u.fillCaches { (stepping 2).nodeLaunch 0 (nodeK 2) with image := image }).vread 0 0x9000 64)
  | _ => false

/-- PLACED: the node's image has been filled already. -/
def filledStep : State := { stepping 2 with eng := { stepEng [nodeK 2] with fills := [⟨0, [sexitWord]⟩] } }

theorem witness_placed : placedReads = true ∧ filledStep.nodeAt 0 2 = some (nodeK 2) ∧
    (filledStep.eng.fills.find? fun f => f.node == 0) = some ⟨0, [sexitWord]⟩ ∧ readsClean (filledStep.vread 0 0x9000 64) = true ∧
    (stepping 2).eng.fills = [] ∧ (stepping 2).eng.started = [] := by decide +kernel

/-- REDUCE, SELECT, VERIFY and DRAFT: the rounds of the descriptor are held, with one word pair for the column. -/
def heldOne : NodeRound → Bool
  | .held [r] => !r.poisAt .engine && decide (8 ≤ r.data.length)
  | _ => false

def waitsOne : NodeRound → Bool
  | .wait => true
  | _ => false

def lostOne : NodeRound → Bool
  | .lost => true
  | _ => false

theorem witness_rounds : (∀ k ∈ [1, 2, 3, 4, 5, 6, 7],
      ({ (stepping (BitVec.ofNat 4 k)).eng with started := insertNat (stepping (BitVec.ofNat 4 k)).eng.started 0 } : Engine).toFill = []) ∧
    (List.range 8).all (fun j => heldOne ((stepping 6).nodeRound 7 ((stepping 6).descs.get 7 .init) 0 j)) = true ∧
    (stepping 5).contributed (nodeK 5) = true ∧ (stepping 5).eng.targets.length = (stepping 5).eng.cols.length ∧
    ((stepping 5).eng.cols.all fun c => decide (c.node < 32)) = true := by decide +kernel

/-- VERIFY on a descriptor without contributors; REDUCE of a round that has not come, before a PLACED node; REDUCE of a lost round while a launch of
the step runs. -/
def withDesc (s : State) (d : Desc) : State := { s with descs := Tab.empty.put 7 d }

def stepDesc : Desc := (stepping 3).descs.get 7 .init

def reduceThen : State :=
  withDesc { stepping 3 with eng := stepEng [nodeK 3, { nodeK 2 with pred0 := 0 }] } { stepDesc with results := [] }

def fillsNext : Bool :=
  match ({ reduceThen with eng := { reduceThen.eng with started := [0] } } : State).fillImage (reduceThen.nodeLaunch 1 { nodeK 2 with pred0 := 0 }) with
  | .ok image _ => image == [sexitWord]
  | _ => false

def lostStep : State :=
  { withDesc (stepping 3) { stepDesc with results := [], lost := [0] } with launches := Tab.empty.put 1 { launchOf 0 with queue := 0xFFFF } }

theorem witness_rounds_wait :
    (withDesc (stepping 5) { stepDesc with entries := [] }).contributed (nodeK 5) = false ∧
    waitsOne (reduceThen.nodeRound 7 { stepDesc with results := [] } 0 0) = true ∧ reduceThen.nodeAt 0 3 = some (nodeK 3) ∧
    ({ reduceThen.eng with started := insertNat reduceThen.eng.started 0 } : Engine).toFill = [(1, { nodeK 2 with pred0 := 0 })] ∧ fillsNext = true ∧
    waitsOne ((withDesc (stepping 3) { stepDesc with results := [] }).nodeRound 7 { stepDesc with results := [] } 0 0) = true ∧
    lostOne (lostStep.nodeRound 7 { stepDesc with results := [], lost := [0] } 0 0) = true ∧ lostStep.stepRuns = true ∧
    lostStep.nodeAt 0 3 = some (nodeK 3) := by decide +kernel

/-- StepEnds: a boundary with one LEAVE, a COMMIT, and an END before and after the other node. -/
def leaving : State :=
  { withQ 0x4000 (kq [pktOf .started [w0 1]]) with
    eng := { stepEng [] with sst := 0, batch := [], cols := [], targets := [], psteps := [⟨0x4000, 1, 2, 0, 5, 0, 0, [], 0⟩] } }

theorem witness_leave : FrontEnd leaving ∧ leaving.modelReady = true ∧ leaving.eng.nextProg = none ∧ leaving.eng.seqs.entries = [(0, { Seq.init with id := 5 })] ∧
    (∃ y ∈ (leaving.queue 0x4000).pkts, y.serial = 1) ∧ leaving.earlierStep { Seq.init with id := 5 } 1 = false ∧ up.eng.psteps = [] ∧ up.eng.seqs.entries = [] ∧ up.modelReady = false ∧ (stepping 7).eng.sst ≠ 0 :=
  ⟨⟨by decide +kernel, by decide +kernel, by decide +kernel⟩, by decide +kernel⟩

/-- A boundary with nothing to do after a step. -/
theorem witness_boundary : let s : State := { leaving with eng := { leaving.eng with sst := 1, psteps := [], seqs := .empty } }
    FrontEnd s ∧ s.eng.sst = 1 ∧ s.modelReady = true ∧ s.eng.nextProg = none ∧ s.eng.prog.isSome = true ∧ s.eng.psteps = [] ∧ s.eng.seqs.entries = [] :=
  ⟨⟨by decide +kernel, by decide +kernel, by decide +kernel⟩, by decide +kernel⟩

theorem witness_commit : okAcc ((stepping 7).commitSlot ((stepping 7).commitPlan (fun c => (stepping 7).eng.targets.getD c 0) 0 { Batch.init with gen := true, out := 0x50000 })) = true := by
  decide +kernel

def ending (done : List Nat) : State := { up with eng := { stepEng [nodeK 7, nodeK 0xF] with doneN := done, started := done } }

theorem witness_end : (ending [0]).nodeAt 1 0xF = some (nodeK 0xF) ∧ { ending [] with eng := { (ending []).eng with started := [0] } }.nodeAt 1 0xF = some (nodeK 0xF) := by
  decide +kernel

/-! ### Witnesses: tiles, errors and the register interface -/

/-- A queue with the started LAUNCH packet, and a launch of two tiles of one group. -/
def tileState (la : Launch) (c : Option Core) : State :=
  { withQ 0x4000 (kq [pktOf .started (launchW false)]) with
    launches := Tab.empty.put 1 la, launchSerial := 2,
    cores := match c with
      | some k => Tab.empty.put 0 k
      | none => .empty }

def la2 : Launch := { launchOf 0 with serial := 1, ntile := 2, next := 1, live := 0, cscnt := 1, bound := 1, args := List.replicate 16 7 }

def onTile (started fin : Bool) (now : Nat) : State :=
  { tileState { la2 with live := 1 } (some { coreOf { gr0 with fin := fin } with started := started, timer := some 0 }) with
    tb := { TimeBase.init with now := BitVec.ofNat 64 now, code := BitVec.ofNat 64 now } }

theorem witness_tile_dispatch : FrontEnd (tileState la2 none) ∧ (tileState la2 none).launches.get? 1 = some la2 ∧ (tileState la2 none).coreFree 0 = true ∧
    (tileState la2 none).launchFor 0 = some 1 ∧ (tileState la2 none).lowestFree 1 la2 0 [] = true ∧ (tileState la2 none).dispatchCycle 1 la2 0 = some [0] ∧ ((tileState la2 none).core 0).l1.entries = [] ∧
    ((onTile true false 0).core 0).launch ≠ none := ⟨⟨by decide +kernel, by decide +kernel, by decide +kernel⟩, by decide +kernel⟩

theorem witness_tile_start : FrontEnd (onTile false false 0) ∧ ((onTile false false 0).core 0).launch = some 1 ∧ ((onTile false false 0).core 0).started = false ∧
    ((onTile false false 0).clu 0).runs = true ∧ ((onTile false false 0).clu 0).draining = false ∧ la2.args.length = 16 ∧ la2.placed = false ∧
    la2.stopping = false ∧ (onTile false false 0).tb.code.toNat + 63 < 2 ^ 64 := ⟨⟨by decide +kernel, by decide +kernel, by decide +kernel⟩, by decide +kernel⟩

theorem witness_tile_finish : FrontEnd (onTile true true 0) ∧ (∀ x ∈ ((onTile true true 0).core 0).groups.vals, x.fin = true ∧ x.lostStore = false) ∧
    ((onTile true true 0).core 0).sb = [] ∧ ((onTile true true 0).core 0).ucOut = [] ∧ ((onTile true true 0).core 0).puts = [] ∧ ∃ x ∈ ((onTile true false 0).core 0).groups.vals, x.fin = false :=
  ⟨⟨by decide +kernel, by decide +kernel, by decide +kernel⟩, by decide +kernel⟩

theorem witness_launch_end : let s := tileState { la2 with next := 2 } none
    FrontEnd s ∧ s.launches.get? 1 = some { la2 with next := 2 } ∧ s.cores.entries = [] ∧ s.clus.entries = [] ∧ (∃ y ∈ (s.queue la2.queue).pkts, y.serial = la2.serial) ∧
    la2.queue ≠ 0xFFFF ∧ la2.lost = [] ∧ ({ la2 with live := 1 } : Launch).live ≠ 0 :=
  ⟨⟨by decide +kernel, by decide +kernel, by decide +kernel⟩, by decide +kernel⟩

/-- LAUNCH COMPLETE: the launch of a node of the step, and one whose store still waits for its line. -/
theorem witness_launch_node : let s : State := { stepping 2 with launches := Tab.empty.put 1 { launchOf 0 with queue := 0xFFFF, next := 1, live := 0 } }
    FrontEnd s ∧ s.cores.entries = [] ∧ s.clus.entries = [] ∧ s.eng.failCode = 0 ∧
    ({ s.eng with started := insertNat s.eng.started 0 } : Engine).toFill = [] :=
  ⟨⟨by decide +kernel, by decide +kernel, by decide +kernel⟩, by decide +kernel⟩

theorem witness_launch_stores : let s : State := { tileState { la2 with next := 2 } none with
      clus := Tab.empty.put 0 { Cluster.init with stq := [{ StqEntry.init with lid := some 1 }] } }
    FrontEnd s ∧ (s.clus.entries.any fun e => e.2.stq.any fun y => y.lid == some 1) = true ∧ s.cores.entries = [] :=
  ⟨⟨by decide +kernel, by decide +kernel, by decide +kernel⟩, by decide +kernel⟩

/-- The two sides of four times the bound of 64 ns, whatever the time-stamp's nanoseconds. -/
theorem witness_tile_timer : FrontEnd (onTile true false 257) ∧ (∀ n ∈ [193, 257], let s := onTile true false n
    (s.core 0).launch = some 1 ∧ (s.core 0).timer = some 0 ∧ s.tb.code.toNat + 63 < 2 ^ 64 ∧
    (n = 257 ↔ 256 * la2.bound < max s.tb.code.toNat (s.clu 0).stamp.toNat - 0 - (s.core 0).held.toNat) ∧
    (n = 193 ↔ max (s.tb.code.toNat + 63) (s.clu 0).stamp.toNat - 0 - (s.core 0).held.toNat ≤ 256 * la2.bound)) :=
  ⟨⟨by decide +kernel, by decide +kernel, by decide +kernel⟩, by decide +kernel⟩

/-- A core whose floe has had its tile in the cycle, with a second core of the set after it. -/
theorem witness_tile_cycle : let s := { tileState { la2 with cscnt := 2 } none with fe := { up.fe with dispatched := [0] } }
    s.coreFree 1 = true ∧ s.launchFor 1 = some 1 ∧ s.dispatchCycle 1 { la2 with cscnt := 2 } 1 = none ∧ la2.placed = false := by decide +kernel

/-- WeightRefetches: the last sector of core 0's store, which no shard covers or one does, with copy 0 clean and poisoned. -/
def refetch (shards : List Shard) (pois : List Nat) : State := { up with eng := { goldEng 0 with shards := shards }, poison := pois }

theorem witness_refetch : FrontEnd (refetch [] []) ∧ (floeOf 0).toNat < 64 ∧ (refetch [] []).west.fwOn = true ∧ (refetch [] []).sectorSource 0 8191 = none ∧
    (refetch [shardOne 0] []).sectorSource 0 8191 = some 0 ∧ (refetch [shardOne 0] []).sectorSource 0 8190 = none ∧
    (∀ l ∈ [0x3FF8000, 0x3FF8001], (refetch [] []).lineRests l = true ∧ ((refetch [] []).dirOf l).dst = .unc ∧ ((refetch [] []).dirOf l).bad = false ∧
      ((refetch [] []).chanOf l).stopped = false ∧
      (((refetch [] []).homeOfLine l).reps.find? fun r => r.line == l) = none ∧
      ((refetch [] []).homeOfLine l).waitingWrites l = [] ∧ ((refetch [] []).homeOfLine l).dcache.length < 65536) ∧ ((refetch [] []).view 0x3FF8000).pois = 0 ∧
    ((refetch [] [0x3FF8000 * 32]).view 0x3FF8000).pois ≠ 0 ∧ ((refetch [] [0x3FF8000 * 32]).view 0x3FF8001).pois = 0 :=
  ⟨⟨by decide +kernel, by decide +kernel, by decide +kernel⟩, by decide +kernel⟩

/-- DeviceResets: with a core, a port and a queue of each kind; under way; and in HOLD. -/
def resetState (busy : Bool) : State :=
  { at_ 0 (coreOf gr0) with
    fe := { up.fe with rstBusy := busy }, queues := ((Tab.empty.put 0 (kq [])).put 1 Queue.init).put 0x4000 { kq [] with st := .hold },
    ports := Tab.empty.put 3 { Port.init with st := .active } }

theorem witness_reset : FrontEnd (resetState false) ∧ (resetState true).inHold = false ∧ (resetState true).pw.on = true ∧ (resetState true).fe.rstBusy = true ∧
    (resetState true).mgmt.topo = none ∧ ({ resetState true with mgmt := { Mgmt.init with topo := some (9, 1) } } : State).mgmt.topo = some (9, 1) ∧
    (resetState true).am.lock = false ∧ (resetState false).eng.load = none ∧ ({ up with east := { bootedNt with hold := true } } : State).inHold = true :=
  ⟨⟨by decide +kernel, by decide +kernel, by decide +kernel⟩, by decide +kernel⟩

/-- DeviceResets: nothing waits at a home, a write that waits in a controller's queue, and a request of another module under BUSY. -/
theorem witness_reset_idle : (∀ h ∈ (resetState true).homes.vals, h.wq = []) ∧ ∀ f : Floe, HomeQuiet (resetState true) f := by
  refine ⟨by decide +kernel, fun f => ?_⟩
  have h : ∀ f : Floe, ((resetState true).home f).slots = .empty ∧ ((resetState true).home f).parked = [] ∧ ((resetState true).home f).ingress = [] := by
    decide +kernel
  exact quiet ⟨by rw [(h f).1]; rfl, (h f).2.1, (h f).2.2⟩

def resetWaits : State :=
  { resetState true with
    homes := Tab.empty.put 0 { Home.init with tvalid := true, tstate := 0, wq := [wq1] }, net := [.req .ucw ⟨top, .remote 1 0 0 0⟩ .init] }

theorem witness_reset_waits : (resetWaits.homes.vals.any fun h => !h.wq.isEmpty) = true ∧ resetWaits.lineOk top = true ∧
    resetWaits.deferred .ucw top .init = false ∧ takeReq (isReq (· == .ucw) ⟨top, .remote 1 0 0 0⟩) [] resetWaits.net =
      some (.req .ucw ⟨top, .remote 1 0 0 0⟩ .init) ∧
    ∀ e ∈ resetWaits.homes.entries, e.2.wcb = [] ∧ e.2.evb = [] ∧ e.2.tstate ≠ 3 ∧ ∀ w ∈ e.2.wq, (resetWaits.locOf w.line).floe.toNat = e.1 := by
  decide +kernel

/-- Registers: an open port and firmware that runs; a closed port; the bounds of PW_GATE.IDLE; LOCK set. -/
theorem witness_registers : up.portOpen = true ∧ up.ready = true ∧ up.inHold = false ∧ up.pw.on = true ∧ up.west.fwOn = true ∧ up.am.lock = false ∧
    State.reset.portOpen = false ∧ ctlOff .bar2 0x10 = some 0x10 ∧ ctlOff .bar2 0x101030 = some 0x101030 ∧ ctlOff .bar2 0x101034 = some 0x101034 ∧
    (match pageOf 0x10 with
      | .fe _ => true
      | _ => false) = true ∧ up.hostReaches (pageOf 0x10) = true ∧
    up.fe.rstBusy = false ∧ 0 < ({ up with pw := { up.pw with vin := 54000 } } : State).pw.vin.toNat ∧ 10 ≤ fieldN (0x8000000A : Word) 0 16 ∧ fieldN (0x80000009 : Word) 0 16 < 10 ∧ up.fe.hwV = false ∧ (2 : Nat) % 4 ≠ 0 := by decide +kernel

/-! ### Witnesses: boot, identity and the management port -/

/-- The module in one boot stage, straps latched. -/
def stageN (k : Nat) : State :=
  let n : Nunatak := { Nunatak.init with stage := k, latchSet := true, accepted := true }
  { State.reset with west := n, east := n }

theorem witness_stages : ∀ k ∈ [0, 1, 2, 3, 4, 5, 6], (stageN k).booting k = true ∧ (stageN k).primarySide = .west ∧ (stageN k).primary.result ≠ 5 ∧
    (stageN k).primary.accepted = true ∧ (stageN k).mgmt.topo = none ∧ (stageN k).am.linkStart = none ∧ (stageN k).am.lock = false := by decide +kernel

theorem witness_boot_windows : imgResult (stageN 1).west.window ≠ 1 := by decide +kernel

theorem witness_hbm_report : (∀ f, f < 128 → ∃ x ∈ (List.range 128).map fun f => (⟨BitVec.ofNat 7 f, 0, false, [], [], false, true⟩ : ChanReport), x.floe.toNat = f ∧ x.stackFail = true) ∧
    ((stageN 4).homes.get 127 .init).tvalid = false := by
  constructor
  · intro f hf
    refine ⟨⟨BitVec.ofNat 7 f, 0, false, [], [], false, true⟩, List.mem_map.2 ⟨f, List.mem_range.2 hf, rfl⟩, ?_, rfl⟩
    rw [BitVec.toNat_ofNat, Nat.mod_eq_of_lt hf]
  · decide +kernel

def hbmReady : State := { stageN 4 with homes := ⟨(List.range 128).map fun f => (f, { Home.init with tvalid := true })⟩ }

theorem witness_hbm : hbmReady.booting 4 = true ∧ ∀ f, f < 128 → (hbmReady.homes.get f .init).tvalid = true := by
  refine ⟨by unfold State.booting; rfl, fun f hf => ?_⟩
  have h := look_fill { Home.init with tvalid := true } .init f 128 []
  rw [List.append_nil, if_pos hf] at h
  exact congrArg Home.tvalid h

theorem witness_links : let s : State := { stageN 5 with mgmt := { Mgmt.init with topo := some (9, 1) } }
    let late : State := { s with am := { s.am with linkStart := some 0 }, tb := { TimeBase.init with now := 100000000 } }
    s.booting 5 = true ∧ s.mgmt.topo = some (9, 1) ∧ s.am.linkStart = none ∧ late.booting 5 = true ∧ (0 : Nat) + 100000000 ≤ late.tb.now.toNat ∧
    ({ stageN 6 with tb := { TimeBase.init with sync := true } } : State).tb.sync = true ∧ (stageN 6).tb.sync = false := by decide +kernel

/-- Heartbeats: good frames of each kind, a frame with a wrong CRC, and the two sides of each limit. -/
def frame (latch hold : Bool) : BitVec 64 := heartbeat .east { Nunatak.init with latch := latch, hold := hold }

theorem witness_frames : ∀ e ∈ [(false, false), (true, false), (false, true)],
    crc32c ((toBytes 8 (frame e.1 e.2)).take 4) = bits (frame e.1 e.2) 32 32 ∧ bitAt (frame e.1 e.2) 16 = e.1 ∧ bitAt (frame e.1 e.2) 18 = e.2 ∧
    (stageN 0).west.latchSet = true ∧ (stageN 0).west.latch = false ∧ (stageN 0).west.hold = false := by decide +kernel

theorem witness_bad_frame : crc32c ((toBytes 8 (0 : BitVec 64)).take 4) ≠ bits (0 : BitVec 64) 32 32 := by decide +kernel

def beating (fw : Bool) (now : Nat) (last : Option Nat) : State :=
  { stageN 0 with
    west := { (stageN 0).west with fwOn := fw, kick := some 0, pvalid := last.isSome, lastFrame := BitVec.ofNat 64 (last.getD 0) },
    tb := { TimeBase.init with now := BitVec.ofNat 64 now, running := true } }

theorem witness_watchdog : (beating true 10000000 none).west.kick = some 0 ∧ (beating true 10000000 none).tb.now.toNat ≤ (0 : BitVec 64).toNat + 10000000 ∧
    (0 : BitVec 64).toNat + 10000000 < (beating true 10000001 none).tb.now.toNat ∧ (beating true 10000001 none).west.fwOn = true ∧
    16000000 ≤ (beating false 16000000 (some 15000000)).tb.now.toNat ∧
    (beating false 16000000 (some 15000000)).west.lastFrame.toNat + 1000000 ≤ (beating false 16000000 (some 15000000)).tb.now.toNat ∧
    (beating false 16000000 (some 15000001)).tb.now.toNat < (beating false 16000000 (some 15000001)).west.lastFrame.toNat + 1000000 ∧
    ({ (stageN 0).west with live := true } : Nunatak).live ≠ (stageN 0).west.latch := by decide +kernel

/-- Quotes: an identity that is OK and one that is not, a quote under way, and the primary's port. -/
theorem witness_quotes : up.pw.on = true ∧ up.west.qbusy = false ∧ up.west.idst = 1 ∧ 1 ≤ up.west.stage ∧ (stageN 1).west.idst ≠ 1 ∧
    ({ up with west := { bootedNt with qbusy := true } } : State).west.qbusy = true ∧ up.primarySide = .west ∧ up.inHold = false := by decide +kernel

/-- ManagementFrames: a good frame of each command, an unknown one, and one with a wrong CRC. -/
def mgmtFrame (cmd : Byte) (p : List Byte) : List Byte := [cmd, BitVec.ofNat 8 p.length] ++ p ++ toBytes 2 (crc16 ([cmd, BitVec.ofNat 8 p.length] ++ p))

theorem witness_mgmt : up.pw.aon = true ∧ frameOf (mgmtFrame 1 []) = some (1, []) ∧ frameOf (mgmtFrame 2 [9, 0, 1, 0, 0, 0]) = some (2, [9, 0, 1, 0, 0, 0]) ∧
    frameOf (mgmtFrame 3 [0x5A, 0xA5]) = some (3, [0x5A, 0xA5]) ∧ frameOf (mgmtFrame 3 []) = some (3, []) ∧ frameOf (mgmtFrame 4 []) = some (4, []) ∧
    frameOf (mgmtFrame 5 []) = some (5, []) ∧ frameOf (mgmtFrame 0 []) = some (0, []) ∧ frameOf (mgmtFrame 6 []) = some (6, []) ∧ frameOf [1, 0, 0, 0] = none ∧
    up.am.everLocked = false ∧ up.west.fwOn = true ∧ (stageN 1).west.fwOn = false ∧ (stageN 1).east.fwOn = false := by decide +kernel

/-! ### Witnesses: the Amdon links -/

def portState (p : Port) : State := { up with ports := Tab.empty.put 0 p }

def activePort : Port := { Port.init with st := .active, width := 0, ver := 1, rxSeq := 5 }

/-- A flit of one type, SEQ and segments, with its CRC. -/
def flit (ty seq : Nat) (segs : List Byte) : BitVec 2048 := mkFlit (BitVec.ofNat 32 (2 ^ 28 * ty + 4096 * seq)) 0 segs

set_option maxRecDepth 20000 in
/-- LinkFlits: flits with a good CRC at, ahead of and behind the expected SEQ, at both ends of the half range. -/
theorem witness_flits : ((portState activePort).port 0) = activePort ∧ activePort.st = .active ∧ activePort.txq = [] ∧ activePort.rbuf = [] ∧ activePort.discard = false ∧
    (∀ e ∈ [5, 6, 2052, 2053, 4], flitOk (flit 1 e []) = true ∧ flitType (flit 1 e []) = 1 ∧ (flitSeq (flit 1 e [])).toNat = e ∧ flitMsgs (flit 1 e []) = []) ∧
    (flitSeq (flit 1 2052 []) - activePort.rxSeq).toNat = 2047 ∧ (flitSeq (flit 1 2053 []) - activePort.rxSeq).toNat = 2048 ∧
    flitOk (flit 0 0 []) = true ∧ flitType (flit 0 0 []) = 0 ∧ flitOk (0x1 : BitVec 2048) = false := by decide +kernel

/-- A read request from another module in the flit. -/
def readReq : XMsg := { XMsg.init with hdr := 0x0000000908000000#128 ||| place 128 64 (0x1000 : BitVec 32) }

set_option maxRecDepth 20000 in
theorem witness_read_request : flitMsgs (flit 1 5 (toBytes 16 readReq.hdr)) = [readReq] ∧ flitOk (flit 1 5 (toBytes 16 readReq.hdr)) = true ∧ readReq.mtype = 1 ∧
    readReq.dmod = (portState activePort).mid ∧ (portState activePort).lineOk (readReq.addr / 128) = true ∧ (portState activePort).inGolden readReq.addr = false := by
  decide +kernel

theorem witness_no_bundle (r : PortId) : ((portState activePort).port r).movedTo = none := by
  show (lookL [(0, activePort)] r.toNat _).movedTo = none
  unfold lookL
  split <;> rfl

theorem witness_flits_port : activePort.nakSent < 7 ∧ activePort.rx = [] ∧ activePort.rx.length < 1024 ∧ 7 ≤ ({ activePort with nakSent := 7 } : Port).nakSent ∧
    (portState { activePort with nakSent := 7 }).port 0 = { activePort with nakSent := 7 } ∧
    (portState { activePort with discard := true }).port 0 = { activePort with discard := true } ∧
    (⟨3, 0, false⟩ : Fec).bad = false ∧ (⟨0, 1, true⟩ : Fec).bad = true ∧ (up.port 0).st ≠ .active := by decide +kernel

theorem witness_nak : activePort.nakRun = 0 ∧ ({ activePort with nakRun := 7 } : Port).nakSeq = 0 ∧ ({ activePort with nakRun := 6 } : Port).nakRun + 1 < 8 ∧
    8 ≤ ({ activePort with nakRun := 7 } : Port).nakRun + 1 := by decide

/-- A port that keeps one flit, whose SEQ the NAK names. -/
theorem witness_nak_resend : ∀ f : BitVec 2048,
    ((portState { activePort with rbuf := [{ SentFlit.init with flit := f }] }).port 0).rbuf = [{ SentFlit.init with flit := f }] := fun _ => rfl

/-- LinkTraining: a port in each state of training, on a module whose topology is a ring of two in X. -/
def ring2 (st : PortState) (attempts : Nat) : State :=
  let s := portState { Port.init with st := st, attempts := attempts, ver := 1 }
  { s with am := { s.am with topo := 0x400 } }

theorem witness_topology : ∀ st ∈ [PortState.detect, .equalise, .align, .negotiate, .identify, .retrain, .down, .miswired, .off], ∀ a ∈ [1, 2],
    ((ring2 st a).port 0).st = st ∧ ((ring2 st a).port 0).attempts = a ∧ (ring2 st a).coordsOk (ring2 st a).mid = true ∧
    ((ring2 st a).port 0).movedTo = none ∧ ((ring2 st a).port 0).txq = [] ∧ ((ring2 st a).port 0).retraining = false := by decide +kernel

/-- NEGOTIATE's versions and a port that points to no module; the firmware of a port's half, running and not. -/
theorem witness_training : bitAt (⟨1, 3, 0, 64, 256⟩ : CtrlFields).versions 0 = true ∧ bitAt (⟨2, 3, 0, 64, 256⟩ : CtrlFields).versions 0 = false ∧
    (portState { Port.init with st := .negotiate }).neighbour ((portState { Port.init with st := .negotiate }).port 0).dir.toNat = none ∧
    (ring2 .off 0).trains 0 = true ∧ State.reset.trains 0 = false ∧ (ring2 .off 0).inHold = false ∧ (ring2 .off 0).pw.on = true := by decide +kernel

theorem witness_neighbours : (∃ m, (ring2 .identify 0).neighbour 0 = some m ∧ m ≠ 9) ∧ (portState activePort).neighbour 0 = none ∧
    (List.range 8).countP (0x0F : BitVec 8).getLsbD = 4 ∧ (List.range 8).countP (0x0E : BitVec 8).getLsbD = 3 ∧
    (∀ i, i < 4 → (0x0F : BitVec 8).getLsbD i = true) ∧ (0x0F : BitVec 8).getLsbD 7 = false ∧ (∀ i, 4 ≤ i → i < 8 → (0xF0 : BitVec 8).getLsbD i = true) ∧
    (0xF0 : BitVec 8).getLsbD 0 = false ∧ (∀ i, i < 8 → (0xFF : BitVec 8).getLsbD i = true) ∧ (0x77 : BitVec 8).getLsbD 3 = false ∧ (0x77 : BitVec 8).getLsbD 7 = false ∧
    ({ up with am := { up.am with mid := 0x7FFF } } : State).coordsOk 0x7FFF = false := by
  refine ⟨?_, by decide +kernel⟩
  have h : (match (ring2 .identify 0).neighbour 0 with
    | some m => m != 9
    | none => false) = true := by decide +kernel
  revert h
  cases (ring2 .identify 0).neighbour 0 with
  | none => intro h; cases h
  | some m => exact fun h => ⟨m, rfl, by simpa using h⟩

/-- RemoteTags: a tag that waits, at the two sides of AM_RTO. -/
def tagState (now : Nat) : State :=
  let s := at_ 0 { coreOf gr0 with ucOut := [{ UcOut.init with grp := 0, addr := 0x1000 }] }
  { s with tb := { TimeBase.init with now := BitVec.ofNat 64 now }, am := { s.am with rto := 10, tags := Tab.empty.put 3 { TagRec.init with use := some (.load 0 0 0x1000) } } }

theorem witness_tags : ∀ n ∈ [9999, 10000], ((tagState n).am.tags.get 3 .init).use = some (.load 0 0 0x1000) ∧ ((tagState n).am.tags.get 4 .init).use = none ∧
    (n = 10000 ↔ ((tagState n).am.tags.get 3 .init).start.toNat + 1000 * (tagState n).am.rto.toNat ≤ (tagState n).tb.now.toNat) ∧
    (((tagState n).core 0).ucOut.any fun o => o.grp == 0 && o.addr == 0x1000 && !o.store) = true := by decide +kernel

/-! ### The whole block -/

/-- InvariantKeptByEveryStep: a state that meets the invariant, and a step from it. -/
theorem witness_invariant : up.Inv ∧ ∃ t, step { up with pending := [.bar4Resize 44] } = .next t ∧ t.host.barLog = 44 ∧ t.pending = [] :=
  ⟨⟨by decide +kernel, by decide +kernel, by decide +kernel, by decide +kernel, by decide +kernel⟩, _, rfl, by decide +kernel, by decide +kernel⟩

/-! ### Well-formed commands

An ill-formed term for each check, and a term at its bound. -/

theorem test_wf_word : wellFormed (.smov g0 ⟨false, 63, 0, 0, true, 0⟩) = false ∧ wellFormed (.smov g0 ⟨false, 62, 0, 0, true, 0⟩) = true := by decide +kernel

theorem test_wf_queue : wellFormed (.nop 0x4008) = false ∧ wellFormed (.nop 0x4007) = true := by decide

theorem test_wf_kernel_queue : wellFormed (.dbKcfgEn 0x3FFF 0) = false ∧ wellFormed (.dbKcfgEn 0x4000 0) = true := by decide

theorem test_wf_line : wellFormed (.wcbEvict (2 ^ 37)) = false ∧ wellFormed (.wcbEvict (2 ^ 37 - 1)) = true := by decide +kernel

theorem test_wf_node : wellFormed (.embed 4095) = false ∧ wellFormed (.embed 4094) = true := by decide

theorem test_wf_frame : wellFormed (.status [1, 0, 0]) = false ∧ wellFormed (.status [1, 0, 0, 0]) = true := by decide

theorem test_wf_up : upOk ⟨0, 0, 0, 0, 21, 0, false⟩ = false ∧ upOk ⟨0, 0, 0, 0, 20, 0, false⟩ = true := by decide +kernel

theorem test_wf_time : timeOk ⟨0, 0, 0, 2⟩ = false ∧ timeOk ⟨0, 0, 0, 1⟩ = true := by decide

theorem test_wf_selftest : wellFormed (.selftest ⟨[16896], true⟩) = false ∧ wellFormed (.selftest ⟨[16895], true⟩) = true := by decide

theorem test_wf_channel : wellFormed (.hbmTraining [⟨0, 0, false, [40], [], false, false⟩]) = false ∧ wellFormed (.hbmTraining [⟨0, 0, false, [39], [], false, false⟩]) = true := by
  decide

theorem test_wf_extent : wellFormed (.hostBar4Read 0 0) = false ∧ wellFormed (.hostBar4Read (2 ^ 44) 1) = false ∧ wellFormed (.hostBar4Read (2 ^ 44 - 1) 1) = true := by decide +kernel

theorem test_wf_bar : wellFormed (.bar4Resize 29) = false ∧ wellFormed (.bar4Resize 45) = false ∧ wellFormed (.bar4Resize 44) = true := by decide

theorem test_wf_align : wellFormed (.readClear .bar2 8 16) = false ∧ wellFormed (.readClear .bar2 8 8) = true ∧ wellFormed (.readClear .bar2 8 0) = false ∧
    wellFormed (.registerWrite .bar2 4 false 0x100000000) = false ∧ wellFormed (.registerWrite .bar2 4 true 0x100000000) = true := by
  decide

/-! ### Words of chapter 5's worked example -/

theorem test_decode_ld : instrOf g0 0x40040040A8100010 = some (.ld g0 ⟨.b4, .ca, false, false, .v 4, 2, .lane, 2, false, 0x10⟩) := by decide +kernel

theorem test_decode_vfma : instrOf g0 0x1238028100403000 = some (.vfma g0 ⟨.f32, .rn, .v 4, .op (.v 8), .v 10, .v 6, 0⟩) := by decide +kernel

theorem test_decode_sbrexz : instrOf g0 0x6030000000000005 = some (.sbrexz g0 ⟨false, 0, 0, 0, false, 5⟩) := by decide +kernel

theorem test_decode_mxop : instrOf g0 0x7030020314540000 = some (.mxop g0 ⟨.mma, .mxfp4, .mxint8, false, 0, 12, 20, 21, .p1, .fp32, false⟩) := by decide +kernel

/-- WordsDecodeAndEncode: the example's words pass. -/
theorem witness_words : ∀ k ∈ [0x40040040A8100010, 0x1238028100403000, 0x6030000000000005, 0x7030020314540000], wordOk (BitVec.ofNat 64 k) = true := by decide +kernel

/-- The example's VFMA passes with 16 allocated registers and fails row 0x7 with 8; the record of the rejection reads as there. -/
theorem test_launch_check : checkWord 16 1 8 0x1238028100403000 = none ∧ checkWord 8 1 8 0x1238028100403000 = some 7 ∧
    (up.recordReject 0x4000 7 0x200028).regWord 0x2000 = 0x80700104 := by decide +kernel

/-! ### Worked examples of the other chapters -/

/-- Chapter 3, cell (5, 9): I after each block, and F after each fold. -/
theorem test_array_blocks :
    (mmaCell (lambdaOf .mxfp4 .mxint8) 0 [elemVal .mxfp4 1] [elemVal .mxint8 0x40]).i = 2097152 ∧
    (mmaCell (lambdaOf .mxfp4 .mxint8) 0 [elemVal .mxfp4 3, elemVal .mxfp4 0xD, elemVal .mxfp4 1, elemVal .mxfp4 7]
      [elemVal .mxint8 0x40, elemVal .mxint8 0x20, elemVal .mxint8 0x80, elemVal .mxint8 0x0A]).i = -262144 := by decide +kernel

theorem test_array_folds : (foldCell { Cell.init with h := 2097152 } (-23)).f = 0x3E800000 ∧
    (foldCell { Cell.init with h := 0xFFFC0000, f := 0x3E800000 } (-26)).f = 0x3E7C0000 := by decide +kernel

/-- Chapter 3's min-plus step. -/
theorem test_array_minplus : modeCell .minplus .int16 0x7FFFFFFF [.num 3 0, .num 32767 0, .num 5 0, .num 1 0, .num 32767 0] [.num 10 0, .num 2 0, .num 4 0, .num 20 0, .num 32767 0] =
    (9, false) := by decide +kernel

/-- Chapter 4's verification: the columns of the table, and the winner. -/
def exCols : List Col :=
  [⟨4711, 0, 0, 0, 0, false, 0x01, 1000⟩, ⟨88, 0, 1, 0, 1, false, 0x03, 1001⟩, ⟨912, 0, 2, 0, 1, false, 0x05, 1001⟩, ⟨5, 0, 3, 1, 2, false, 0x0B, 1002⟩,
   ⟨17, 0, 4, 1, 2, false, 0x13, 1002⟩, ⟨300, 0, 5, 3, 3, false, 0x2B, 1003⟩, ⟨41, 0, 6, 2, 2, false, 0x45, 1002⟩]

theorem test_verify : exCols.map (badOf exCols [88, 17, 41, 9, 2020, 6, 77]) = [0, 0, 1, 1, 0, 2, 1] ∧ winnerOf exCols (fun q => [0, 0, 1, 1, 0, 2, 1].getD q 9) 0 = 4 := by decide +kernel

/-- Chapter 8's sum of five contributors: 2.0 in the fixed order, and 3.0 and 1.0 in two orders of arrival. -/
def exPart (pos : Nat) (x : Word) : Part := { Part.init with pos := pos, data := toBytes 4 x }

def exDesc (ao : Bool) : Desc := { Desc.init with words := [if ao then 0x00800000 else 0, 0x00010020] }

def exRound (ps : List Part) : Round := { Round.init with parts := ps }

theorem test_tree : (exRound [exPart 4 0x3F800000, exPart 3 0xCB800000, exPart 2 0x3F800000, exPart 1 0x3F800000, exPart 0 0x4B800000]).total (exDesc false) 5 =
    some ⟨[0x40000000], false⟩ := by decide +kernel

/-- The root's value after the contributors' values come in an order. -/
def exArrive (xs : List Word) : Round :=
  xs.foldl (fun r x => ((exDesc true).gather r 3 0 1 0 ⟨[x], false⟩).1) Round.init

theorem test_arrival :
    (exArrive [0xCB800000, 0x4B800000, 0x3F800000, 0x3F800000, 0x3F800000]).total (exDesc true) 5 = some ⟨[0x40400000], false⟩ ∧
    (exArrive [0x4B800000, 0x3F800000, 0x3F800000, 0xCB800000, 0x3F800000]).total (exDesc true) 5 = some ⟨[0x3F800000], false⟩ := by decide +kernel

/-- Chapter 12's virtual address. -/
theorem test_levels : (List.range 4).map (fun l => levelIndex l 0x7F000040) = [0, 1, 504, 0] ∧ 0x7F000040 % levelSpan 3 = 0x40 := by decide +kernel

/-- Chapter 13's sector: its image offset. -/
def exShard : Shard := { Shard.init with core := 0x52247, len := 34, stride := 34, nlayer := 96, src := 0x100000 }

theorem test_sector : ({ up with eng := { Engine.init with shards := [exShard] } } : State).sectorSource 0x52247 0x552 = some (0x100000 + 0xAA40) := by decide +kernel

/-- Chapter 14's exchange. -/
theorem test_exchange : let e : Exch := { Exch.init with t1 := 5000000, t2 := 6234577, t3 := 6236577, t4 := 5002022 }
    e.d = 22 ∧ e.theta = 1234566 := by decide +kernel

/-- Chapter 9's and 15's module ids. -/
theorem test_coords : (List.range 3).map (coordOf 0x1085) = [4, 4, 5] := by decide +kernel

/-- SHA-384 of "abc" (FIPS 180-4's example) and the check values of CRC-32C, over the digits 1 to 9. -/
theorem test_sha : (sha384 [0x61, 0x62, 0x63]).take 8 = [0xCB, 0x00, 0x75, 0x3F, 0x45, 0xA3, 0x5E, 0x8B] := by decide +kernel

theorem test_crc32c : crc32c [0x31, 0x32, 0x33, 0x34, 0x35, 0x36, 0x37, 0x38, 0x39] = 0xE3069283 := by decide +kernel

/-- The base point of brainpoolP384r1 and its double lie on the curve. -/
theorem test_curve : ∀ p ∈ [curveG, curveAdd curveG curveG], (p.map fun q => q.2 * q.2 % curveP) =
    p.map fun q => (q.1 * q.1 * q.1 + curveA * q.1 + curveB) % curveP := by decide +kernel

end Sys2Proof.Tests
end

section
/-! SUPPORT. CompareConditions fails for an operand type that no vector word can name: the word of an E4M3 compare is the word of the i32
compare, so the image check accepts it; the model then reads the lanes as f64 values and the statement reads them as f32 values. -/
namespace Sys2Proof.Machine

/-- A write of the active lanes fixes the low word of every value that describes it. -/
theorem WroteV.low_word_unique {a b : Group} {d : BitVec 8} {pair : Bool} {v v' : Nat → BitVec 64} (h : WroteV a b d pair v)
    (h' : WroteV a b d pair v') {l : Nat} (hl : l < 32) (ha : a.exec.getLsbD l = true) : (v l).setWidth 32 = (v' l).setWidth 32 := by
  have e := (h.vregs d.toNat l hl).symm.trans (h'.vregs d.toNat l hl)
  simpa [ha] using e

/-- Sources that name no register are clean in every group. -/
theorem cleanV_of_no_register (gr : Group) {f : VF} {i : BitVec 24} (h0 : f.src0 = .zero) (h1 : f.src1 = .imm i) (h2 : f.src2 = .none)
    (w wb : Bool) : CleanV gr f w wb := by
  intro l _ _
  simp [h0, h1, h2, Group.opPois, Group.srcPois]

namespace CompareWitness

/-- VSET lt of the constant 0 and IMM24 0x800000 in type E4M3, to v9. -/
def fields : VF := ⟨.e4m3, .rn, .zero, .imm 0x800000, .none, .v 9, 2⟩

/-- Group 0 of core 0. -/
def at0 : GroupAt := ⟨0, 0⟩

/-- A group at the image's word with lane 0 alone active. -/
def group : Group := { Group.init with pc := 0x1000, exec := 1, lmask := 1 }

/-- A launch whose image at 0x1000 is that word. -/
def launch : Launch := { Launch.init with entry := 0x1000, image := [encV 0x41 fields] }

/-- A core on which the launch's tile has started. -/
def core : Core := { Core.init with launch := some 1, started := true, groups := Tab.empty.put 0 group }

/-- The module after reset with that core. -/
def state : State := { State.reset with launches := Tab.empty.put 1 launch, cores := Tab.empty.put 0 core }

/-- What the issue of the word finds. -/
def ctx : Ctx := ⟨0, 0, core, group, 1, launch⟩

theorem issues : Issues state at0 (encV 0x41 fields) ctx where
  id := rfl
  grp := rfl
  core := rfl
  launch := rfl
  la := rfl
  gr := rfl
  started := rfl
  going := rfl
  live := rfl
  free := rfl
  island := rfl
  power := rfl
  noHold := rfl
  word := rfl

theorem clean : CleanV ctx.gr fields (wide fields.ty) (wide fields.ty) := cleanV_of_no_register _ rfl rfl rfl _ _

theorem active : ctx.active 0 := ⟨by decide, by decide⟩

/-- TYPE has three bits, so the word is that of the i32 compare. -/
theorem word_eq_i32 : encV 0x41 fields = encV 0x41 { fields with ty := .i32 } := by decide

theorem word_ok : wordOk (encV 0x41 fields) = true := by
  rw [word_eq_i32]
  decide +kernel

/-- As f64 values 0 is below 0xFF800000, a subnormal: the model's condition holds. -/
theorem cmpLane_holds : cmpLane fields (group.srcs fields (wide fields.ty) (wide fields.ty) (wide fields.ty) 0) = true := by decide +kernel

/-- As f32 values 0 is not below 0xFF800000, which is −∞. -/
theorem f32_not_lt : FVal.cmp (f32 0) (f32 0xFF800000) ≠ some .lt := by decide +kernel

/-- The model's VSET writes 1 in lane 0. -/
theorem vset_writes_one {t : State} (ht : exec (.vset at0 fields) state = .next t) {val : Nat → BitVec 64}
    (hw : WroteV ctx.gr (t.groupAt at0) 9 false val) : (val 0).setWidth 32 = (1 : Word) := by
  cases ht
  have hm := (vecOp_spec issues clean rfl false fun x => if cmpLane fields x then 1 else 0).2
  refine (hw.low_word_unique hm active.1 active.2).trans ?_
  show ((if cmpLane fields (group.srcs fields (wide fields.ty) (wide fields.ty) (wide fields.ty) 0) then 1 else 0 : BitVec 64).setWidth 32) = 1
  rw [cmpLane_holds]
  rfl

end CompareWitness

open CompareWitness in
/-- Refutes O29: `f.ty` ranges over all ten types, and VSET lt in type E4M3 has the word of the i32 compare, which the image check accepts. For 0 and
0xFF800000 the model writes 1 (it compares f64 values) where the statement's condition is false (it compares f32 values). -/
theorem not_compareConditions : ¬ Obligations.CompareConditions := by
  unfold Obligations.CompareConditions
  intro h
  obtain ⟨-, -, hset⟩ := h state at0 fields ctx
  obtain ⟨t, val, ht, hw, hv⟩ := hset 9 rfl word_ok issues clean
  rcases hv 0 active with ⟨-, hlt⟩ | ⟨hzero, -⟩
  · exact f32_not_lt hlt
  · have hone := vset_writes_one ht hw
    rw [hzero] at hone
    exact absurd hone (by decide)

end Sys2Proof.Machine
end

section
/-! SUPPORT. A kernel error, the address checks of a memory instruction, and the misaligned reserved accesses that they stop. -/
namespace Sys2Proof.Machine

/-! ### A kernel error -/

theorem lookL_map {α : Type} (f : α → α) (l : List (Nat × α)) (k : Nat) (d : α) :
    lookL (l.map fun p => (p.1, f p.2)) k (f d) = f (lookL l k d) := by
  induction l with
  | nil => rfl
  | cons p t ih =>
    simp only [List.map_cons, lookL, ih]
    split <;> rfl

/-- A map over the values of a table that keeps the default maps what is read. -/
theorem Tab.get_mapVals {α : Type} (t : Tab α) {f : α → α} {d : α} (hd : f d = d) (k : Nat) : (t.mapVals f).get k d = f (t.get k d) := by
  have e := lookL_map f t.entries k d
  rwa [hd] at e

@[simp] theorem State.launches_setLaunch (s : State) (l : Nat) (la : Launch) : (s.setLaunch l la).launches.get? l = some la :=
  Tab.get?_put_same _ _ _

/-- The cores of a stopped launch read RUN 2; the others are as before (R71). -/
theorem State.core_stopLaunch (s : State) (l : Nat) (c : CoreId) :
    (s.stopLaunch l).core c = if (s.core c).launch = some l then { s.core c with run := 2 } else s.core c := by
  unfold State.core State.stopLaunch
  rw [Tab.get_mapVals _ rfl]
  simp only [beq_iff_eq]

/-- The core once it has kept the first error of its launch (R72). -/
def Core.erred (k : Core) (g : BitVec 4) (pc : BitVec 48) (code : Code) : Core :=
  if k.errSeen then k else { k with errValid := true, errGrp := g, errCode := code, epc := pc, errSeen := true, run := 2 }

@[simp] theorem Core.erred_launch (k : Core) (g : BitVec 4) (pc : BitVec 48) (code : Code) : (k.erred g pc code).launch = k.launch := by
  unfold Core.erred
  split <;> rfl

@[simp] theorem Core.erred_groups (k : Core) (g : BitVec 4) (pc : BitVec 48) (code : Code) : (k.erred g pc code).groups = k.groups := by
  unfold Core.erred
  split <;> rfl

/-- A kernel error of an issuing instruction: its core keeps the error, the launch's cores stop, and the launch is marked as stopping. -/
theorem Issues.kerr_eq {s : State} {g : GroupAt} {w : BitVec 64} {x : Ctx} (h : Issues s g w x) (code : Code) :
    ∃ la, la.stopping = true ∧
      s.kerr x code = ((s.setCore x.id (x.core.erred x.g x.gr.pc code)).stopLaunch x.lid).setLaunch x.lid la := by
  simp only [State.kerr, State.kernelError, ← h.core_eq, h.launch, State.setCore_launches, h.la]
  exact ⟨_, rfl, by rw [Core.erred, h.launch]⟩

/-- The cores after a kernel error of an issuing instruction. -/
theorem Issues.core_kerr {s : State} {g : GroupAt} {w : BitVec 64} {x : Ctx} (h : Issues s g w x) (code : Code) :
    (s.kerr x code).core x.id = { x.core.erred x.g x.gr.pc code with run := 2 } ∧
      ∀ c, c ≠ x.id → (s.kerr x code).core c = if (s.core c).launch = some x.lid then { s.core c with run := 2 } else s.core c := by
  obtain ⟨la, -, e⟩ := h.kerr_eq code
  rw [e]
  constructor
  · rw [State.core_setLaunch, State.core_stopLaunch, State.core_setCore, if_pos ((Core.erred_launch ..).trans h.launch)]
  · intro c ne
    rw [State.core_setLaunch, State.core_stopLaunch, State.core_setCore_ne _ _ ne]

/-- A kernel error of an issuing instruction, in the terms of statements (R71, R72, R381). -/
theorem Issues.kernelStop_kerr {s : State} {g : GroupAt} {w : BitVec 64} {x : Ctx} (h : Issues s g w x) (code : Code) :
    KernelStop s (s.kerr x code) x code := by
  obtain ⟨la, hla, e⟩ := h.kerr_eq code
  obtain ⟨here, others⟩ := h.core_kerr code
  refine ⟨fun fresh => ?first, fun seen => ?kept, ⟨la, ?stops, hla⟩, ?groups, others, ?rest⟩
  case first => simp [here, Core.erred, fresh]
  case kept => simp [here, Core.erred, seen]
  case stops => rw [e, State.launches_setLaunch]
  case groups => rw [here]; exact Core.erred_groups ..
  case rest => rw [e]; rfl

/-! ### Address checks -/

/-- Alignment is the first check: a misaligned reserved or atomic access gives E_ALIGN whatever its target (R183, R185, R469). -/
theorem State.checkAddr_misaligned (s : State) (spadBytes : Nat) (f : MF) (q : MemReq) {a : BitVec 64} (hq : q.atomic = true ∨ q.reserved = true)
    (ha : a.toNat % sizeBytes f.size ≠ 0) : s.checkAddr spadBytes f q a = 0x0202 := by
  have misaligned : ((q.atomic || q.reserved) && a.toNat % sizeBytes f.size != 0) = true := by simpa [ha] using hq
  unfold State.checkAddr
  simp only [misaligned, if_true, Bool.true_or]
  split <;> rfl

/-- Keeping the first code other than 0 of a list finds it. -/
theorem foldl_first_code (cs : List Code) : cs.foldl (fun c d => if c = 0 then d else c) 0 = (cs.find? (· != 0)).getD 0 := by
  induction cs with
  | nil => rfl
  | cons d t ih =>
    rw [List.foldl_cons, if_pos rfl]
    by_cases hd : d = 0
    · rw [hd, ih, List.find?_cons_of_neg (by decide)]
    · rw [List.foldl_fixed' (fun _ => if_neg hd), List.find?_cons_of_pos (p := (· != 0)) (bne_iff_ne.2 hd), Option.getD_some]

/-- The lane list of an access holds the active lanes. -/
theorem Ctx.mem_lanes {x : Ctx} {f : MF} {res : Bool} {p : Nat × BitVec 64} :
    p ∈ x.lanes f res ↔ x.active p.1 ∧ p.2 = x.gr.laneAddr f res p.1 := by
  obtain ⟨l, a⟩ := p
  simp only [Ctx.lanes, List.mem_map, mem_lanesOf, Ctx.active, Prod.mk.injEq]
  constructor
  · rintro ⟨i, hi, rfl, rfl⟩
    exact ⟨hi, rfl⟩
  · rintro ⟨hl, rfl⟩
    exact ⟨l, hl, rfl, rfl⟩

/-- When every active lane that fails its check fails with the same code, the access fails with that code. -/
theorem State.checkLanes_of_one_code {s : State} {x : Ctx} {f : MF} {q : MemReq} {code : Code} (hc : code ≠ 0)
    (all : ∀ l, x.active l → s.checkAddr (64 * x.core.spadUnits.toNat) f q (x.gr.laneAddr f q.reserved l) ≠ 0 →
      s.checkAddr (64 * x.core.spadUnits.toNat) f q (x.gr.laneAddr f q.reserved l) = code)
    (one : ∃ l, x.active l ∧ s.checkAddr (64 * x.core.spadUnits.toNat) f q (x.gr.laneAddr f q.reserved l) = code) :
    s.checkLanes x f q = code := by
  obtain ⟨l, hl, fails⟩ := one
  rw [State.checkLanes, foldl_first_code]
  cases found : List.find? (· != 0) ((x.lanes f q.reserved).map fun p => s.checkAddr (64 * x.core.spadUnits.toNat) f q p.2) with
  | none =>
    have mem : (l, x.gr.laneAddr f q.reserved l) ∈ x.lanes f q.reserved := Ctx.mem_lanes.2 ⟨hl, rfl⟩
    have passes := List.find?_eq_none.1 found _ (List.mem_map_of_mem mem)
    rw [fails] at passes
    exact absurd (bne_iff_ne.2 hc) passes
  | some c =>
    obtain ⟨p, hp, rfl⟩ := List.mem_map.1 (List.mem_of_find?_eq_some found)
    obtain ⟨hj, ha⟩ := Ctx.mem_lanes.1 hp
    have nonzero := bne_iff_ne.1 (List.find?_some (p := (· != 0)) found)
    rw [ha] at nonzero ⊢
    exact all p.1 hj nonzero

/-- Registers that are clean with the data are clean without it. -/
theorem Ctx.memPois_addr {x : Ctx} {f : MF} (h : x.memPois f true = false) : x.memPois f false = false := by
  simp only [Ctx.memPois, List.any_eq_false, Bool.true_and, Bool.false_and, Bool.or_eq_true, not_or] at h ⊢
  exact fun l hl => ⟨(h l hl).1, Bool.false_ne_true⟩

/-! ### Reserved accesses -/

theorem exec_ldr_eq (g : GroupAt) (f : MF) (s : State) : exec (.ldr g f) s = .next (ldrOp g f s) := rfl

theorem exec_stc_eq (g : GroupAt) (f : MF) (s : State) : exec (.stc g f) s = .next (stcOp g f s) := rfl

/-- An LDR whose lanes fail the address checks stops the kernel with their code. -/
theorem ldrOp_of_failed_check {s : State} {g : GroupAt} {f : MF} {x : Ctx} {code : Code} (h : Issues s g (encM 0x03 f) x)
    (clean : x.memPois f false = false) (fails : s.checkLanes x f ⟨false, false, true⟩ = code) (hc : code ≠ 0) :
    ldrOp g f s = s.kerr x code := by
  simp only [ldrOp, issuer_of_issues h, clean, fails, Bool.false_eq_true, if_false]
  exact if_pos (bne_iff_ne.2 hc)

/-- An STC whose lanes fail the address checks stops the kernel with their code. -/
theorem stcOp_of_failed_check {s : State} {g : GroupAt} {f : MF} {x : Ctx} {code : Code} (h : Issues s g (encM 0x04 f) x)
    (clean : x.memPois f true = false) (fails : s.checkLanes x f ⟨true, false, true⟩ = code) (hc : code ≠ 0) :
    stcOp g f s = s.kerr x code := by
  simp only [stcOp, issuer_of_issues h, clean, fails, Bool.false_eq_true, if_false]
  exact if_pos (bne_iff_ne.2 hc)

/-- A reserved access with a misaligned lane and no other failing lane fails its address checks with E_ALIGN (R183). -/
theorem State.checkLanes_reserved_misaligned {s : State} {x : Ctx} {f : MF} (store : Bool)
    (bad : ∃ l, x.active l ∧ (x.gr.laneAddr f true l).toNat % sizeBytes f.size ≠ 0)
    (good : ∀ l, x.active l → (x.gr.laneAddr f true l).toNat % sizeBytes f.size = 0 →
      s.checkAddr (64 * x.core.spadUnits.toNat) f ⟨store, false, true⟩ (x.gr.laneAddr f true l) = 0) :
    s.checkLanes x f ⟨store, false, true⟩ = 0x0202 := by
  have misaligned {l : Nat} (hl : (x.gr.laneAddr f true l).toNat % sizeBytes f.size ≠ 0) :
      s.checkAddr (64 * x.core.spadUnits.toNat) f ⟨store, false, true⟩ (x.gr.laneAddr f true l) = 0x0202 :=
    s.checkAddr_misaligned _ f _ (.inr rfl) hl
  obtain ⟨l, hl, hbad⟩ := bad
  exact State.checkLanes_of_one_code (by decide) (fun j hj fails => misaligned fun aligned => fails (good j hj aligned))
    ⟨l, hl, misaligned hbad⟩

/-- Settles O30: a misaligned lane fails with E_ALIGN, the other lanes pass, so the access checks give E_ALIGN and the instruction ends as a
kernel error before it asks for anything. -/
theorem misalignedReservedAccess : Obligations.MisalignedReservedAccess := by
  unfold Obligations.MisalignedReservedAccess
  intro s g f x p hp issues clean a n bad good
  have fails : s.checkLanes x f ⟨p.2.2, false, true⟩ = 0x0202 := State.checkLanes_reserved_misaligned p.2.2 bad good
  refine ⟨s.kerr x 0x0202, ?_, issues.kernelStop_kerr 0x0202⟩
  simp only [List.mem_cons, List.not_mem_nil, or_false] at hp
  obtain rfl | rfl := hp
  · rw [exec_ldr_eq, ldrOp_of_failed_check issues (Ctx.memPois_addr clean) fails (by decide)]
  · rw [exec_stc_eq, stcOp_of_failed_check issues clean fails (by decide)]

end Sys2Proof.Machine
end

section
/-! SUPPORT. What the front end's reads of memory leave unchanged, from a read of the stack up to the page walk, and the ring fetch whose
slot fails translation. -/
namespace Sys2Proof.Machine

/-- The state with a fixed value in place of everything that a whole-step read of memory or a page walk may change: the stack and its
poison, the slices, the homes, the counts of replays, of poisoned words and of directory errors, and the translation cache with its count. -/
def State.besideReads (s : State) : State :=
  { s with mem := ⟨[]⟩, poison := [], clus := .empty, homes := .empty,
           fe := { s.fe with dirErr := 0, walks := 0, xc := [] }, dg := { s.dg with aoReplay := 0, aoPoison := 0 } }

/-- A fold keeps what every step of it keeps. -/
theorem foldl_keeps {α β γ : Type} (p : β → γ) {f : β → α → β} (h : ∀ b a, p (f b a) = p b) (l : List α) (b : β) :
    p (l.foldl f b) = p b := by
  induction l generalizing b with
  | nil => rfl
  | cons a l ih => rw [List.foldl_cons, ih, h]

/-! ### The home's operations on a line -/

namespace State

@[simp] theorem besideReads_setClu (s : State) (c : Clu) (k : Cluster) : (s.setClu c k).besideReads = s.besideReads := rfl

@[simp] theorem besideReads_onHome (s : State) (line : Nat) (f : Home → Home) : (s.onHome line f).besideReads = s.besideReads := rfl

@[simp] theorem besideReads_onStack (s : State) (m : Memory) (p : List Nat) :
    { s with mem := m, poison := p }.besideReads = s.besideReads := rfl

theorem besideReads_dirErr (s : State) (n : Word) : { s with fe := { s.fe with dirErr := n } }.besideReads = s.besideReads := rfl

@[simp] theorem besideReads_replayed (s : State) : s.replayed.besideReads = s.besideReads := rfl

@[simp] theorem besideReads_poisoned (s : State) (n : Nat) : (s.poisoned n).besideReads = s.besideReads := by
  unfold State.poisoned
  split <;> rfl

@[simp] theorem besideReads_stackRead (s : State) (line : Nat) (gath : Bool) (r : StackReport) :
    (s.stackRead line gath r).2.besideReads = s.besideReads := by
  unfold State.stackRead
  simp only
  split
  · simp
  · split
    · simp
    · simp only [besideReads_onHome]
      split <;> simp

@[simp] theorem besideReads_writeMem (s : State) (e : StackReq) : (s.writeMem e).besideReads = s.besideReads := by
  unfold State.writeMem
  split
  · simp
  · simp only [besideReads_onHome, besideReads_onStack]
    split <;> simp

@[simp] theorem besideReads_pumpWrites (s : State) (line : Nat) : (s.pumpWrites line).besideReads = s.besideReads := by
  unfold State.pumpWrites
  split
  · rfl
  · refine foldl_keeps State.besideReads (fun t e => ?_) _ s
    split <;> simp

@[simp] theorem besideReads_flushWrites (s : State) (line : Nat) : (s.flushWrites line).besideReads = s.besideReads := by
  unfold State.flushWrites
  split
  · rfl
  · exact foldl_keeps State.besideReads (fun t e => by simp) _ s

@[simp] theorem besideReads_putWrite (s : State) (line : Nat) (c : Cover) (merge : Bool) (dir : Option DirWords) :
    (s.putWrite line c merge dir).besideReads = s.besideReads := by
  simp [State.putWrite]

@[simp] theorem besideReads_wcbOut (s : State) (e : WcbEntry) : (s.wcbOut e).besideReads = s.besideReads := by
  simp [State.wcbOut]

@[simp] theorem besideReads_evDrain (s : State) (e : EvEntry) : (s.evDrain e).besideReads = s.besideReads := by
  unfold State.evDrain
  simp only
  split <;> simp

@[simp] theorem besideReads_evIn (s : State) (line : Nat) (v : LineVal) (dirty : BitVec 4) :
    (s.evIn line v dirty).besideReads = s.besideReads := by
  unfold State.evIn
  simp only [besideReads_onHome]
  split
  · split <;> simp
  · rfl

/-! ### The directory -/

@[simp] theorem besideReads_entryRead (s : State) (line : Nat) (lost : Bool) : (s.entryRead line lost).besideReads = s.besideReads := by
  simp [State.entryRead]

@[simp] theorem besideReads_fetchDir (s : State) (line : Nat) : (s.fetchDir line).2.besideReads = s.besideReads := by
  unfold State.fetchDir
  split
  · rfl
  · simp

@[simp] theorem besideReads_setDir (s : State) (line : Nat) (e : DirEntry) : (s.setDir line e).besideReads = s.besideReads := by
  unfold State.setDir
  simp only
  split
  · simp
  · simp only [besideReads_putWrite, besideReads_onHome]
    split <;> simp

/-! ### Reads of lines and of bytes -/

@[simp] theorem besideReads_readLine (s : State) (line : Nat) (got : Option LineVal) :
    (s.readLine line got).2.besideReads = s.besideReads := by
  unfold State.readLine
  split
  · rfl
  · split
    · rfl
    · simp

/-- A recall for a whole-step access moves the copies of the line to its home and sends no message (R212). -/
@[simp] theorem besideReads_recallAll (s : State) (line : Nat) (inv : Bool) : (s.recallAll line inv).besideReads = s.besideReads := by
  unfold State.recallAll
  extract_lets e take dirty recalled spoilt unc _ fromOwner dropped
  have take_keeps (all : Bool) (t : State) (k : Clu) : (take all t k).besideReads = t.besideReads := by
    simp only [take]
    cases (t.clu k).heldAt line with
    | none => rfl
    | buffer w =>
      dsimp only
      split <;> simp
    | line l =>
      dsimp only
      split <;> simp
  split
  case isTrue =>
    have recalled_keeps : recalled.besideReads = s.besideReads := foldl_keeps State.besideReads (take_keeps true) _ s
    have spoilt_keeps : spoilt.besideReads = recalled.besideReads := by
      simp only [spoilt]
      split <;> simp
    have unc_keeps : unc.besideReads = spoilt.besideReads := besideReads_setDir ..
    exact (besideReads_dirErr unc _).trans (unc_keeps.trans (spoilt_keeps.trans recalled_keeps))
  case isFalse =>
    have owner_keeps : fromOwner.besideReads = s.besideReads := by
      simp only [fromOwner]
      split
      · exact take_keeps ..
      · rfl
    have dropped_keeps : dropped.besideReads = fromOwner.besideReads :=
      foldl_keeps State.besideReads (fun _ _ => besideReads_setClu ..) _ fromOwner
    split
    · rw [besideReads_setDir, dropped_keeps, owner_keeps]
    · split
      · rw [besideReads_setDir, owner_keeps]
      · exact owner_keeps

@[simp] theorem besideReads_hostLine (s : State) (line : Nat) : (s.hostLine line).2.besideReads = s.besideReads := by
  simp [State.hostLine]

@[simp] theorem besideReads_readRange (s : State) (off n : Nat) : (s.readRange off n).2.besideReads = s.besideReads :=
  foldl_keeps (fun a : List (Nat × LineVal) × State => a.2.besideReads) (fun a l => besideReads_hostLine a.2 l) _ _

end State

/-! ### Accesses of the front end -/

/-- The access has made reads of `s` and nothing else; if it fails, it fails with E_XLATE. -/
def Acc.Reads {α : Type} (s : State) : Acc α → Prop
  | .wait => True
  | .fail c t => c = 0x0302 ∧ t.besideReads = s.besideReads
  | .ok _ t => t.besideReads = s.besideReads

theorem Acc.reads_fail {α : Type} (s : State) : (Acc.fail 0x0302 s : Acc α).Reads s := ⟨rfl, rfl⟩

theorem Acc.reads_ok {α : Type} (a : α) {s t : State} (e : t.besideReads = s.besideReads) : (Acc.ok a t).Reads s := e

/-- Reads seen from a state that differs from `s` only by reads. -/
theorem Acc.Reads.after {α : Type} {s t : State} {x : Acc α} (h : x.Reads t) (e : t.besideReads = s.besideReads) : x.Reads s := by
  cases x with
  | wait => trivial
  | fail c u => exact ⟨h.1, h.2.trans e⟩
  | ok a u => exact h.trans e

/-- The state that the first access leaves is the one that the second reads from. -/
theorem Acc.Reads.bind {α β : Type} {s : State} {x : Acc α} {f : α → State → Acc β} (h : x.Reads s) (hf : ∀ a t, (f a t).Reads t) :
    (x.bind f).Reads s := by
  cases x with
  | wait => trivial
  | fail c t => exact h
  | ok a t => exact (hf a t).after h

theorem Acc.Reads.foldl_bind {α ι : Type} {s : State} {f : ι → α → State → Acc α} (hf : ∀ i a t, (f i a t).Reads t) (l : List ι) {x : Acc α}
    (h : x.Reads s) : (l.foldl (fun acc i => acc.bind (f i)) x).Reads s := by
  induction l generalizing x with
  | nil => exact h
  | cons i l ih => exact ih (h.bind (hf i))

namespace State

theorem takeRange_reads (s : State) (off n : Nat) : (s.takeRange off n).Reads s := by
  unfold State.takeRange
  split
  · exact besideReads_readRange s off n
  · trivial

theorem walkFrom_reads (k : Nat) : ∀ (s : State) (l tab va : Nat), (s.walkFrom k l tab va).Reads s := by
  induction k with
  | zero => exact fun s _ _ _ => Acc.reads_fail s
  | succ k ih =>
    intro s l tab va
    unfold State.walkFrom
    split
    · exact Acc.reads_fail s
    · refine (s.takeRange_reads _ _).bind fun b t => ?_
      dsimp only
      split
      · exact Acc.reads_fail t
      · split
        · exact Acc.reads_ok _ rfl
        · exact ih ..

theorem page_reads (s : State) (a : Asid) (va : Nat) : (s.page a va).Reads s := by
  unfold State.page
  split
  · split
    · exact Acc.reads_ok _ rfl
    · exact Acc.reads_fail s
  · split
    · exact Acc.reads_ok _ rfl
    · split
      · exact Acc.reads_fail s
      · split
        · exact Acc.reads_fail s
        · refine Acc.Reads.after (t := { s with fe := { s.fe with walks := s.fe.walks + 1 } }) ?_ rfl
          exact (State.walkFrom_reads ..).bind fun _ _ => Acc.reads_ok _ rfl

theorem pieces_reads (s : State) (a : Asid) (va n : Nat) (w : Bool) : (s.pieces a va n w).Reads s := by
  unfold State.pieces
  split
  · exact Acc.reads_ok _ rfl
  · split
    · exact Acc.reads_fail s
    · refine Acc.Reads.foldl_bind (fun i ps t => ?_) _ (Acc.reads_ok _ rfl)
      refine (t.page_reads a _).bind fun p u => ?_
      split
      · exact Acc.reads_fail u
      · dsimp only
        split
        · exact Acc.reads_fail u
        · exact Acc.reads_ok _ rfl

/-- A read of virtual bytes makes reads of memory alone, and fails with no code but E_XLATE. -/
theorem vread_reads (s : State) (a : Asid) (va n : Nat) : (s.vread a va n).Reads s :=
  (s.pieces_reads a va n false).bind fun ps _ =>
    Acc.Reads.foldl_bind (fun p _ u => (u.takeRange_reads p.1 p.2).bind fun _ _ => Acc.reads_ok _ rfl) ps (Acc.reads_ok _ rfl)

end State

/-! ### The ring fetch -/

theorem exec_ringFetch_eq (q : QId) (s : State) : exec (.ringFetch q) s = .next (ringFetchOp q s) := rfl

/-- The fetch of a slot that does not translate makes its queue FAILED with the code of the read, in the state that the read left (R331). -/
theorem ringFetchOp_of_failed_read {s u : State} {q : QId} {c : Code} (front : FrontEnd s) (next : s.nextQueue = some q)
    (fails : s.vread (s.queue q).asid ((s.queue q).rbase + 64 * ((s.queue q).rptr.toNat % 2 ^ (s.queue q).rlog)) 64 = .fail c u) :
    ringFetchOp q s = u.setQueue q { s.queue q with st := .failed, code := c } := by
  obtain ⟨hold, power, reset⟩ := front
  simp [ringFetchOp, hold, power, reset, next, fails]

/-- Settles O31: the fetch makes its queue FAILED with the code of the failed read; a read of virtual bytes fails with no code but E_XLATE,
and changes nothing but what reads of memory change. `Tests.witness_ring` gives a queue whose slot fails. -/
theorem failedRingFetch : Obligations.FailedRingFetch := by
  unfold Obligations.FailedRingFetch
  intro s u q c front next x fails
  obtain ⟨code, kept⟩ : c = 0x0302 ∧ u.besideReads = s.besideReads := by
    have reads := s.vread_reads x.asid (x.rbase + 64 * (x.rptr.toNat % 2 ^ x.rlog)) 64
    rwa [fails] at reads
  refine ⟨_, exec_ringFetch_eq q s, ?_, (congrArg State.queues kept :), (congrArg State.eng kept :), (congrArg State.launches kept :),
    (congrArg State.net kept :)⟩
  rw [ringFetchOp_of_failed_read front next fails, code]

end Sys2Proof.Machine
end
